-- ==== Sys2Proof/Word.lean ====
section
/-! DEFINITION. The word types of the Larua: instruction words (R32), scalar registers (R161), lane values (R57)
and bytes. -/

namespace Sys2Proof

/-- A 64-bit instruction word or scalar register value (R32, R161). -/
abbrev Word64 := BitVec 64

/-- One byte of memory. -/
abbrev Byte := BitVec 8

end Sys2Proof
end

