-- ==== Sys2Proof/Machine/Bits.lean ====
section
/-! DEFINITION. Bit fields, sign extension, byte order and bit counting: the helpers every family uses (R2, R7). -/

namespace Sys2Proof.Machine

/-- Bits h down to l of x, as an unsigned integer (Table 0.3). -/
def bits (x h l : Nat) : Nat := (x / 2 ^ l) % 2 ^ (h + 1 - l)

/-- Bit i of x. -/
def bitAt (x i : Nat) : Bool := x / 2 ^ i % 2 == 1

/-- x read as a w-bit two's-complement integer. -/
def sgn (w x : Nat) : Int := if x % 2 ^ w < 2 ^ (w - 1) then (x % 2 ^ w : Nat) else (x % 2 ^ w : Nat) - (2 ^ w : Nat)

/-- The low w bits of an exact integer. -/
def low (w : Nat) (x : Int) : Nat := (x % (2 ^ w : Nat)).toNat

/-- The little-endian value of a list of bytes (R2). -/
def leVal : List Byte → Nat
  | [] => 0
  | b :: rest => b.toNat + 256 * leVal rest

/-- The n little-endian bytes of x (R2). -/
def leBytes : Nat → Nat → List Byte
  | 0, _ => []
  | n + 1, x => BitVec.ofNat 8 x :: leBytes n (x / 256)

/-- The number of set bits among the low w bits of x. -/
def popcount : Nat → Nat → Nat
  | 0, _ => 0
  | w + 1, x => x % 2 + popcount w (x / 2)

/-- The number of bits up to and including the highest set one; 0 for 0. -/
def bitLen (x : Nat) : Nat := if x = 0 then 0 else Nat.log2 x + 1

/-- Bit w − 1 − i of the result is bit i of x. -/
def bitRev : Nat → Nat → Nat
  | 0, _ => 0
  | w + 1, x => (x % 2) * 2 ^ w + bitRev w (x / 2)

/-- The positions, rising, of the set bits of x from position i on, over w bits. -/
def setBits : Nat → Nat → Nat → List Nat
  | 0, _, _ => []
  | w + 1, i, x => if x % 2 = 1 then i :: setBits w (i + 1) (x / 2) else setBits w (i + 1) (x / 2)

/-- x with its bits h down to l replaced by the low bits of f. -/
def putBits (x h l f : Nat) : Nat :=
  x - bits x h l * 2 ^ l + (f % 2 ^ (h + 1 - l)) * 2 ^ l

/-- Bitwise not over w bits. -/
def notBits (w x : Nat) : Nat := 2 ^ w - 1 - x % 2 ^ w

/-- Rotate left by n over w bits. -/
def rotl (w x n : Nat) : Nat :=
  let k := n % w
  (x % 2 ^ w * 2 ^ k) % 2 ^ w + x % 2 ^ w / 2 ^ (w - k)

/-- The bytes of `size` from `off` as a mask. -/
def byteMask (off size : Nat) : Nat := (2 ^ size - 1) * 2 ^ off

/-- Bytes of x selected by a byte mask, the others from y; n bytes in all. -/
def mixBytes : Nat → Nat → Nat → Nat → Nat
  | 0, _, _, _ => 0
  | n + 1, m, x, y => (if m % 2 = 1 then x % 256 else y % 256) + 256 * mixBytes n (m / 2) (x / 256) (y / 256)

end Sys2Proof.Machine
end

