-- ==== Sys2Proof/Machine/Crypto.lean ====
section
/-! DEFINITION. The published ciphers and the hash that R10 names: AES-256 with XTS (R359, IEEE 1619) and GCM (R383),
and SHAKE256 with a 64-byte output (R385, R407, R412), as their standards define them. Blocks are lists of byte values. -/

namespace Sys2Proof.Machine

/-! ## Bytes -/

/-- Exclusive or, byte by byte, of two strings of one length. -/
def xorBytes (a b : List Nat) : List Nat := List.zipWith (· ^^^ ·) a b

/-- n bytes of x, least significant first, and most significant first. -/
def leNats (n x : Nat) : List Nat := (leBytes n x).map BitVec.toNat

def beNats (n x : Nat) : List Nat := (leNats n x).reverse

def leNatVal (l : List Nat) : Nat := l.foldr (fun b x => b + 256 * x) 0

def beNatVal (l : List Nat) : Nat := l.foldl (fun x b => 256 * x + b) 0

/-- Consecutive parts of n bytes, at most `fuel` of them; the last may be short. -/
def chunks (n : Nat) : Nat → List Nat → List (List Nat)
  | 0, _ => []
  | fuel + 1, l => if l.isEmpty then [] else l.take n :: chunks n fuel (l.drop n)

/-! ## AES-256 (FIPS 197) -/

/-- Multiply by x in the field of AES. -/
def xtime (a : Nat) : Nat := (a * 2 % 256) ^^^ (if 128 ≤ a then 0x1B else 0)

/-- The product of the field of AES, over `n` bits of b. -/
def gfMul : Nat → Nat → Nat → Nat
  | 0, _, _ => 0
  | n + 1, a, b => (if b % 2 = 1 then a else 0) ^^^ gfMul n (xtime a) (b / 2)

/-- a^(2^(n+1) − 2), from a and the number of squarings: the inverse for n = 7. -/
def gfPow : Nat → Nat → Nat
  | 0, _ => 1
  | n + 1, a => gfMul 8 (gfMul 8 a a) (gfPow n (gfMul 8 a a))

def sbox (a : Nat) : Nat :=
  let b := gfPow 7 a
  b ^^^ rotl 8 b 1 ^^^ rotl 8 b 2 ^^^ rotl 8 b 3 ^^^ rotl 8 b 4 ^^^ 0x63

def sboxInv (y : Nat) : Nat := gfPow 7 (rotl 8 y 1 ^^^ rotl 8 y 3 ^^^ rotl 8 y 6 ^^^ 0x05)

/-- The key schedule: from the last eight words, newest first, the next n words, each placed before them. -/
def aesExpand : Nat → Nat → Nat → List (List Nat) → List (List Nat)
  | 0, _, _, ws => ws
  | n + 1, i, rcon, ws =>
    let prev := ws.headD []
    let old := ws.getD 7 []
    let t := if i % 8 = 0 then
        match (prev.drop 1 ++ prev.take 1).map sbox with
        | a :: rest => (a ^^^ rcon) :: rest
        | [] => []
      else if i % 8 = 4 then prev.map sbox else prev
    aesExpand n (i + 1) (if i % 8 = 0 then xtime rcon else rcon) (xorBytes old t :: ws)

/-- The 15 round keys of a 32-byte key. -/
def aesKeys (key : List Nat) : List (List Nat) :=
  let ws := (aesExpand 52 8 1 (chunks 4 8 key).reverse).reverse
  (List.range 15).map (fun r => ((ws.drop (4 * r)).take 4).flatten)

def shiftRows (l : List Nat) : List Nat := (List.range 16).map (fun i => l.getD ((i + 4 * (i % 4)) % 16) 0)

def shiftRowsInv (l : List Nat) : List Nat := (List.range 16).map (fun i => l.getD ((i + 12 * (i % 4)) % 16) 0)

/-- Each column times the circulant matrix whose first row is given. -/
def mixWith (m l : List Nat) : List Nat :=
  (List.range 16).map (fun i =>
    (List.range 4).foldl (fun x k => x ^^^ gfMul 8 (l.getD (i / 4 * 4 + k) 0) (m.getD ((k + 4 - i % 4) % 4) 0)) 0)

/-- Encrypt one 16-byte block under a 32-byte key. -/
def aesEnc (key block : List Nat) : List Nat :=
  let ks := aesKeys key
  let x := (List.range 13).foldl (fun x r =>
    xorBytes (mixWith [2, 3, 1, 1] (shiftRows (x.map sbox))) (ks.getD (r + 1) [])) (xorBytes block (ks.getD 0 []))
  xorBytes (shiftRows (x.map sbox)) (ks.getD 14 [])

/-- Decrypt one block. -/
def aesDec (key block : List Nat) : List Nat :=
  let ks := aesKeys key
  let x := (List.range 13).foldl (fun x r =>
    mixWith [14, 11, 13, 9] (xorBytes ((shiftRowsInv x).map sboxInv) (ks.getD (13 - r) []))) (xorBytes block (ks.getD 14 []))
  xorBytes ((shiftRowsInv x).map sboxInv) (ks.getD 0 [])

/-! ## XTS (IEEE 1619) -/

/-- The tweak of block j: the data unit's number encrypted under the second key, times x^j. -/
def xtsTweak (key2 : List Nat) (unit : Nat) : Nat → Nat
  | 0 => leNatVal (aesEnc key2 (leNats 16 unit))
  | j + 1 =>
    let t := xtsTweak key2 unit j
    (t * 2 % 2 ^ 128) ^^^ (if 2 ^ 127 ≤ t then 0x87 else 0)

/-- One 16-byte block of a data unit, as a number, encrypted or decrypted under a key of 64 bytes. -/
def xtsEnc (key : BitVec 512) (unit j x : Nat) : Nat :=
  let k := leNats 64 key.toNat
  let t := xtsTweak (k.drop 32) unit j
  leNatVal (aesEnc (k.take 32) (leNats 16 (x ^^^ t))) ^^^ t

def xtsDec (key : BitVec 512) (unit j x : Nat) : Nat :=
  let k := leNats 64 key.toNat
  let t := xtsTweak (k.drop 32) unit j
  leNatVal (aesDec (k.take 32) (leNats 16 (x ^^^ t))) ^^^ t

/-! ## GCM (NIST SP 800-38D) with a 12-byte IV and a 16-byte tag -/

/-- The product of GHASH, over the low n bits of y, the highest of them first. -/
def ghashMul : Nat → Nat → Nat → Nat → Nat
  | 0, _, _, z => z
  | n + 1, v, y, z =>
    ghashMul n (v / 2 ^^^ (if v % 2 = 1 then 0xE1 * 2 ^ 120 else 0)) y (if bitAt y n then z ^^^ v else z)

/-- GHASH of 16-byte blocks; a short one is filled with zeros. -/
def ghash (h : Nat) (bs : List (List Nat)) : Nat :=
  bs.foldl (fun y b => ghashMul 128 (y ^^^ beNatVal (b ++ List.replicate (16 - b.length) 0)) h 0) 0

/-- The key stream block with counter n. -/
def gcmBlock (key iv : List Nat) (n : Nat) : List Nat := aesEnc key (iv ++ beNats 4 (n % 2 ^ 32))

/-- The first 32 bytes of a key slot. -/
def gcmKey (key : BitVec 512) : List Nat := leNats 32 key.toNat

/-- The text of ciphertext bytes that begin at an offset. -/
def gcmText (key : BitVec 512) (iv : List Byte) (off : Nat) (text : List Byte) : List Byte :=
  let stream := (List.range ((off % 16 + text.length + 15) / 16)).flatMap (fun i =>
    gcmBlock (gcmKey key) (iv.map BitVec.toNat) (off / 16 + i + 2))
  (xorBytes (text.map BitVec.toNat) (stream.drop (off % 16))).map (BitVec.ofNat 8)

/-- The tag over AAD and ciphertext. -/
def gcmTag (key : BitVec 512) (iv aad text : List Byte) : List Byte :=
  let k := gcmKey key
  let nats (l : List Byte) : List (List Nat) := chunks 16 l.length (l.map BitVec.toNat)
  let h := beNatVal (aesEnc k (List.replicate 16 0))
  let y := ghash h (nats aad ++ nats text ++ [beNats 8 (8 * aad.length) ++ beNats 8 (8 * text.length)])
  (xorBytes (beNats 16 y) (gcmBlock k (iv.map BitVec.toNat) 1)).map (BitVec.ofNat 8)

/-! ## SHAKE256 (FIPS 202) -/

/-- The state of Keccak-f[1600]: five planes of five 64-bit lanes, plane y holding the lanes (0, y) to (4, y). -/
abbrev Planes := List (List Nat)

/-- A row turned left by n places: lane x of what comes is lane x + n. -/
def turn (n : Nat) (row : List Nat) : List Nat := row.drop n ++ row.take n

/-- θ: each lane takes in the parities of the columns on both its sides. -/
def keccakTheta (a : Planes) : Planes :=
  let parity := a.foldl xorBytes (List.replicate 5 0)
  let effect := xorBytes (turn 4 parity) ((turn 1 parity).map (fun c => rotl 64 c 1))
  a.map (xorBytes effect)

/-- ρ and π at once: from (1, 0) on, each step carries the lane in hand to its next place (x, y) → (y, 2x + 3y), turned by the
triangular numbers 1, 3, 6, … modulo 64; the lane (0, 0) stays. -/
def keccakCarry (a : Planes) : Nat → Nat → Nat → Planes → Planes
  | 0, _, _, out => out
  | n + 1, x, y, out =>
    let lane := (a.getD y []).getD x 0
    let v := (2 * x + 3 * y) % 5
    let t := 24 - n
    keccakCarry a n y v (out.modify v (fun row => row.set y (rotl 64 lane (t * (t + 1) / 2 % 64))))

/-- χ on one plane. -/
def keccakChi (row : List Nat) : List Nat :=
  xorBytes row (List.zipWith (fun p q => notBits 64 p &&& q) (turn 1 row) (turn 2 row))

/-- The bit register that generates the constants of ι, clocked once. -/
def keccakClock (r : Nat) : Nat := (2 * r % 256) ^^^ (if 128 ≤ r then 0x71 else 0)

/-- The constant of a round from the register at its start: bit 2^j − 1 is the register's bit 0 after j clocks. -/
def keccakIota : Nat → Nat → Nat → Nat
  | 0, _, _ => 0
  | n + 1, j, r => (if r % 2 = 1 then 2 ^ (2 ^ j - 1) else 0) + keccakIota n (j + 1) (keccakClock r)

/-- n rounds from a register on. -/
def keccakRounds : Nat → Nat → Planes → Planes
  | 0, _, a => a
  | n + 1, r, a =>
    let a := keccakTheta a
    let a := (keccakCarry a 24 1 0 a).map keccakChi
    let first := (a.headD []).headD 0 ^^^ keccakIota 7 0 r
    keccakRounds n ((List.range 7).foldl (fun r _ => keccakClock r) r) (a.modify 0 (fun row => row.set 0 first))

def keccakF (a : Planes) : Planes := keccakRounds 24 1 a

/-- The message as blocks of 136 bytes with the padding of SHAKE. -/
def shakeBlocks (l : List Nat) : List (List Nat) :=
  let p := l ++ [0x1F]
  let z := p ++ List.replicate ((136 - p.length % 136) % 136) 0
  let z := z.take (z.length - 1) ++ [z.getD (z.length - 1) 0 ^^^ 0x80]
  chunks 136 z.length z

/-- A block of 17 lanes is taken in. -/
def shakeAbsorb (a : Planes) (block : List Nat) : Planes :=
  let lanes := (chunks 8 17 block).map leNatVal ++ List.replicate 8 0
  keccakF (List.zipWith xorBytes a (chunks 5 5 lanes))

/-- SHAKE256 of a message, n bytes, at most a block's 136. -/
def shakeOut (n : Nat) (msg : List Byte) : List Byte :=
  let a := (shakeBlocks (msg.map BitVec.toNat)).foldl shakeAbsorb (List.replicate 5 (List.replicate 5 0))
  (((a.flatten.take ((n + 7) / 8)).flatMap (leNats 8)).take n).map (BitVec.ofNat 8)

/-- SHAKE256 of a message, 64 bytes. -/
def shake256 (msg : List Byte) : List Byte := shakeOut 64 msg

end Sys2Proof.Machine
end

