-- ==== Sys2Proof/Machine/Ed448.lean ====
section
/-! DEFINITION. Ed448 of RFC 8032, pure, with an empty context (R385, R414): the curve, keys, signing and verifying. -/

namespace Sys2Proof.Machine

/-! ## The field and the curve -/

/-- The field's prime 2^448 − 2^224 − 1 and the order of the base point. -/
def edP : Nat := 2 ^ 448 - 2 ^ 224 - 1
def edL : Nat := 2 ^ 446 - 13818066809895115352007386748515426880336692474882178609894547503885

def edMulP (a b : Nat) : Nat := a * b % edP
def edAddP (a b : Nat) : Nat := (a + b) % edP
def edSubP (a b : Nat) : Nat := (a + (edP - b % edP)) % edP

/-- a to the power e, of at most n bits. -/
def edPow (a : Nat) : Nat → Nat → Nat
  | 0, _ => 1
  | n + 1, e =>
    let h := edPow a n (e / 2)
    let h := edMulP h h
    if e % 2 = 1 then edMulP h a else h

/-- d of the curve x² + y² = 1 + d x² y². -/
def edD : Nat := edP - 39081

/-- A point: x = x / z and y = y / z. -/
structure EdPoint where
  x : Nat
  y : Nat
  z : Nat
  deriving DecidableEq, Repr

def edZero : EdPoint := ⟨0, 1, 1⟩

/-- The base point. -/
def edBase : EdPoint :=
  ⟨224580040295924300187604334099896036246789641632564134246125461686950415467406032909029192869357953282578032075146446173674602635247710,
   298819210078481492676017930443930673437544040154080242095928241372331506189835876003536878655418784733982303233503462500531545062832660,
   1⟩

def EdPoint.add (p q : EdPoint) : EdPoint :=
  let a := edMulP p.z q.z
  let b := edMulP a a
  let c := edMulP p.x q.x
  let d := edMulP p.y q.y
  let e := edMulP edD (edMulP c d)
  let h := edMulP (edAddP p.x p.y) (edAddP q.x q.y)
  ⟨edMulP (edMulP a (edSubP b e)) (edSubP (edSubP h c) d), edMulP (edMulP a (edAddP b e)) (edSubP d c),
   edMulP (edSubP b e) (edAddP b e)⟩

/-- k times a point, k of at most n bits. -/
def EdPoint.times (p : EdPoint) : Nat → Nat → EdPoint
  | 0, _ => edZero
  | n + 1, k =>
    let h := p.times n (k / 2)
    let h := h.add h
    if k % 2 = 1 then h.add p else h

/-- Two points are one. -/
def EdPoint.same (p q : EdPoint) : Bool := edMulP p.x q.z == edMulP q.x p.z && edMulP p.y q.z == edMulP q.y p.z

/-! ## Encodings -/

/-- A point as 57 bytes: y, and the lowest bit of x as the last bit. -/
def EdPoint.encode (p : EdPoint) : List Byte :=
  let i := edPow p.z 448 (edP - 2)
  leBytes 57 (edMulP p.y i + 2 ^ 455 * (edMulP p.x i % 2))

/-- The x of a point from u = y² − 1, v = d y² − 1 and its lowest bit: a root of u / v. -/
def edRoot (u v low : Nat) : Option Nat :=
  let v3 := edMulP (edMulP v v) v
  let u3 := edMulP (edMulP u u) u
  let x := edMulP (edMulP u3 v) (edPow (edMulP (edMulP u3 (edMulP u u)) v3) 448 ((edP - 3) / 4))
  if edMulP v (edMulP x x) ≠ u ∨ (x = 0 ∧ low = 1) then none else some (if x % 2 = low then x else edP - x)

/-- The point that 57 bytes encode. -/
def edDecode (l : List Byte) : Option EdPoint :=
  let n := leVal l
  let y := n % 2 ^ 455
  if l.length ≠ 57 ∨ edP ≤ y then none
  else
    let y2 := edMulP y y
    (edRoot (edSubP y2 1) (edSubP (edMulP edD y2) 1) (n / 2 ^ 455)).map (fun x => ⟨x, y, 1⟩)

/-! ## Signing and verifying -/

/-- dom4 of the pure variant with an empty context. -/
def edDom : List Byte := [0x53#8, 0x69#8, 0x67#8, 0x45#8, 0x64#8, 0x34#8, 0x34#8, 0x38#8, 0#8, 0#8]

def edHash (l : List Byte) : Nat := leVal (shakeOut 114 (edDom ++ l)) % edL

/-- The secret scalar of a private key, and the prefix. -/
def edScalar (key : List Byte) : Nat :=
  let h := shakeOut 114 key
  leVal (h.take 55) / 4 * 4 + 2 ^ 440 * (leVal ((h.drop 55).take 1) ||| 128)

def edPrefix (key : List Byte) : List Byte := (shakeOut 114 key).drop 57

/-- The public key of a private key. -/
def edPublic (key : List Byte) : List Byte := (edBase.times 448 (edScalar key)).encode

/-- The signature that a private key gives a message: 114 bytes. -/
def ed448Sign (key msg : List Byte) : List Byte :=
  let r := edHash (edPrefix key ++ msg)
  let point := (edBase.times 448 r).encode
  point ++ leBytes 57 ((r + edHash (point ++ edPublic key ++ msg) * edScalar key) % edL)

/-- The signature of a message holds under a public key. -/
def ed448Verify (key sig msg : List Byte) : Bool :=
  let s := leVal (sig.drop 57)
  match edDecode key, edDecode (sig.take 57) with
  | some a, some r =>
    sig.length == 114 && decide (s < edL)
      && (edBase.times 448 (4 * s)).same ((r.times 448 4).add (a.times 448 (4 * edHash (sig.take 57 ++ key ++ msg))))
  | _, _ => false

end Sys2Proof.Machine
end

