-- ==== Sys2Proof/Syntax.lean ====
section
/-! DEFINITION. The instructions and events of the Larua: one constructor for every row of the opcode table.
A full-form instruction carries the fields of its format (R37–R41) with its operand codes read (Table 2.7); a half
carries the fields of Table 2.8; an event carries the units it happens at and what the outside world supplies. -/

namespace Sys2Proof

/-- The special operands, in the order of their codes 0x160–0x16D (Table 2.7). -/
inductive Special where
  | lane | quad | grp | blk | coh | core | stamp | hh | beat | nact | lstat | zero | ones | cyc
  deriving DecidableEq, Repr

/-- What a 9-bit operand field holds (Table 2.7). An inline integer is its low seven bits. -/
inductive Operand where
  | v (n : BitVec 8)
  | s (n : BitVec 6)
  | q (n : BitVec 3)
  | sp (x : Special)
  | imm (n : BitVec 7)
  | reserved (code : BitVec 9)
  deriving DecidableEq, Repr

/-- What an 8-bit operand field of a half holds (Table 2.10). -/
inductive HOperand where
  | v (n : BitVec 7)
  | s (n : BitVec 6)
  | imm (n : BitVec 5)
  | sp (x : Special)
  | reserved (code : BitVec 8)
  deriving DecidableEq, Repr

/-- The F-R format below MAJ (R37); FN is the constructor. -/
structure FR where
  g : BitVec 4
  d : Operand
  a : Operand
  b : Operand
  c : Operand
  md : BitVec 8
  deriving DecidableEq, Repr

/-- The F-I format (R38). -/
structure FI where
  g : BitVec 4
  d : Operand
  a : Operand
  md : BitVec 2
  imm : BitVec 24
  deriving DecidableEq, Repr

/-- The F-M format (R39); OP is the constructor. An index of 0x1FF, no index, reads as the inline −1. -/
structure FM where
  g : BitVec 4
  d : Operand
  a : Operand
  b : Operand
  sz : BitVec 3
  cl : BitVec 2
  sc : BitVec 3
  off : BitVec 13
  deriving DecidableEq, Repr

/-- The F-B format (R40). -/
structure FB where
  g : BitVec 4
  sa : BitVec 6
  sb : BitVec 6
  cnd : BitVec 3
  off : BitVec 32
  deriving DecidableEq, Repr

/-- The F-X format (R41), used by MOPA. -/
structure FX where
  g : BitVec 4
  f : Operand
  a : Operand
  b : Operand
  sa : Operand
  sb : Operand
  rsv : BitVec 3
  acc : Bool
  np : Bool
  ge : Bool
  gs : Bool
  deriving DecidableEq, Repr

/-- A half of a pair word (Table 2.8); OP7 is the constructor. -/
structure Half where
  d : HOperand
  s : HOperand
  g3 : BitVec 3
  m5 : BitVec 5
  deriving DecidableEq, Repr

/-- A half whose S8 is an immediate: SADDI8 and SMOVI8 (R49). -/
structure HalfI where
  d : HOperand
  imm : BitVec 8
  g3 : BitVec 3
  m5 : BitVec 5
  deriving DecidableEq, Repr

/-- The atomic operations, in the order of their OP codes (Table 6.4). -/
inductive AOp where
  | add | min | max | minn | maxn | and | or | xor | xchg | cas | fadd32 | bf16x2add | fp16x2add | incw
  deriving DecidableEq, Repr

/-- A gauge of a core or of a slice, in a partition's dense numbering (R9, R315). -/
structure GaugeRef where
  part : Nat
  slice : Bool
  unit : Nat
  index : Nat
  deriving DecidableEq, Repr

/-- A gauge of a physical core or slice (R315). -/
structure UnitGauge where
  slice : Bool
  unit : Nat
  index : Nat
  deriving DecidableEq, Repr

/-- A register that a plain write stores to: BAR 0 of a partition's function by offset, a record port by offset,
or a register of function 0 (Table 20.2, R382, R386, R401). -/
inductive RegRef where
  | bar0 (p off : Nat)
  | port (p stamp off : Nat)
  | bar4 (p : Nat)
  | powlim
  | ftmo
  deriving DecidableEq, Repr

/-- What a UALink peer asks (R396, Table 22.1). -/
inductive PeerOp where
  | read (n cls : Nat)
  /-- with the byte mask of a partial write, empty when every byte is written, and the header's class (R398) -/
  | write (data : List Byte) (mask : List Bool) (cls : Nat)
  /-- with the group, postmark and sequence number that a Larua's packet carries (R399) -/
  | atomic (op : AOp) (n x c : Nat) (mark : Option (Nat × BitVec 8 × BitVec 16)) (cls : Nat)
  deriving DecidableEq, Repr

/-- The links whose two ends the device drives, and the transmit side of the UALink ports (R297, R300): a ring segment, the
boundary from one die to a neighbour, a base-die link, a slice's port, a UALink port. -/
inductive LinkId where
  /-- the segment of a quadrant's ring that leaves a place, of pair 0 or 1, in one of its two directions (R297) -/
  | ring (die quadrant pair : Nat) (clockwise : Bool) (place : Nat)
  | boundary (src dst : Nat)
  /-- the link between a die and its stack, which is also the stack's channel in the frame (R306, R361) -/
  | stack (n : Nat)
  /-- the same link from the stack to its die (R361) -/
  | stackUp (n : Nat)
  /-- a slice's port, which carries requests into the slice in its partition's slots (R306) -/
  | slice (n : Nat)
  | port (n : Nat)
  deriving DecidableEq, Repr

/-- The instructions, halves and events of spec/opcode_table.json, in its order. -/
inductive Instr where
  | nop (x : FR)
  | endGroup (x : FR)
  | yield (x : FR)
  | trap (x : FR)
  | tret (x : FR)
  | srd (x : FR)
  | swr (x : FR)
  | grow (x : FR)
  | shrink (x : FR)
  | emit (x : FR)
  | waitc (x : FR)
  | sadd (x : FR)
  | ssub (x : FR)
  | smul (x : FR)
  | smulh (x : FR)
  | sdiv (x : FR)
  | srem (x : FR)
  | sand (x : FR)
  | sor (x : FR)
  | sxor (x : FR)
  | sandn (x : FR)
  | sshl (x : FR)
  | sshr (x : FR)
  | ssra (x : FR)
  | srot (x : FR)
  | smin (x : FR)
  | smax (x : FR)
  | sclz (x : FR)
  | spopc (x : FR)
  | ssel (x : FR)
  | scmp (x : FR)
  | sbfe (x : FR)
  | sbfi (x : FR)
  | saddi (x : FI)
  | sandi (x : FI)
  | sori (x : FI)
  | sxori (x : FI)
  | sshli (x : FI)
  | sshri (x : FI)
  | ssrai (x : FI)
  | scmpi (x : FI)
  | smovi (x : FI)
  | smovhi (x : FI)
  | msave (x : FR)
  | mrest (x : FR)
  | mset (x : FR)
  | mand (x : FR)
  | mandn (x : FR)
  | mcnt (x : FR)
  | mfirst (x : FR)
  | bra (x : FB)
  | bcmp (x : FB)
  | bcmpi (x : FB)
  | call (x : FB)
  | ret (x : FB)
  | jmpr (x : FB)
  | bany (x : FB)
  | ball (x : FB)
  | bnone (x : FB)
  | sld (x : FM)
  | sst (x : FM)
  | sldc (x : FM)
  | vadd (x : FR)
  | vsub (x : FR)
  | vmul (x : FR)
  | vmulh (x : FR)
  | vmad (x : FR)
  | vaddc (x : FR)
  | vsubb (x : FR)
  | vdiv (x : FR)
  | vrem (x : FR)
  | vabs (x : FR)
  | vneg (x : FR)
  | vmin (x : FR)
  | vmax (x : FR)
  | vand (x : FR)
  | vor (x : FR)
  | vxor (x : FR)
  | vandn (x : FR)
  | vnot (x : FR)
  | vshl (x : FR)
  | vshr (x : FR)
  | vsra (x : FR)
  | vrot (x : FR)
  | vclz (x : FR)
  | vpopc (x : FR)
  | vbrev (x : FR)
  | vbfe (x : FR)
  | vbfi (x : FR)
  | vsel (x : FR)
  | vcmp (x : FR)
  | vmov (x : FR)
  | vadds (x : FR)
  | vsubs (x : FR)
  | vdot4 (x : FR)
  | vdot2 (x : FR)
  | vaddi (x : FI)
  | vandi (x : FI)
  | vori (x : FI)
  | vxori (x : FI)
  | vshli (x : FI)
  | vshri (x : FI)
  | vsrai (x : FI)
  | vcmpi (x : FI)
  | vmovi (x : FI)
  | vlea (x : FR)
  | vaddw (x : FR)
  | vsubw (x : FR)
  | vfadd (x : FR)
  | vfsub (x : FR)
  | vfmul (x : FR)
  | vfma (x : FR)
  | vfms (x : FR)
  | vfnma (x : FR)
  | vfmin (x : FR)
  | vfmax (x : FR)
  | vfabs (x : FR)
  | vfneg (x : FR)
  | vfcmp (x : FR)
  | vfclass (x : FR)
  | vfdiv (x : FR)
  | vfsqrt (x : FR)
  | vfrcp (x : FR)
  | vfrsq (x : FR)
  | vfexp2 (x : FR)
  | vflog2 (x : FR)
  | vfsin (x : FR)
  | vfcos (x : FR)
  | vftanh (x : FR)
  | vfrnd (x : FR)
  | vhadd (x : FR)
  | vhsub (x : FR)
  | vhmul (x : FR)
  | vhfma (x : FR)
  | vhmin (x : FR)
  | vhmax (x : FR)
  | vhdot (x : FR)
  | vhcmp (x : FR)
  | vcvt (x : FR)
  | vpack (x : FR)
  | vunpk (x : FR)
  | vpk8 (x : FR)
  | vupk8 (x : FR)
  | vshuf (x : FR)
  | vshufup (x : FR)
  | vshufdn (x : FR)
  | vshufx (x : FR)
  | vbcast (x : FR)
  | qswap (x : FR)
  | qbcast (x : FR)
  | vscan (x : FR)
  | vred (x : FR)
  | vrds (x : FR)
  | vote (x : FR)
  | vmatch (x : FR)
  | vld (x : FM)
  | vst (x : FM)
  | vlds (x : FM)
  | vsts (x : FM)
  | vldw (x : FM)
  | vstw (x : FM)
  | vpref (x : FM)
  | vamo (op : AOp) (x : FM)
  | samo (op : AOp) (x : FM)
  | cpy (x : FR)
  | cpyt (x : FR)
  | discard (x : FR)
  | ttag (x : FR)
  | xputSend (x : FR)
  | xputRead (x : FR)
  | coll (x : FR)
  | fence (x : FR)
  | tfence (x : FR)
  | binit (x : FR)
  | barv (x : FR)
  | bwait (x : FR)
  | bsync (x : FR)
  | cbar (x : FR)
  | cmt (x : FR)
  | mres (x : FR)
  | mrel (x : FR)
  | modeM (x : FR)
  | modeV (x : FR)
  | mzero (x : FR)
  | ald (x : FR)
  | ast (x : FR)
  | aacc (x : FR)
  | acpy (x : FR)
  | ldsc (x : FR)
  | mopa (x : FX)
  | vaddHalf (x : Half)
  | vsubHalf (x : Half)
  | vmulHalf (x : Half)
  | vandHalf (x : Half)
  | vorHalf (x : Half)
  | vxorHalf (x : Half)
  | vandnHalf (x : Half)
  | vshlHalf (x : Half)
  | vshrHalf (x : Half)
  | vsraHalf (x : Half)
  | vminHalf (x : Half)
  | vmaxHalf (x : Half)
  | vmovHalf (x : Half)
  | vnegHalf (x : Half)
  | vnotHalf (x : Half)
  | vabsHalf (x : Half)
  | vfaddHalf (x : Half)
  | vfsubHalf (x : Half)
  | vfmulHalf (x : Half)
  | vfminHalf (x : Half)
  | vfmaxHalf (x : Half)
  | vfabsHalf (x : Half)
  | vfnegHalf (x : Half)
  | vhaddHalf (x : Half)
  | vhmulHalf (x : Half)
  | vcvtHalf (x : Half)
  | saddHalf (x : Half)
  | ssubHalf (x : Half)
  | sandHalf (x : Half)
  | sorHalf (x : Half)
  | sxorHalf (x : Half)
  | sshlHalf (x : Half)
  | sshrHalf (x : Half)
  | ssraHalf (x : Half)
  | smovHalf (x : Half)
  | sminHalf (x : Half)
  | smaxHalf (x : Half)
  | smulHalf (x : Half)
  | saddi8Half (x : HalfI)
  | smovi8Half (x : HalfI)
  | nopHalf (rest : BitVec 24)
  | stampreg (p : Nat)
  | stampdel (p : Nat)
  | rangeinv (p : Nat)
  | zerofill (p : Nat)
  | load (p : Nat)
  | unload (p : Nat)
  | chanreg (p : Nat)
  | attest (p : Nat)
  | collset (p : Nat)
  | replay (p : Nat)
  | tlbiAll (p : Nat) (val : Word64)
  | tlbiStage1Range (p : Nat) (val : Word64)
  | tlbiStage2Range (p : Nat) (val : Word64)
  | tlbiDone (p : Nat)
  | ttbWrite (p : Nat) (second : Bool) (val : Word64)
  | qopenAll (p : Nat)
  | qopenId (p : Nat) (id : Nat)
  | gaugeClear (u : GaugeRef) (val : BitVec 32)
  | exceptionCounterClear (p slot fmt kind : Nat)
  | emitlostClear (p slot : Nat)
  | xarmWrite (p n : Nat) (val : Word64)
  | submitRecord (p stamp slot : Nat) (word : Word64)
  | channelCommand (p stamp : Nat)
  | channelCommandComplete (p chan : Nat) (hostData : Option (List Byte))
  | firmwareCheck (image : List Byte)
  | registerWrite (r : RegRef) (val : Word64)
  | powerUp
  | hostIaWrite (p ia : Nat) (data : List Byte)
  | hostIaRead (p ia n : Nat)
  | hostAtomic (p ia : Nat) (op : AOp) (n x c : Nat)
  | peerRequest (peer off : Nat) (op : PeerOp)
  | peerCompletion (p d rid : Nat) (epoch : BitVec 8) (data : List Byte) (abort : Bool)
  | peerQuarantine (p d : Nat)
  | completerDeadline (rid : Nat)
  | collReady (p set tag member : Nat) (digest : List Byte)
  | collHandshakeTimeout (p set tag : Nat)
  | collComplete (p set tag : Nat) (contribs : Option (List (List Byte))) (order : List Nat)
  | evidenceRequest (peer : Nat) (nonce : List Byte)
  | recordArrival (p graph node : Nat)
  | batchWindowClose (p batch : Nat)
  | batchDispatch (p : Nat)
  | preemptionRequest (block bound : Nat)
  | saveComplete (block : Nat)
  | blockResume (block core : Nat)
  | tshareTurnEnd (cluster next : Nat)
  | clearSequence (cluster : Nat) (dirty : Bool)
  | coreFenceOff (core : Nat)
  | shadowLatchReplay (core : Nat)
  | parkingEvent (gid op : Nat)
  | parkCourse (gid : Nat)
  | splitCopyDone (gid : Nat)
  | loadDataArrival (gid op : Nat) (lanes : BitVec 96)
  | storeAck (gid op : Nat)
  | atomicResponse (gid op : Nat)
  | engineComplete (gid op : Nat)
  | acpyComplete (gid op : Nat)
  | mxComplete (gid op : Nat)
  | xputComplete (gid op : Nat)
  | sealRelease (gid : Nat)
  | waitcResume (gid : Nat)
  | growDone (gid : Nat)
  | shrinkDone (gid : Nat)
  | fenceDone (gid : Nat)
  | tfenceDone (gid : Nat)
  | modeMEnter (gid : Nat)
  | modeVDrained (gid : Nat)
  | groupEnd (gid : Nat)
  | barvRegister (gid point : Nat)
  | bwaitResume (gid : Nat)
  | cbarRegister (gid : Nat)
  | releasePerform (gid op : Nat)
  | commitBufferRoom (gid : Nat)
  | activeSlotTimeout (core slot : Nat)
  | pendingPromotion (gid : Nat)
  | sliceRequest (rid : Nat) (high : Bool)
  | walkComplete (wid : Nat) (fresh : Bool)
  | hbmUncorrectableError (pa : Nat)
  | keyRevokeFlush (key : Nat)
  | keyRevokeImmediate (key : Nat)
  | keyRevokeComplete (key : Nat)
  | partitionMapChange (p : Nat) (entry : List Word64)
  | waySweepDone (p : Nat)
  | partitionCreate (p : Nat)
  | partitionReset (p : Nat)
  | flitReceive (link : LinkId) (corrupt : Bool)
  | linkResendRequest (link : LinkId) (seq : BitVec 8)
  | linkAck (link : LinkId) (seq : BitVec 8)
  | linkRetrain (link : LinkId)
  | linkRetrainDone (link : LinkId)
  | tornStatus (rid : Nat)
  | linkRekey (link : LinkId)
  | linkRekeySwitch (link : LinkId) (key : BitVec 128)
  | quotaPeriodEnd (station : Nat)
  | gaugeQueueSample (u : UnitGauge)
  | commandEnd (p : Nat)
  | attestMemberTimeout (p : Nat)
  | frameSlot (link : LinkId)
  | powerGating (core : Nat) (gated : Bool)
  | tdispRequest (p : Nat) (run : Bool)
  | atsCompletion (wid : Nat) (hostPa : Option Nat)
  | hostCompleterDeadline (rid : Nat)
  | memoryKeyProgram (key part : Nat) (context : Option Nat) (value : BitVec 512)
  deriving DecidableEq, Repr

end Sys2Proof
end

