-- ==== Sys2Proof/Machine/Checks.lean ====
section
/-! DEFINITION. The encoding checks of Table 2.12 that depend on the word alone (checks 3 to 11), with every
family's operand and modifier rules, and the registers that check 16 covers. -/

namespace Sys2Proof

open Machine

/-! ## Operand kinds (R44) -/

/-- A per-lane special operand (Table 2.7). -/
def Special.perLane : Special → Bool
  | .lane | .quad | .stamp | .hh | .beat | .lstat => true
  | .grp | .blk | .coh | .core | .nact | .zero | .ones | .cyc => false

/-- An unused 9-bit field encodes 0x000 (R42). -/
def kUnused (o : Operand) : Bool := o == .v 0#8

def kVec : Operand → Bool
  | .v _ => true
  | _ => false

/-- A vector register with an even number, naming a wide value (R100). -/
def kVecEven : Operand → Bool
  | .v n => n.toNat % 2 == 0
  | _ => false

def kScal : Operand → Bool
  | .s _ => true
  | _ => false

/-- A scalar register no higher than `top`. -/
def kScalTo (top : Nat) : Operand → Bool
  | .s n => n.toNat ≤ top
  | _ => false

/-- A predicate register q0–q7 (read). -/
def kPred : Operand → Bool
  | .q _ => true
  | _ => false

/-- A predicate register q0–q6 (written). -/
def kPredW : Operand → Bool
  | .q n => n.toNat ≤ 6
  | _ => false

/-- Any operand read as data: a register, a special or an inline integer, never a predicate (R44). -/
def kData : Operand → Bool
  | .v _ | .s _ | .sp _ | .imm _ => true
  | .q _ | .reserved _ => false

/-- A uniform source: a scalar register, a uniform special or an inline integer (R161). -/
def kUniform : Operand → Bool
  | .s _ | .imm _ => true
  | .sp x => !x.perLane
  | .v _ | .q _ | .reserved _ => false

/-- An inline integer from 0 to `top`. -/
def kInline (top : Nat) : Operand → Bool
  | .imm n => n.toNat ≤ top
  | _ => false

/-- A base that is a scalar register or %zero (R126). -/
def kBase : Operand → Bool
  | .s _ => true
  | .sp .zero => true
  | _ => false

/-- Data, and a vector register only when even: a wide source (R100). -/
def kWide : Operand → Bool
  | .v n => n.toNat % 2 == 0
  | .s _ | .sp _ | .imm _ => true
  | .q _ | .reserved _ => false

def kOr (f g : Operand → Bool) (o : Operand) : Bool := f o || g o

def Operand.isReserved : Operand → Bool
  | .reserved _ => true
  | _ => false

/-! ## Check rules per format -/

/-- What an F-R mnemonic admits: its guard class, its fields, its modifier byte. -/
structure RRule where
  uniform : Bool
  d : Operand → Bool
  a : Operand → Bool
  b : Operand → Bool
  c : Operand → Bool
  md : Nat → Bool

/-- Checks 3 to 7 of Table 2.12 on an F-R word: the reason of the first that fails. -/
def FR.check (x : FR) (r : RRule) : Option Nat :=
  if x.g = 15#4 then some 0x03
  else if r.uniform && x.g ≠ 7#4 then some 0x04
  else if x.d.isReserved || x.a.isReserved || x.b.isReserved || x.c.isReserved then some 0x05
  else if !(r.d x.d && r.a x.a && r.b x.b && r.c x.c) then some 0x06
  else if !r.md x.md.toNat then some 0x07
  else none

/-- Checks 3 to 7 on an F-I word; `imm` judges MD and IMM24 together. -/
def FI.check (x : FI) (uniform : Bool) (d a : Operand → Bool) (imm : Nat → Nat → Bool) : Option Nat :=
  if x.g = 15#4 then some 0x03
  else if uniform && x.g ≠ 7#4 then some 0x04
  else if x.d.isReserved || x.a.isReserved then some 0x05
  else if !(d x.d && a x.a) then some 0x06
  else if !imm x.md.toNat x.imm.toNat then some 0x07
  else none

/-- Checks 3 to 8 on an F-M word; `acc` judges SZ, CL and SC. -/
def FM.check (x : FM) (uniform : Bool) (d a b : Operand → Bool) (acc : Nat → Nat → Nat → Bool) : Option Nat :=
  if x.g = 15#4 then some 0x03
  else if uniform && x.g ≠ 7#4 then some 0x04
  else if x.d.isReserved || x.a.isReserved || x.b.isReserved then some 0x05
  else if !(d x.d && a x.a && b x.b) then some 0x06
  else if !acc x.sz.toNat x.cl.toNat x.sc.toNat then some 0x08
  else none

/-- Checks 3 to 7 on an F-B word: which fields the mnemonic uses (R40), and its rule on SA. -/
def FB.check (x : FB) (usesSa usesSb usesCnd usesOff : Bool) (saOk : Nat → Bool) : Option Nat :=
  if x.g = 15#4 then some 0x03
  else if x.g ≠ 7#4 then some 0x04
  else if !saOk x.sa.toNat then some 0x06
  else if (!usesSa && x.sa ≠ 0#6) || (!usesSb && x.sb ≠ 0#6) || (!usesCnd && x.cnd ≠ 0#3)
      || (!usesOff && x.off ≠ 0#32) then some 0x07
  else none

/-- Checks 3 to 7 on MOPA (R247). -/
def FX.check (x : FX) : Option Nat :=
  if x.g = 15#4 then some 0x03
  else if x.g ≠ 7#4 then some 0x04
  else if x.f.isReserved || x.a.isReserved || x.b.isReserved || x.sa.isReserved || x.sb.isReserved then some 0x05
  else if !(kOr kVec kScal x.f && kVec x.a && kVec x.b && kVec x.sa && kVec x.sb) then some 0x06
  else if x.rsv ≠ 0#3 then some 0x07
  else none

/-! ## Rules of the families -/

def mdZero (m : Nat) : Bool := m == 0

/-- A modifier byte whose set bits all lie in `mask`. -/
def mdIn (mask : Nat) (m : Nat) : Bool := m &&& mask == m

/-- VINT with two data sources; `tys` are the admitted TY codes (Table 4.3). -/
def rVint (a b c : Operand → Bool) (md : Nat → Bool) : RRule :=
  { uniform := false, d := kVec, a := a, b := b, c := c, md := md }

def tyW (m : Nat) : Bool := m == 0 || m == 2
def tyAll (m : Nat) : Bool := decide (m ≤ 3)
def tyNone (m : Nat) : Bool := m == 0
def tyN (m : Nat) : Bool := m == 1
def tyIN (m : Nat) : Bool := decide (m ≤ 1)

def rVint2 (md : Nat → Bool) : RRule := rVint kData kData kUnused md
def rVint1 (md : Nat → Bool) : RRule := rVint kData kUnused kUnused md
def rVint3 (md : Nat → Bool) : RRule := rVint kData kData kData md

def rVcmp : RRule :=
  { uniform := false, d := kPredW, a := kData, b := kData, c := kUnused,
    md := fun m => decide (m < 32) && decide (bits m 4 2 ≤ 5) && decide (bits m 1 0 ≤ 1) }

/-- VADR (R100, R101). -/
def rVadr (lea : Bool) (x : FR) : RRule :=
  let w64 := bits x.md.toNat 1 0 == 2
  { uniform := false, d := kVecEven, a := kWide, b := if w64 then kWide else kData, c := kUnused,
    md := fun m => decide (m < 32) &&
      (if lea then decide (bits m 1 0 ≤ 1) && decide (bits m 4 2 ≤ 4)
       else decide (bits m 1 0 ≤ 2) && bits m 4 2 == 0) }

def rVfp (n : Nat) (md : Nat → Bool) : RRule :=
  { uniform := false, d := kVec, a := kData, b := if n ≥ 2 then kData else kUnused,
    c := if n ≥ 3 then kData else kUnused, md := md }

def rVfcmp : RRule :=
  { uniform := false, d := kPredW, a := kData, b := kData, c := kUnused, md := mdIn 0x74 }

def rSalu (n : Nat) (md : Nat → Bool) : RRule :=
  { uniform := true, d := kScal, a := kUniform, b := if n ≥ 2 then kUniform else kUnused,
    c := if n ≥ 3 then kUniform else kUnused, md := md }

def mdScmp (m : Nat) : Bool := mdIn 0x1D m && decide (bits m 4 2 ≤ 5)

/-- A uniform F-R instruction with MD = 0. -/
def rU (d a b c : Operand → Bool) : RRule := { uniform := true, d := d, a := a, b := b, c := c, md := mdZero }

/-- A uniform F-R instruction with a modifier byte. -/
def rUm (d a b c : Operand → Bool) (md : Nat → Bool) : RRule :=
  { uniform := true, d := d, a := a, b := b, c := c, md := md }

/-- XLANE: SEG admitted, OPR up to `opr`, EXCL admitted (Tables 8.1, 8.3). -/
def mdX (seg : Bool) (opr : Nat) (excl : Bool) (m : Nat) : Bool :=
  (if seg then decide (bits m 2 0 ≤ 4) else bits m 2 0 == 0) && decide (bits m 6 3 ≤ opr) && (excl || bits m 7 7 == 0)

def rX (d a b c : Operand → Bool) (md : Nat → Bool) : RRule :=
  { uniform := false, d := d, a := a, b := b, c := c, md := md }

/-- VOTE (R188): the destination follows from OPR; under a reserved one any of the three kinds passes check 6, and check
7 fails (R187). -/
def rVote (x : FR) : RRule :=
  let triple := kOr kVec (kScalTo 58)
  let opr := bits x.md.toNat 6 3
  rX (if opr == 0 then triple else if opr ≤ 2 then kPredW else kOr triple kPredW) kPred kUnused kUnused (mdX false 2 false)

def rVbcast (x : FR) : RRule :=
  rX (kOr kVec (kScalTo 60)) kData kUniform (if kScal x.d then kUnused else kData) (mdX false 0 false)

/-- VCVT (Table 5.6): RM and SAT where the path admits them. -/
def mdVcvt (m : Nat) : Bool :=
  let cv := bits m 4 0
  let rmOk := [0x00, 0x01, 0x04, 0x05, 0x06, 0x07, 0x08, 0x09, 0x0A, 0x0B, 0x0C, 0x0D, 0x10, 0x11].contains cv
  let satOk := [0x00, 0x01, 0x08, 0x09, 0x10, 0x11].contains cv
  decide (cv ≤ 0x13) && (rmOk || bits m 7 6 == 0) && (satOk || bits m 5 5 == 0)

/-- VPK8 (Table 5.7). -/
def mdVpk8 (m : Nat) : Bool := decide (bits m 7 4 ≤ 9) && (decide (bits m 7 4 ≤ 4) || bits m 3 3 == 0)

def mdVupk8 (m : Nat) : Bool := decide (bits m 7 4 ≤ 9) && mdIn 0xF4 m

/-- The immediate rules of VINTI (Table 4.4). -/
def immV (m _i : Nat) : Bool := decide (m ≤ 2)
def immVsh (m i : Nat) : Bool := (m == 0 && decide (i < 32)) || (m == 2 && decide (i < 16))
def immVcmp (m i : Nat) : Bool := decide (m ≤ 1) && decide (bits i 23 21 ≤ 5)

/-- The immediate rules of SALUI (Table 7.3). -/
def immSsh (m i : Nat) : Bool := m == 0 && decide (i < 64)
def immSmovhi (m i : Nat) : Bool := m == 0 && decide (i < 65536)

/-- Access rules of F-M (Table 6.3): sizes from `lo` to `hi`, class and scope admitted or fixed at 0. -/
def accM (lo hi : Nat) (anyCl anySc : Bool) (sz cl sc : Nat) : Bool :=
  decide (lo ≤ sz) && decide (sz ≤ hi) && (if anyCl then decide (cl ≤ 2) else cl == 0)
    && (if anySc then decide (sc ≤ 5) else sc == 0)

/-- The base of a vector access (R126). -/
def kVBase : Operand → Bool := kOr kBase kVecEven

/-- Atomic operations that admit .b64 (Table 6.4). -/
def AOp.has64 : AOp → Bool
  | .fadd32 | .bf16x2add | .fp16x2add => false
  | _ => true

/-- The ordering bits of an atomic's OFF field (Table 6.1). -/
def FM.ord (x : FM) : Nat := bits x.off.toNat 12 11

/-- R146, R148: size, and scope against ordering. -/
def accA (op : AOp) (ord : Nat) (sz cl sc : Nat) : Bool :=
  (sz == 2 || (sz == 3 && op.has64)) && decide (cl ≤ 2) && decide (sc ≤ 5) && (if ord = 0 then sc == 0 else sc != 0)

/-- How many scalar registers from D a SAMO names (R147) (DEDUCED, log 39). -/
def samoSpan (op : AOp) (ack : Bool) : Nat := (if op = .cas then 2 else 1) + (if ack then 1 else 0)

/-- ACK of an atomic's OFF field (Table 6.1). -/
def FM.aack (x : FM) : Bool := bitAt x.off.toNat 10

/-- FENCE (R329). -/
def mdFence (m : Nat) : Bool := decide (m < 128) && decide (bits m 6 4 ≤ 5) && bits m 3 0 != 0

/-- ACPY (Table 11.6). -/
def mdAcpy (m : Nat) : Bool :=
  decide (m < 64) && !(bitAt m 4 && bitAt m 2) && !(bitAt m 5 && (bitAt m 2 || bits m 1 0 == 0))

def mdClass (m : Nat) : Bool := decide (m ≤ 2)

/-! ## Halves (checks 9 to 11) -/

/-- The full-form operand a half's operand code names (Table 2.10). -/
def HOperand.full : HOperand → Operand
  | .v n => .v (n.zeroExtend 8)
  | .s n => .s n
  | .imm n => .imm (n.zeroExtend 7)
  | .sp x => .sp x
  | .reserved c => .reserved (c.zeroExtend 9)

def HOperand.isReserved : HOperand → Bool
  | .reserved _ => true
  | _ => false

/-- D8 holds a vector or scalar register (R49). -/
def HOperand.isReg : HOperand → Bool
  | .v _ | .s _ => true
  | _ => false

/-- A half's guard as a full-form guard (R50). -/
def halfGuard (g3 : BitVec 3) : BitVec 4 := g3.zeroExtend 4

/-- D := D op S (R50). -/
def Half.bin (x : Half) : FR :=
  { g := halfGuard x.g3, d := x.d.full, a := x.d.full, b := x.s.full, c := .v 0#8, md := x.m5.zeroExtend 8 }

/-- D := op S (R50). -/
def Half.un (x : Half) : FR :=
  { g := halfGuard x.g3, d := x.d.full, a := x.s.full, b := .v 0#8, c := .v 0#8, md := x.m5.zeroExtend 8 }

/-- SMOV: SOR D, S, %zero (Table 2.11). -/
def Half.smov (x : Half) : FR :=
  { g := halfGuard x.g3, d := x.d.full, a := x.s.full, b := .sp .zero, c := .v 0#8, md := x.m5.zeroExtend 8 }

/-- SADDI8: SADDI D, D, imm (Table 2.11); `own` is the A field. -/
def HalfI.fi (x : HalfI) (own : Bool) : FI :=
  { g := halfGuard x.g3, d := x.d.full, a := if own then x.d.full else .v 0#8,
    md := x.m5.truncate 2, imm := x.imm.signExtend 24 }

/-- Checks 10 and 11 from the full form's own checks: a wrong operand is reason 0x0A, a rejected modifier 0x0B.
The guard rule of scalar halves belongs to R51 rule 4, so the guard is set aside here. -/
def halfReason (r : Option Nat) : Option Nat :=
  match r with
  | none => none
  | some n => if n ≤ 0x06 then some 0x0A else some 0x0B

def Half.check (x : Half) (full : FR) (r : RRule) : Option Nat :=
  if x.d.isReserved || x.s.isReserved || !x.d.isReg then some 0x0A
  else halfReason (FR.check { full with g := 7#4 } r)

def HalfI.check (x : HalfI) (full : FI) (a : Operand → Bool) : Option Nat :=
  if x.d.isReserved || !x.d.isReg then some 0x0A
  else match halfReason (FI.check { full with g := 7#4 } true kScal a immV) with
    | some r => some r
    | none => if x.m5.toNat ≥ 4 then some 0x0B else none

/-- SWR names a read-write special register: TRAPPC or FPXMASK (Table 7.4). -/
def kSwr (o : Operand) : Bool := o == .imm 2#7 || o == .imm 12#7

/-! ## The check of every instruction -/

/-- The reason of the first of checks 3 to 11 of Table 2.12 that the instruction fails; none when it passes all. An
event names units, which its own meaning looks up. -/
def Instr.check : Instr → Option Nat
  | .nop x => FR.check x (rU kUnused kUnused kUnused kUnused)
  | .endGroup x => FR.check x (rU kUnused kUnused kUnused kUnused)
  | .yield x => FR.check x (rU kUnused kUnused kUnused kUnused)
  | .trap x => FR.check x (rU kUnused kUniform kUnused kUnused)
  | .tret x => FR.check x (rU kUnused kUnused kUnused kUnused)
  | .srd x => FR.check x (rU kScal (kInline 13) kUnused kUnused)
  | .swr x => FR.check x (rU kUnused kSwr kUniform kUnused)
  | .grow x => FR.check x (rU kUnused kUniform kUnused kUnused)
  | .shrink x => FR.check x (rU kUnused kUniform kUnused kUnused)
  | .emit x => FR.check x (rX kUnused (kInline 7) kVec kUnused mdZero)
  | .waitc x => FR.check x (rU kUnused (kInline 5) (kOr kScal (kInline 63)) kUnused)
  | .sadd x => FR.check x (rSalu 2 mdZero)
  | .ssub x => FR.check x (rSalu 2 mdZero)
  | .smul x => FR.check x (rSalu 2 mdZero)
  | .smulh x => FR.check x (rSalu 2 (mdIn 1))
  | .sdiv x => FR.check x (rSalu 2 (mdIn 1))
  | .srem x => FR.check x (rSalu 2 (mdIn 1))
  | .sand x => FR.check x (rSalu 2 mdZero)
  | .sor x => FR.check x (rSalu 2 mdZero)
  | .sxor x => FR.check x (rSalu 2 mdZero)
  | .sandn x => FR.check x (rSalu 2 mdZero)
  | .sshl x => FR.check x (rSalu 2 mdZero)
  | .sshr x => FR.check x (rSalu 2 mdZero)
  | .ssra x => FR.check x (rSalu 2 mdZero)
  | .srot x => FR.check x (rSalu 2 mdZero)
  | .smin x => FR.check x (rSalu 2 (mdIn 1))
  | .smax x => FR.check x (rSalu 2 (mdIn 1))
  | .sclz x => FR.check x (rSalu 1 mdZero)
  | .spopc x => FR.check x (rSalu 1 mdZero)
  | .ssel x => FR.check x (rSalu 3 mdZero)
  | .scmp x => FR.check x (rSalu 2 mdScmp)
  | .sbfe x => FR.check x (rSalu 2 (mdIn 1))
  | .sbfi x => FR.check x (rSalu 3 mdZero)
  | .saddi x => FI.check x true kScal kUniform immV
  | .sandi x => FI.check x true kScal kUniform immV
  | .sori x => FI.check x true kScal kUniform immV
  | .sxori x => FI.check x true kScal kUniform immV
  | .sshli x => FI.check x true kScal kUniform immSsh
  | .sshri x => FI.check x true kScal kUniform immSsh
  | .ssrai x => FI.check x true kScal kUniform immSsh
  | .scmpi x => FI.check x true kScal kUniform immVcmp
  | .smovi x => FI.check x true kScal kUnused immV
  | .smovhi x => FI.check x true kScal kUniform immSmovhi
  | .msave x => FR.check x (rU (kScalTo 56) kUnused kUnused kUnused)
  | .mrest x => FR.check x (rU kUnused (kScalTo 56) kUnused kUnused)
  | .mset x => FR.check x (rU kUnused kPred kUnused kUnused)
  | .mand x => FR.check x (rU kUnused kPred kUnused kUnused)
  | .mandn x => FR.check x (rU kUnused kPred kUnused kUnused)
  | .mcnt x => FR.check x (rU kScal kPred kUnused kUnused)
  | .mfirst x => FR.check x (rU kScal kPred kUnused kUnused)
  | .bra x => FB.check x false false false true (fun _ => true)
  | .bcmp x => FB.check x true true true true (fun _ => true)
  | .bcmpi x => FB.check x true true true true (fun _ => true)
  | .call x => FB.check x true false false true (fun n => decide (n ≤ 60))
  | .ret x => FB.check x true false false false (fun _ => true)
  | .jmpr x => FB.check x true false false false (fun _ => true)
  | .bany x => FB.check x false false true true (fun _ => true)
  | .ball x => FB.check x false false true true (fun _ => true)
  | .bnone x => FB.check x false false true true (fun _ => true)
  | .sld x => FM.check x true kScal kBase kUniform (accM 0 3 true true)
  | .sst x => FM.check x true kScal kBase kUniform (accM 0 3 true true)
  | .sldc x => FM.check x true kScal kBase kUniform (accM 0 3 false false)
  | .vadd x => FR.check x (rVint2 tyW)
  | .vsub x => FR.check x (rVint2 tyW)
  | .vmul x => FR.check x (rVint2 tyW)
  | .vmulh x => FR.check x (rVint2 tyAll)
  | .vmad x => FR.check x (rVint3 tyW)
  | .vaddc x => FR.check x (rVint kData kData kPredW tyN)
  | .vsubb x => FR.check x (rVint kData kData kPredW tyN)
  | .vdiv x => FR.check x (rVint2 tyAll)
  | .vrem x => FR.check x (rVint2 tyAll)
  | .vabs x => FR.check x (rVint1 tyW)
  | .vneg x => FR.check x (rVint1 tyW)
  | .vmin x => FR.check x (rVint2 tyAll)
  | .vmax x => FR.check x (rVint2 tyAll)
  | .vand x => FR.check x (rVint2 tyNone)
  | .vor x => FR.check x (rVint2 tyNone)
  | .vxor x => FR.check x (rVint2 tyNone)
  | .vandn x => FR.check x (rVint2 tyNone)
  | .vnot x => FR.check x (rVint1 tyNone)
  | .vshl x => FR.check x (rVint2 tyW)
  | .vshr x => FR.check x (rVint2 tyW)
  | .vsra x => FR.check x (rVint2 tyW)
  | .vrot x => FR.check x (rVint2 tyW)
  | .vclz x => FR.check x (rVint1 tyW)
  | .vpopc x => FR.check x (rVint1 tyW)
  | .vbrev x => FR.check x (rVint1 tyW)
  | .vbfe x => FR.check x (rVint2 tyIN)
  | .vbfi x => FR.check x (rVint3 tyNone)
  | .vsel x => FR.check x (rVint kData kData kPred tyNone)
  | .vcmp x => FR.check x rVcmp
  | .vmov x => FR.check x (rVint1 tyNone)
  | .vadds x => FR.check x (rVint2 tyAll)
  | .vsubs x => FR.check x (rVint2 tyAll)
  | .vdot4 x => FR.check x (rVint3 (mdIn 0x0F))
  | .vdot2 x => FR.check x (rVint3 (mdIn 0x07))
  | .vaddi x => FI.check x false kVec kData immV
  | .vandi x => FI.check x false kVec kData immV
  | .vori x => FI.check x false kVec kData immV
  | .vxori x => FI.check x false kVec kData immV
  | .vshli x => FI.check x false kVec kData immVsh
  | .vshri x => FI.check x false kVec kData immVsh
  | .vsrai x => FI.check x false kVec kData immVsh
  | .vcmpi x => FI.check x false kPredW kData immVcmp
  | .vmovi x => FI.check x false kVec kUnused immV
  | .vlea x => FR.check x (rVadr true x)
  | .vaddw x => FR.check x (rVadr false x)
  | .vsubw x => FR.check x (rVadr false x)
  | .vfadd x => FR.check x (rVfp 2 (mdIn 0x0F))
  | .vfsub x => FR.check x (rVfp 2 (mdIn 0x0F))
  | .vfmul x => FR.check x (rVfp 2 (mdIn 0x0F))
  | .vfma x => FR.check x (rVfp 3 (mdIn 0x0F))
  | .vfms x => FR.check x (rVfp 3 (mdIn 0x0F))
  | .vfnma x => FR.check x (rVfp 3 (mdIn 0x0F))
  | .vfmin x => FR.check x (rVfp 2 (mdIn 0x14))
  | .vfmax x => FR.check x (rVfp 2 (mdIn 0x14))
  | .vfabs x => FR.check x (rVfp 1 mdZero)
  | .vfneg x => FR.check x (rVfp 1 mdZero)
  | .vfcmp x => FR.check x rVfcmp
  | .vfclass x => FR.check x (rVfp 1 mdZero)
  | .vfdiv x => FR.check x (rVfp 2 (mdIn 0x0F))
  | .vfsqrt x => FR.check x (rVfp 1 (mdIn 0x0F))
  | .vfrcp x => FR.check x (rVfp 1 (mdIn 0x04))
  | .vfrsq x => FR.check x (rVfp 1 (mdIn 0x04))
  | .vfexp2 x => FR.check x (rVfp 1 (mdIn 0x04))
  | .vflog2 x => FR.check x (rVfp 1 (mdIn 0x04))
  | .vfsin x => FR.check x (rVfp 1 (mdIn 0x04))
  | .vfcos x => FR.check x (rVfp 1 (mdIn 0x04))
  | .vftanh x => FR.check x (rVfp 1 (mdIn 0x04))
  | .vfrnd x => FR.check x (rVfp 1 (mdIn 0x07))
  | .vhadd x => FR.check x (rVfp 2 (mdIn 0x1F))
  | .vhsub x => FR.check x (rVfp 2 (mdIn 0x1F))
  | .vhmul x => FR.check x (rVfp 2 (mdIn 0x1F))
  | .vhfma x => FR.check x (rVfp 3 (mdIn 0x1F))
  | .vhmin x => FR.check x (rVfp 2 (mdIn 0x34))
  | .vhmax x => FR.check x (rVfp 2 (mdIn 0x34))
  | .vhdot x => FR.check x (rVfp 3 (mdIn 0x1F))
  | .vhcmp x => FR.check x (rVfp 2 (mdIn 0xF4))
  | .vcvt x => FR.check x (rVfp 1 mdVcvt)
  | .vpack x => FR.check x (rVfp 2 (mdIn 0x1F))
  | .vunpk x => FR.check x (rVfp 1 (mdIn 0x34))
  | .vpk8 x => FR.check x (rVfp 3 mdVpk8)
  | .vupk8 x => FR.check x (rVfp 2 mdVupk8)
  | .vshuf x => FR.check x (rX kVec kData kData kData (mdX true 0 false))
  | .vshufup x => FR.check x (rX kVec kData kData kData (mdX true 0 false))
  | .vshufdn x => FR.check x (rX kVec kData kData kData (mdX true 0 false))
  | .vshufx x => FR.check x (rX kVec kData kData kData (mdX true 0 false))
  | .vbcast x => FR.check x (rVbcast x)
  | .qswap x => FR.check x (rX kVec kData kUniform kData (mdX false 0 false))
  | .qbcast x => FR.check x (rX kVec kData kUniform kData (mdX false 0 false))
  | .vscan x => FR.check x (rX kVec kData kUnused kData (mdX true 10 true))
  | .vred x => FR.check x (rX kVec kData kUnused kUnused (mdX true 10 false))
  | .vrds x => FR.check x (rX (kScalTo 60) kData kUnused kUnused (mdX false 10 false))
  | .vote x => FR.check x (rVote x)
  | .vmatch x => FR.check x (rX kVec kData kUnused kUnused mdZero)
  | .vld x => FM.check x false kVec kVBase kData (accM 0 4 true true)
  | .vst x => FM.check x false kVec kVBase kData (accM 0 4 true true)
  | .vlds x => FM.check x false kVec kData kData (accM 0 4 false false)
  | .vsts x => FM.check x false kVec kData kData (accM 0 4 false false)
  | .vldw x => FM.check x false kVec kData kData (accM 2 4 false false)
  | .vstw x => FM.check x false kVec kData kData (accM 2 4 false false)
  | .vpref x => FM.check x false kUnused kVBase kData (accM 0 4 true false)
  | .vamo op x => FM.check x false (if x.sz = 3#3 then kVecEven else kVec) kVBase kData (accA op x.ord)
  | .samo op x => FM.check x true (kScalTo (64 - samoSpan op x.aack)) kBase kUniform (accA op x.ord)
  | .cpy x => FR.check x (rUm (kScalTo 60) kUniform kUniform kUniform mdClass)
  | .cpyt x => FR.check x (rUm (kScalTo 60) kUniform kUniform (kScalTo 58) mdClass)
  | .discard x => FR.check x (rU (kScalTo 60) kUniform kUnused kUnused)
  | .ttag x => FR.check x (rU kUnused kUniform kUnused kUnused)
  | .xputSend x => FR.check x (rX kVec kUniform kData kUnused (fun m => decide (m ≤ 2)))
  | .xputRead x => FR.check x (rX kVec kUnused kData kUnused (fun m => decide (4 ≤ m) && decide (m ≤ 6)))
  | .coll x => FR.check x (rUm (kScalTo 60) kUniform kUniform kUnused mdClass)
  | .fence x => FR.check x (rUm kUnused kUnused kUnused kUnused mdFence)
  | .tfence x => FR.check x (rUm kUnused kUnused kUnused kUnused (fun m => m == 0x40))
  | .binit x => FR.check x (rU kUnused kUniform kUniform kUnused)
  | .barv x => FR.check x (rU (kScalTo 60) kUniform kUnused kUnused)
  | .bwait x => FR.check x (rU kUnused kUniform kUniform kUnused)
  | .bsync x => FR.check x (rU kUnused kUniform kUnused kUnused)
  | .cbar x => FR.check x (rU kUnused kUnused kUnused kUnused)
  | .cmt x => FR.check x (rU kUnused kUnused kUnused kUnused)
  | .mres x => FR.check x (rU (kScalTo 60) kUnused kUnused kUnused)
  | .mrel x => FR.check x (rU kUnused kUnused kUnused kUnused)
  | .modeM x => FR.check x (rUm kUnused kUnused kUnused kUnused (fun m => m == 1))
  | .modeV x => FR.check x (rUm kUnused kUnused kUnused kUnused mdZero)
  | .mzero x => FR.check x (rU kUnused kUnused kUnused kUnused)
  | .ald x => FR.check x (rU kUnused kUniform kUniform kUnused)
  | .ast x => FR.check x (rU kUnused kUniform kUniform kUnused)
  | .aacc x => FR.check x (rUm kUnused kUniform kUniform kUnused (mdIn 1))
  | .acpy x => FR.check x (rUm (if bitAt x.md.toNat 4 then kVec else kUnused) kBase kUniform kUniform mdAcpy)
  | .ldsc x => FR.check x (rUm kVec kBase kUniform kScal mdClass)
  | .mopa x => FX.check x
  | .vaddHalf x => Half.check x x.bin (rVint2 tyW)
  | .vsubHalf x => Half.check x x.bin (rVint2 tyW)
  | .vmulHalf x => Half.check x x.bin (rVint2 tyW)
  | .vandHalf x => Half.check x x.bin (rVint2 tyNone)
  | .vorHalf x => Half.check x x.bin (rVint2 tyNone)
  | .vxorHalf x => Half.check x x.bin (rVint2 tyNone)
  | .vandnHalf x => Half.check x x.bin (rVint2 tyNone)
  | .vshlHalf x => Half.check x x.bin (rVint2 tyW)
  | .vshrHalf x => Half.check x x.bin (rVint2 tyW)
  | .vsraHalf x => Half.check x x.bin (rVint2 tyW)
  | .vminHalf x => Half.check x x.bin (rVint2 tyAll)
  | .vmaxHalf x => Half.check x x.bin (rVint2 tyAll)
  | .vmovHalf x => Half.check x x.un (rVint1 tyNone)
  | .vnegHalf x => Half.check x x.un (rVint1 tyW)
  | .vnotHalf x => Half.check x x.un (rVint1 tyNone)
  | .vabsHalf x => Half.check x x.un (rVint1 tyW)
  | .vfaddHalf x => Half.check x x.bin (rVfp 2 (mdIn 0x0F))
  | .vfsubHalf x => Half.check x x.bin (rVfp 2 (mdIn 0x0F))
  | .vfmulHalf x => Half.check x x.bin (rVfp 2 (mdIn 0x0F))
  | .vfminHalf x => Half.check x x.bin (rVfp 2 (mdIn 0x14))
  | .vfmaxHalf x => Half.check x x.bin (rVfp 2 (mdIn 0x14))
  | .vfabsHalf x => Half.check x x.un (rVfp 1 mdZero)
  | .vfnegHalf x => Half.check x x.un (rVfp 1 mdZero)
  | .vhaddHalf x => Half.check x x.bin (rVfp 2 (mdIn 0x1F))
  | .vhmulHalf x => Half.check x x.bin (rVfp 2 (mdIn 0x1F))
  | .vcvtHalf x => Half.check x x.un (rVfp 1 mdVcvt)
  | .saddHalf x => Half.check x x.bin (rSalu 2 mdZero)
  | .ssubHalf x => Half.check x x.bin (rSalu 2 mdZero)
  | .sandHalf x => Half.check x x.bin (rSalu 2 mdZero)
  | .sorHalf x => Half.check x x.bin (rSalu 2 mdZero)
  | .sxorHalf x => Half.check x x.bin (rSalu 2 mdZero)
  | .sshlHalf x => Half.check x x.bin (rSalu 2 mdZero)
  | .sshrHalf x => Half.check x x.bin (rSalu 2 mdZero)
  | .ssraHalf x => Half.check x x.bin (rSalu 2 mdZero)
  | .smovHalf x => Half.check x x.smov (rSalu 2 mdZero)
  | .sminHalf x => Half.check x x.bin (rSalu 2 (mdIn 1))
  | .smaxHalf x => Half.check x x.bin (rSalu 2 (mdIn 1))
  | .smulHalf x => Half.check x x.bin (rSalu 2 mdZero)
  | .saddi8Half x => HalfI.check x (x.fi true) kUniform
  | .smovi8Half x => HalfI.check x (x.fi false) kUnused
  | .nopHalf rest => if rest = 0#24 then none else some 0x09
  | .stampreg _ => none
  | .stampdel _ => none
  | .rangeinv _ => none
  | .zerofill _ => none
  | .load _ => none
  | .unload _ => none
  | .chanreg _ => none
  | .attest _ => none
  | .collset _ => none
  | .replay _ => none
  | .tlbiAll _ _ => none
  | .tlbiStage1Range _ _ => none
  | .tlbiStage2Range _ _ => none
  | .tlbiDone _ => none
  | .ttbWrite _ _ _ => none
  | .qopenAll _ => none
  | .qopenId _ _ => none
  | .gaugeClear _ _ => none
  | .exceptionCounterClear _ _ _ _ => none
  | .emitlostClear _ _ => none
  | .xarmWrite _ _ _ => none
  | .submitRecord _ _ _ _ => none
  | .channelCommand _ _ => none
  | .channelCommandComplete _ _ _ => none
  | .firmwareCheck _ => none
  | .registerWrite _ _ => none
  | .powerUp => none
  | .hostIaWrite _ _ _ => none
  | .hostIaRead _ _ _ => none
  | .hostAtomic _ _ _ _ _ _ => none
  | .peerRequest _ _ _ => none
  | .peerCompletion _ _ _ _ _ _ => none
  | .peerQuarantine _ _ => none
  | .completerDeadline _ => none
  | .collReady _ _ _ _ _ => none
  | .collHandshakeTimeout _ _ _ => none
  | .collComplete _ _ _ _ _ => none
  | .evidenceRequest _ _ => none
  | .recordArrival _ _ _ => none
  | .batchWindowClose _ _ => none
  | .batchDispatch _ => none
  | .preemptionRequest _ _ => none
  | .saveComplete _ => none
  | .blockResume _ _ => none
  | .tshareTurnEnd _ _ => none
  | .clearSequence _ _ => none
  | .coreFenceOff _ => none
  | .shadowLatchReplay _ => none
  | .parkingEvent _ _ => none
  | .parkCourse _ => none
  | .splitCopyDone _ => none
  | .loadDataArrival _ _ _ => none
  | .storeAck _ _ => none
  | .atomicResponse _ _ => none
  | .engineComplete _ _ => none
  | .acpyComplete _ _ => none
  | .mxComplete _ _ => none
  | .xputComplete _ _ => none
  | .sealRelease _ => none
  | .waitcResume _ => none
  | .growDone _ => none
  | .shrinkDone _ => none
  | .fenceDone _ => none
  | .tfenceDone _ => none
  | .modeMEnter _ => none
  | .modeVDrained _ => none
  | .groupEnd _ => none
  | .barvRegister _ _ => none
  | .bwaitResume _ => none
  | .cbarRegister _ => none
  | .releasePerform _ _ => none
  | .commitBufferRoom _ => none
  | .activeSlotTimeout _ _ => none
  | .pendingPromotion _ => none
  | .sliceRequest _ _ => none
  | .walkComplete _ _ => none
  | .hbmUncorrectableError _ => none
  | .keyRevokeFlush _ => none
  | .keyRevokeImmediate _ => none
  | .keyRevokeComplete _ => none
  | .partitionMapChange _ _ => none
  | .waySweepDone _ => none
  | .partitionCreate _ => none
  | .partitionReset _ => none
  | .flitReceive _ _ => none
  | .linkResendRequest _ _ => none
  | .linkAck _ _ => none
  | .linkRetrain _ => none
  | .linkRetrainDone _ => none
  | .tornStatus _ => none
  | .linkRekey _ => none
  | .linkRekeySwitch _ _ => none
  | .quotaPeriodEnd _ => none
  | .gaugeQueueSample _ => none
  | .commandEnd _ => none
  | .attestMemberTimeout _ => none
  | .frameSlot _ => none
  | .powerGating _ _ => none
  | .tdispRequest _ _ => none
  | .atsCompletion _ _ => none
  | .hostCompleterDeadline _ => none
  | .memoryKeyProgram _ _ _ _ => none

/-! ## Registers that check 16 covers (R47) -/

/-- The vector register a field names, with the number of registers it covers. -/
def Operand.span (o : Operand) (n : Nat) : List (Nat × Nat) :=
  match o with
  | .v r => [(r.toNat, n)]
  | _ => []

/-- The registers an access of size code `sz` covers from D (R136). -/
def szRegs (sz : Nat) : Nat := if sz ≤ 2 then 1 else if sz = 3 then 2 else 4

/-- The registers a VAMO covers from D (R147). -/
def vamoRegs (op : AOp) (x : FM) : Nat :=
  (if x.sz = 3#3 then (if op = .cas then 4 else 2) else if op = .cas then 2 else 1) + (if x.aack then 1 else 0)

def FR.spans (x : FR) (dn an bn : Nat) : List (Nat × Nat) :=
  x.d.span dn ++ x.a.span an ++ x.b.span bn ++ x.c.span 1

def FM.spans (x : FM) (dn an : Nat) : List (Nat × Nat) := x.d.span dn ++ x.a.span an ++ x.b.span 1

/-- Every register named lies below the allocation of `alloc` registers. -/
def spansOk (alloc : Nat) (l : List (Nat × Nat)) : Bool := l.all (fun p => decide (p.1 + p.2 ≤ alloc))

/-- The registers of VADR: wide fields cover two (R100). -/
def vadrSpans (x : FR) : List (Nat × Nat) := x.spans 2 2 (if bits x.md.toNat 1 0 = 2 then 2 else 1)

/-- The registers of XPUT's data operand (R286). -/
def xputRegs (x : FR) : Nat := szRegs (bits x.md.toNat 1 0 + 2)

end Sys2Proof
end

