-- ==== Sys2Proof/Decode.lean ====
section
/-! DEFINITION. The decoder (ch. 02): a 64-bit word becomes a full-form instruction, a pair of halves, or a rejection
by the reason of Table 2.12; and after it the encoder, written from the same tables. -/

namespace Sys2Proof

open Machine

/-! ## Operand codes (Tables 2.7, 2.10) -/

/-- The specials in the order of their codes. -/
def Special.all : List Special :=
  [.lane, .quad, .grp, .blk, .coh, .core, .stamp, .hh, .beat, .nact, .lstat, .zero, .ones, .cyc]

/-- A special's place in Table 2.7. -/
def Special.index : Special → Nat
  | .lane => 0 | .quad => 1 | .grp => 2 | .blk => 3 | .coh => 4 | .core => 5 | .stamp => 6 | .hh => 7 | .beat => 8
  | .nact => 9 | .lstat => 10 | .zero => 11 | .ones => 12 | .cyc => 13

/-- The operand of a 9-bit code (Table 2.7). -/
def Operand.ofCode (c : Nat) : Operand :=
  if c < 0x100 then .v (BitVec.ofNat 8 c)
  else if c < 0x140 then .s (BitVec.ofNat 6 c)
  else if c < 0x148 then .q (BitVec.ofNat 3 c)
  else if c < 0x160 then .reserved (BitVec.ofNat 9 c)
  else if c < 0x180 then
    match Special.all[c - 0x160]? with
    | some x => .sp x
    | none => .reserved (BitVec.ofNat 9 c)
  else .imm (BitVec.ofNat 7 c)

/-- The 9-bit code of an operand (Table 2.7). -/
def Operand.code : Operand → Nat
  | .v n => n.toNat
  | .s n => 0x100 + n.toNat
  | .q n => 0x140 + n.toNat
  | .sp x => 0x160 + x.index
  | .imm n => 0x180 + n.toNat
  | .reserved c => c.toNat

/-- The operand of a half's 8-bit code (Table 2.10). -/
def HOperand.ofCode (c : Nat) : HOperand :=
  if c < 0x80 then .v (BitVec.ofNat 7 c)
  else if c < 0xC0 then .s (BitVec.ofNat 6 c)
  else if c < 0xE0 then .imm (BitVec.ofNat 5 c)
  else
    match Special.all[c - 0xE0]? with
    | some x => .sp x
    | none => .reserved (BitVec.ofNat 8 c)

/-- The 8-bit code of a half's operand (Table 2.10). -/
def HOperand.code : HOperand → Nat
  | .v n => n.toNat
  | .s n => 0x80 + n.toNat
  | .imm n => 0xC0 + n.toNat
  | .sp x => 0xE0 + x.index
  | .reserved c => c.toNat

/-! ## Formats (Tables 2.2–2.6, 2.8) -/

def FR.ofWord (w : Nat) : FR :=
  { g := BitVec.ofNat 4 (bits w 55 52), d := .ofCode (bits w 51 43), a := .ofCode (bits w 42 34),
    b := .ofCode (bits w 33 25), c := .ofCode (bits w 24 16), md := BitVec.ofNat 8 (bits w 7 0) }

def FI.ofWord (w : Nat) : FI :=
  { g := BitVec.ofNat 4 (bits w 55 52), d := .ofCode (bits w 51 43), a := .ofCode (bits w 42 34),
    md := BitVec.ofNat 2 (bits w 25 24), imm := BitVec.ofNat 24 (bits w 23 0) }

def FM.ofWord (w : Nat) : FM :=
  { g := BitVec.ofNat 4 (bits w 55 52), d := .ofCode (bits w 51 43), a := .ofCode (bits w 42 34),
    b := .ofCode (bits w 33 25), sz := BitVec.ofNat 3 (bits w 24 22), cl := BitVec.ofNat 2 (bits w 21 20),
    sc := BitVec.ofNat 3 (bits w 19 17), off := BitVec.ofNat 13 (bits w 12 0) }

def FB.ofWord (w : Nat) : FB :=
  { g := BitVec.ofNat 4 (bits w 55 52), sa := BitVec.ofNat 6 (bits w 51 46), sb := BitVec.ofNat 6 (bits w 45 40),
    cnd := BitVec.ofNat 3 (bits w 39 37), off := BitVec.ofNat 32 (bits w 31 0) }

def FX.ofWord (w : Nat) : FX :=
  { g := BitVec.ofNat 4 (bits w 55 52), f := .ofCode (bits w 51 43), a := .ofCode (bits w 42 34),
    b := .ofCode (bits w 33 25), sa := .ofCode (bits w 24 16), sb := .ofCode (bits w 15 7),
    rsv := BitVec.ofNat 3 (bits w 6 4), acc := bitAt w 3, np := bitAt w 2, ge := bitAt w 1, gs := bitAt w 0 }

/-- A half from its 31 bits (Table 2.8). -/
def Half.ofBits (h : Nat) : Half :=
  { d := .ofCode (bits h 23 16), s := .ofCode (bits h 15 8), g3 := BitVec.ofNat 3 (bits h 7 5),
    m5 := BitVec.ofNat 5 (bits h 4 0) }

def HalfI.ofBits (h : Nat) : HalfI :=
  { d := .ofCode (bits h 23 16), imm := BitVec.ofNat 8 (bits h 15 8), g3 := BitVec.ofNat 3 (bits h 7 5),
    m5 := BitVec.ofNat 5 (bits h 4 0) }

/-! ## Function codes (Table 2.9), one list per family, from code 0 -/

/-- MAJ 0x00. -/
def fnCtl : List (FR → Instr) :=
  [.nop, .endGroup, .yield, .trap, .tret, .srd, .swr, .grow, .shrink, .emit, .waitc]

/-- MAJ 0x01. -/
def fnSalu : List (FR → Instr) :=
  [.sadd, .ssub, .smul, .smulh, .sdiv, .srem, .sand, .sor, .sxor, .sandn, .sshl, .sshr, .ssra, .srot, .smin, .smax,
   .sclz, .spopc, .ssel, .scmp, .sbfe, .sbfi]

/-- MAJ 0x02. -/
def fnSalui : List (FI → Instr) :=
  [.saddi, .sandi, .sori, .sxori, .sshli, .sshri, .ssrai, .scmpi, .smovi, .smovhi]

/-- MAJ 0x03. -/
def fnMask : List (FR → Instr) :=
  [.msave, .mrest, .mset, .mand, .mandn, .mcnt, .mfirst]

/-- MAJ 0x04. -/
def fnBr : List (FB → Instr) :=
  [.bra, .bcmp, .bcmpi, .call, .ret, .jmpr, .bany, .ball, .bnone]

/-- MAJ 0x05. -/
def fnSmem : List (FM → Instr) :=
  [.sld, .sst, .sldc]

/-- MAJ 0x08. -/
def fnVint : List (FR → Instr) :=
  [.vadd, .vsub, .vmul, .vmulh, .vmad, .vaddc, .vsubb, .vdiv, .vrem, .vabs, .vneg, .vmin, .vmax, .vand, .vor,
   .vxor, .vandn, .vnot, .vshl, .vshr, .vsra, .vrot, .vclz, .vpopc, .vbrev, .vbfe, .vbfi, .vsel, .vcmp, .vmov,
   .vadds, .vsubs, .vdot4, .vdot2]

/-- MAJ 0x09. -/
def fnVinti : List (FI → Instr) :=
  [.vaddi, .vandi, .vori, .vxori, .vshli, .vshri, .vsrai, .vcmpi, .vmovi]

/-- MAJ 0x0A. -/
def fnVadr : List (FR → Instr) :=
  [.vlea, .vaddw, .vsubw]

/-- MAJ 0x10. -/
def fnVfp : List (FR → Instr) :=
  [.vfadd, .vfsub, .vfmul, .vfma, .vfms, .vfnma, .vfmin, .vfmax, .vfabs, .vfneg, .vfcmp, .vfclass, .vfdiv, .vfsqrt,
   .vfrcp, .vfrsq, .vfexp2, .vflog2, .vfsin, .vfcos, .vftanh, .vfrnd]

/-- MAJ 0x11. -/
def fnVhfp : List (FR → Instr) :=
  [.vhadd, .vhsub, .vhmul, .vhfma, .vhmin, .vhmax, .vhdot, .vhcmp]

/-- MAJ 0x12. -/
def fnVcvt : List (FR → Instr) :=
  [.vcvt, .vpack, .vunpk, .vpk8, .vupk8]

/-- MAJ 0x18. -/
def fnXlane : List (FR → Instr) :=
  [.vshuf, .vshufup, .vshufdn, .vshufx, .vbcast, .qswap, .qbcast, .vscan, .vred, .vrds, .vote, .vmatch]

/-- MAJ 0x1C. -/
def fnVmem : List (FM → Instr) :=
  [.vld, .vst, .vlds, .vsts, .vldw, .vstw, .vpref]

/-- MAJ 0x24. -/
def fnEng : List (FR → Instr) :=
  [.cpy, .cpyt, .discard, .ttag, (fun x => if bitAt x.md.toNat 2 then .xputRead x else .xputSend x), .coll]

/-- MAJ 0x28. -/
def fnSync : List (FR → Instr) :=
  [.fence, .tfence, .binit, .barv, .bwait, .bsync, .cbar, .cmt]

/-- MAJ 0x2C. -/
def fnMtx : List (FR → Instr) :=
  [.mres, .mrel, (fun x => if bitAt x.md.toNat 0 then .modeM x else .modeV x), .mzero, .ald, .ast, .aacc, .acpy,
   .ldsc]

/-- The atomic operations by OP (Table 6.4). -/
def AOp.all : List AOp :=
  [.add, .min, .max, .minn, .maxn, .and, .or, .xor, .xchg, .cas, .fadd32, .bf16x2add, .fp16x2add, .incw]

def AOp.index : AOp → Nat
  | .add => 0 | .min => 1 | .max => 2 | .minn => 3 | .maxn => 4 | .and => 5 | .or => 6 | .xor => 7 | .xchg => 8
  | .cas => 9 | .fadd32 => 10 | .bf16x2add => 11 | .fp16x2add => 12 | .incw => 13

/-- The halves whose S8 is an operand, by OP7 (Table 2.11). -/
def fnHalf : List (Half → Instr) :=
  [.vaddHalf, .vsubHalf, .vmulHalf, .vandHalf, .vorHalf, .vxorHalf, .vandnHalf, .vshlHalf, .vshrHalf, .vsraHalf,
   .vminHalf, .vmaxHalf, .vmovHalf, .vnegHalf, .vnotHalf, .vabsHalf, .vfaddHalf, .vfsubHalf, .vfmulHalf,
   .vfminHalf, .vfmaxHalf, .vfabsHalf, .vfnegHalf, .vhaddHalf, .vhmulHalf, .vcvtHalf, .saddHalf, .ssubHalf,
   .sandHalf, .sorHalf, .sxorHalf, .sshlHalf, .sshrHalf, .ssraHalf, .smovHalf, .sminHalf, .smaxHalf, .smulHalf]

/-! ## The decoder -/

/-- What a 64-bit word is: a full-form instruction, two halves (each none where its OP7 is unassigned), or a word
that fails check 1 or 2 of Table 2.12. -/
inductive Body where
  | full (i : Instr)
  | pair (h0 h1 : Option Instr)
  | bad (reason : Nat)
  deriving DecidableEq, Repr

/-- The instruction of a function code, or reason 0x02. -/
def pick {α : Type} (l : List (α → Instr)) (fn : Nat) (x : α) : Body :=
  match l[fn]? with
  | some f => .full (f x)
  | none => .bad 0x02

/-- A full-form word by its MAJ and function code (Table 2.9). -/
def decodeFull (w : Nat) : Body :=
  let fr := FR.ofWord w
  let fn := bits w 15 8
  match bits w 61 56 with
  | 0x00 => pick fnCtl fn fr
  | 0x01 => pick fnSalu fn fr
  | 0x02 => pick fnSalui (bits w 33 26) (FI.ofWord w)
  | 0x03 => pick fnMask fn fr
  | 0x04 => pick fnBr (bits w 36 32) (FB.ofWord w)
  | 0x05 => pick fnSmem (bits w 16 13) (FM.ofWord w)
  | 0x08 => pick fnVint fn fr
  | 0x09 => pick fnVinti (bits w 33 26) (FI.ofWord w)
  | 0x0A => pick fnVadr fn fr
  | 0x10 => pick fnVfp fn fr
  | 0x11 => pick fnVhfp fn fr
  | 0x12 => pick fnVcvt fn fr
  | 0x18 => pick fnXlane fn fr
  | 0x1C => pick fnVmem (bits w 16 13) (FM.ofWord w)
  | 0x24 => pick fnEng fn fr
  | 0x28 => pick fnSync fn fr
  | 0x2C => pick fnMtx fn fr
  | 0x20 => pick (AOp.all.map Instr.vamo) (bits w 16 13) (FM.ofWord w)
  | 0x21 => pick (AOp.all.map Instr.samo) (bits w 16 13) (FM.ofWord w)
  | 0x2D => .full (.mopa (FX.ofWord w))
  | _ => .bad 0x01

/-- A half from its 31 bits; none where OP7 is unassigned (R54). -/
def decodeHalf (h : Nat) : Option Instr :=
  let op := bits h 30 24
  match fnHalf[op]? with
  | some f => some (f (Half.ofBits h))
  | none =>
    if op = 0x26 then some (.saddi8Half (HalfI.ofBits h))
    else if op = 0x27 then some (.smovi8Half (HalfI.ofBits h))
    else if op = 0x7F then some (.nopHalf (BitVec.ofNat 24 (bits h 23 0)))
    else none

/-- The body of a word (R32). -/
def decodeBody (w : Nat) : Body :=
  if bitAt w 62 then .pair (decodeHalf (bits w 61 31)) (decodeHalf (bits w 30 0)) else decodeFull w

/-- The seal bit (R34). -/
def sealBit (w : Nat) : Bool := bitAt w 63

/-- Any list of bytes: the word of the first eight (R32), or none where there are fewer. -/
def decodeBytes (l : List Byte) : Option Body :=
  if l.length < 8 then none else some (decodeBody (leVal (l.take 8)))

/-- The instruction whose bits are w, numbered from bit 0; of a pair, its first half, or its second where the first
is a NOP half. -/
def decodeTableWord (nbits w : Nat) : Option Instr :=
  match decodeBytes (leBytes 8 (w % 2 ^ nbits)) with
  | some (.full i) => some i
  | some (.pair (some (.nopHalf 0#24)) (some h1)) => some h1
  | some (.pair h0 _) => h0
  | some (.bad _) => none
  | none => none

/-! ## The encoder -/

def FR.word (x : FR) (maj fn : Nat) : Nat :=
  maj * 2 ^ 56 + x.g.toNat * 2 ^ 52 + x.d.code * 2 ^ 43 + x.a.code * 2 ^ 34 + x.b.code * 2 ^ 25 + x.c.code * 2 ^ 16
    + fn * 2 ^ 8 + x.md.toNat

def FI.word (x : FI) (maj fn : Nat) : Nat :=
  maj * 2 ^ 56 + x.g.toNat * 2 ^ 52 + x.d.code * 2 ^ 43 + x.a.code * 2 ^ 34 + fn * 2 ^ 26 + x.md.toNat * 2 ^ 24
    + x.imm.toNat

def FM.word (x : FM) (maj op : Nat) : Nat :=
  maj * 2 ^ 56 + x.g.toNat * 2 ^ 52 + x.d.code * 2 ^ 43 + x.a.code * 2 ^ 34 + x.b.code * 2 ^ 25 + x.sz.toNat * 2 ^ 22
    + x.cl.toNat * 2 ^ 20 + x.sc.toNat * 2 ^ 17 + op * 2 ^ 13 + x.off.toNat

def FB.word (x : FB) (maj fn : Nat) : Nat :=
  maj * 2 ^ 56 + x.g.toNat * 2 ^ 52 + x.sa.toNat * 2 ^ 46 + x.sb.toNat * 2 ^ 40 + x.cnd.toNat * 2 ^ 37 + fn * 2 ^ 32
    + x.off.toNat

def FX.word (x : FX) : Nat :=
  0x2D * 2 ^ 56 + x.g.toNat * 2 ^ 52 + x.f.code * 2 ^ 43 + x.a.code * 2 ^ 34 + x.b.code * 2 ^ 25 + x.sa.code * 2 ^ 16
    + x.sb.code * 2 ^ 7 + x.rsv.toNat * 2 ^ 4 + x.acc.toNat * 8 + x.np.toNat * 4 + x.ge.toNat * 2 + x.gs.toNat

def Half.word (x : Half) (op : Nat) : Nat :=
  op * 2 ^ 24 + x.d.code * 2 ^ 16 + x.s.code * 2 ^ 8 + x.g3.toNat * 2 ^ 5 + x.m5.toNat

def HalfI.word (x : HalfI) (op : Nat) : Nat :=
  op * 2 ^ 24 + x.d.code * 2 ^ 16 + x.imm.toNat * 2 ^ 8 + x.g3.toNat * 2 ^ 5 + x.m5.toNat

/-- Where an instruction stands: a whole word, half of a pair word, or no word at all, an event. -/
inductive Form where
  | full | half | event
  deriving DecidableEq, Repr

/-- The form of each instruction of the opcode table. -/
def Instr.form : Instr → Form
  | .nop _ => .full
  | .endGroup _ => .full
  | .yield _ => .full
  | .trap _ => .full
  | .tret _ => .full
  | .srd _ => .full
  | .swr _ => .full
  | .grow _ => .full
  | .shrink _ => .full
  | .emit _ => .full
  | .waitc _ => .full
  | .sadd _ => .full
  | .ssub _ => .full
  | .smul _ => .full
  | .smulh _ => .full
  | .sdiv _ => .full
  | .srem _ => .full
  | .sand _ => .full
  | .sor _ => .full
  | .sxor _ => .full
  | .sandn _ => .full
  | .sshl _ => .full
  | .sshr _ => .full
  | .ssra _ => .full
  | .srot _ => .full
  | .smin _ => .full
  | .smax _ => .full
  | .sclz _ => .full
  | .spopc _ => .full
  | .ssel _ => .full
  | .scmp _ => .full
  | .sbfe _ => .full
  | .sbfi _ => .full
  | .saddi _ => .full
  | .sandi _ => .full
  | .sori _ => .full
  | .sxori _ => .full
  | .sshli _ => .full
  | .sshri _ => .full
  | .ssrai _ => .full
  | .scmpi _ => .full
  | .smovi _ => .full
  | .smovhi _ => .full
  | .msave _ => .full
  | .mrest _ => .full
  | .mset _ => .full
  | .mand _ => .full
  | .mandn _ => .full
  | .mcnt _ => .full
  | .mfirst _ => .full
  | .bra _ => .full
  | .bcmp _ => .full
  | .bcmpi _ => .full
  | .call _ => .full
  | .ret _ => .full
  | .jmpr _ => .full
  | .bany _ => .full
  | .ball _ => .full
  | .bnone _ => .full
  | .sld _ => .full
  | .sst _ => .full
  | .sldc _ => .full
  | .vadd _ => .full
  | .vsub _ => .full
  | .vmul _ => .full
  | .vmulh _ => .full
  | .vmad _ => .full
  | .vaddc _ => .full
  | .vsubb _ => .full
  | .vdiv _ => .full
  | .vrem _ => .full
  | .vabs _ => .full
  | .vneg _ => .full
  | .vmin _ => .full
  | .vmax _ => .full
  | .vand _ => .full
  | .vor _ => .full
  | .vxor _ => .full
  | .vandn _ => .full
  | .vnot _ => .full
  | .vshl _ => .full
  | .vshr _ => .full
  | .vsra _ => .full
  | .vrot _ => .full
  | .vclz _ => .full
  | .vpopc _ => .full
  | .vbrev _ => .full
  | .vbfe _ => .full
  | .vbfi _ => .full
  | .vsel _ => .full
  | .vcmp _ => .full
  | .vmov _ => .full
  | .vadds _ => .full
  | .vsubs _ => .full
  | .vdot4 _ => .full
  | .vdot2 _ => .full
  | .vaddi _ => .full
  | .vandi _ => .full
  | .vori _ => .full
  | .vxori _ => .full
  | .vshli _ => .full
  | .vshri _ => .full
  | .vsrai _ => .full
  | .vcmpi _ => .full
  | .vmovi _ => .full
  | .vlea _ => .full
  | .vaddw _ => .full
  | .vsubw _ => .full
  | .vfadd _ => .full
  | .vfsub _ => .full
  | .vfmul _ => .full
  | .vfma _ => .full
  | .vfms _ => .full
  | .vfnma _ => .full
  | .vfmin _ => .full
  | .vfmax _ => .full
  | .vfabs _ => .full
  | .vfneg _ => .full
  | .vfcmp _ => .full
  | .vfclass _ => .full
  | .vfdiv _ => .full
  | .vfsqrt _ => .full
  | .vfrcp _ => .full
  | .vfrsq _ => .full
  | .vfexp2 _ => .full
  | .vflog2 _ => .full
  | .vfsin _ => .full
  | .vfcos _ => .full
  | .vftanh _ => .full
  | .vfrnd _ => .full
  | .vhadd _ => .full
  | .vhsub _ => .full
  | .vhmul _ => .full
  | .vhfma _ => .full
  | .vhmin _ => .full
  | .vhmax _ => .full
  | .vhdot _ => .full
  | .vhcmp _ => .full
  | .vcvt _ => .full
  | .vpack _ => .full
  | .vunpk _ => .full
  | .vpk8 _ => .full
  | .vupk8 _ => .full
  | .vshuf _ => .full
  | .vshufup _ => .full
  | .vshufdn _ => .full
  | .vshufx _ => .full
  | .vbcast _ => .full
  | .qswap _ => .full
  | .qbcast _ => .full
  | .vscan _ => .full
  | .vred _ => .full
  | .vrds _ => .full
  | .vote _ => .full
  | .vmatch _ => .full
  | .vld _ => .full
  | .vst _ => .full
  | .vlds _ => .full
  | .vsts _ => .full
  | .vldw _ => .full
  | .vstw _ => .full
  | .vpref _ => .full
  | .vamo _ _ => .full
  | .samo _ _ => .full
  | .cpy _ => .full
  | .cpyt _ => .full
  | .discard _ => .full
  | .ttag _ => .full
  | .xputSend _ => .full
  | .xputRead _ => .full
  | .coll _ => .full
  | .fence _ => .full
  | .tfence _ => .full
  | .binit _ => .full
  | .barv _ => .full
  | .bwait _ => .full
  | .bsync _ => .full
  | .cbar _ => .full
  | .cmt _ => .full
  | .mres _ => .full
  | .mrel _ => .full
  | .modeM _ => .full
  | .modeV _ => .full
  | .mzero _ => .full
  | .ald _ => .full
  | .ast _ => .full
  | .aacc _ => .full
  | .acpy _ => .full
  | .ldsc _ => .full
  | .mopa _ => .full
  | .vaddHalf _ => .half
  | .vsubHalf _ => .half
  | .vmulHalf _ => .half
  | .vandHalf _ => .half
  | .vorHalf _ => .half
  | .vxorHalf _ => .half
  | .vandnHalf _ => .half
  | .vshlHalf _ => .half
  | .vshrHalf _ => .half
  | .vsraHalf _ => .half
  | .vminHalf _ => .half
  | .vmaxHalf _ => .half
  | .vmovHalf _ => .half
  | .vnegHalf _ => .half
  | .vnotHalf _ => .half
  | .vabsHalf _ => .half
  | .vfaddHalf _ => .half
  | .vfsubHalf _ => .half
  | .vfmulHalf _ => .half
  | .vfminHalf _ => .half
  | .vfmaxHalf _ => .half
  | .vfabsHalf _ => .half
  | .vfnegHalf _ => .half
  | .vhaddHalf _ => .half
  | .vhmulHalf _ => .half
  | .vcvtHalf _ => .half
  | .saddHalf _ => .half
  | .ssubHalf _ => .half
  | .sandHalf _ => .half
  | .sorHalf _ => .half
  | .sxorHalf _ => .half
  | .sshlHalf _ => .half
  | .sshrHalf _ => .half
  | .ssraHalf _ => .half
  | .smovHalf _ => .half
  | .sminHalf _ => .half
  | .smaxHalf _ => .half
  | .smulHalf _ => .half
  | .saddi8Half _ => .half
  | .smovi8Half _ => .half
  | .nopHalf _ => .half
  | .stampreg _ => .event
  | .stampdel _ => .event
  | .rangeinv _ => .event
  | .zerofill _ => .event
  | .load _ => .event
  | .unload _ => .event
  | .chanreg _ => .event
  | .attest _ => .event
  | .collset _ => .event
  | .replay _ => .event
  | .tlbiAll _ _ => .event
  | .tlbiStage1Range _ _ => .event
  | .tlbiStage2Range _ _ => .event
  | .tlbiDone _ => .event
  | .ttbWrite _ _ _ => .event
  | .qopenAll _ => .event
  | .qopenId _ _ => .event
  | .gaugeClear _ _ => .event
  | .exceptionCounterClear _ _ _ _ => .event
  | .emitlostClear _ _ => .event
  | .xarmWrite _ _ _ => .event
  | .submitRecord _ _ _ _ => .event
  | .channelCommand _ _ => .event
  | .channelCommandComplete _ _ _ => .event
  | .firmwareCheck _ => .event
  | .registerWrite _ _ => .event
  | .powerUp => .event
  | .hostIaWrite _ _ _ => .event
  | .hostIaRead _ _ _ => .event
  | .hostAtomic _ _ _ _ _ _ => .event
  | .peerRequest _ _ _ => .event
  | .peerCompletion _ _ _ _ _ _ => .event
  | .peerQuarantine _ _ => .event
  | .completerDeadline _ => .event
  | .collReady _ _ _ _ _ => .event
  | .collHandshakeTimeout _ _ _ => .event
  | .collComplete _ _ _ _ _ => .event
  | .evidenceRequest _ _ => .event
  | .recordArrival _ _ _ => .event
  | .batchWindowClose _ _ => .event
  | .batchDispatch _ => .event
  | .preemptionRequest _ _ => .event
  | .saveComplete _ => .event
  | .blockResume _ _ => .event
  | .tshareTurnEnd _ _ => .event
  | .clearSequence _ _ => .event
  | .coreFenceOff _ => .event
  | .shadowLatchReplay _ => .event
  | .parkingEvent _ _ => .event
  | .parkCourse _ => .event
  | .splitCopyDone _ => .event
  | .loadDataArrival _ _ _ => .event
  | .storeAck _ _ => .event
  | .atomicResponse _ _ => .event
  | .engineComplete _ _ => .event
  | .acpyComplete _ _ => .event
  | .mxComplete _ _ => .event
  | .xputComplete _ _ => .event
  | .sealRelease _ => .event
  | .waitcResume _ => .event
  | .growDone _ => .event
  | .shrinkDone _ => .event
  | .fenceDone _ => .event
  | .tfenceDone _ => .event
  | .modeMEnter _ => .event
  | .modeVDrained _ => .event
  | .groupEnd _ => .event
  | .barvRegister _ _ => .event
  | .bwaitResume _ => .event
  | .cbarRegister _ => .event
  | .releasePerform _ _ => .event
  | .commitBufferRoom _ => .event
  | .activeSlotTimeout _ _ => .event
  | .pendingPromotion _ => .event
  | .sliceRequest _ _ => .event
  | .walkComplete _ _ => .event
  | .hbmUncorrectableError _ => .event
  | .keyRevokeFlush _ => .event
  | .keyRevokeImmediate _ => .event
  | .keyRevokeComplete _ => .event
  | .partitionMapChange _ _ => .event
  | .waySweepDone _ => .event
  | .partitionCreate _ => .event
  | .partitionReset _ => .event
  | .flitReceive _ _ => .event
  | .linkResendRequest _ _ => .event
  | .linkAck _ _ => .event
  | .linkRetrain _ => .event
  | .linkRetrainDone _ => .event
  | .tornStatus _ => .event
  | .linkRekey _ => .event
  | .linkRekeySwitch _ _ => .event
  | .quotaPeriodEnd _ => .event
  | .gaugeQueueSample _ => .event
  | .commandEnd _ => .event
  | .attestMemberTimeout _ => .event
  | .frameSlot _ => .event
  | .powerGating _ _ => .event
  | .tdispRequest _ _ => .event
  | .atsCompletion _ _ => .event
  | .hostCompleterDeadline _ => .event
  | .memoryKeyProgram _ _ _ _ => .event

/-- The bits of an instruction: 62 for a full form (seal clear), 31 for a half; none for an event. -/
def encode : Instr → Option Nat
  | .nop x => some (x.word 0x00 0)
  | .endGroup x => some (x.word 0x00 1)
  | .yield x => some (x.word 0x00 2)
  | .trap x => some (x.word 0x00 3)
  | .tret x => some (x.word 0x00 4)
  | .srd x => some (x.word 0x00 5)
  | .swr x => some (x.word 0x00 6)
  | .grow x => some (x.word 0x00 7)
  | .shrink x => some (x.word 0x00 8)
  | .emit x => some (x.word 0x00 9)
  | .waitc x => some (x.word 0x00 10)
  | .sadd x => some (x.word 0x01 0)
  | .ssub x => some (x.word 0x01 1)
  | .smul x => some (x.word 0x01 2)
  | .smulh x => some (x.word 0x01 3)
  | .sdiv x => some (x.word 0x01 4)
  | .srem x => some (x.word 0x01 5)
  | .sand x => some (x.word 0x01 6)
  | .sor x => some (x.word 0x01 7)
  | .sxor x => some (x.word 0x01 8)
  | .sandn x => some (x.word 0x01 9)
  | .sshl x => some (x.word 0x01 10)
  | .sshr x => some (x.word 0x01 11)
  | .ssra x => some (x.word 0x01 12)
  | .srot x => some (x.word 0x01 13)
  | .smin x => some (x.word 0x01 14)
  | .smax x => some (x.word 0x01 15)
  | .sclz x => some (x.word 0x01 16)
  | .spopc x => some (x.word 0x01 17)
  | .ssel x => some (x.word 0x01 18)
  | .scmp x => some (x.word 0x01 19)
  | .sbfe x => some (x.word 0x01 20)
  | .sbfi x => some (x.word 0x01 21)
  | .saddi x => some (x.word 0x02 0)
  | .sandi x => some (x.word 0x02 1)
  | .sori x => some (x.word 0x02 2)
  | .sxori x => some (x.word 0x02 3)
  | .sshli x => some (x.word 0x02 4)
  | .sshri x => some (x.word 0x02 5)
  | .ssrai x => some (x.word 0x02 6)
  | .scmpi x => some (x.word 0x02 7)
  | .smovi x => some (x.word 0x02 8)
  | .smovhi x => some (x.word 0x02 9)
  | .msave x => some (x.word 0x03 0)
  | .mrest x => some (x.word 0x03 1)
  | .mset x => some (x.word 0x03 2)
  | .mand x => some (x.word 0x03 3)
  | .mandn x => some (x.word 0x03 4)
  | .mcnt x => some (x.word 0x03 5)
  | .mfirst x => some (x.word 0x03 6)
  | .bra x => some (x.word 0x04 0)
  | .bcmp x => some (x.word 0x04 1)
  | .bcmpi x => some (x.word 0x04 2)
  | .call x => some (x.word 0x04 3)
  | .ret x => some (x.word 0x04 4)
  | .jmpr x => some (x.word 0x04 5)
  | .bany x => some (x.word 0x04 6)
  | .ball x => some (x.word 0x04 7)
  | .bnone x => some (x.word 0x04 8)
  | .sld x => some (x.word 0x05 0)
  | .sst x => some (x.word 0x05 1)
  | .sldc x => some (x.word 0x05 2)
  | .vadd x => some (x.word 0x08 0)
  | .vsub x => some (x.word 0x08 1)
  | .vmul x => some (x.word 0x08 2)
  | .vmulh x => some (x.word 0x08 3)
  | .vmad x => some (x.word 0x08 4)
  | .vaddc x => some (x.word 0x08 5)
  | .vsubb x => some (x.word 0x08 6)
  | .vdiv x => some (x.word 0x08 7)
  | .vrem x => some (x.word 0x08 8)
  | .vabs x => some (x.word 0x08 9)
  | .vneg x => some (x.word 0x08 10)
  | .vmin x => some (x.word 0x08 11)
  | .vmax x => some (x.word 0x08 12)
  | .vand x => some (x.word 0x08 13)
  | .vor x => some (x.word 0x08 14)
  | .vxor x => some (x.word 0x08 15)
  | .vandn x => some (x.word 0x08 16)
  | .vnot x => some (x.word 0x08 17)
  | .vshl x => some (x.word 0x08 18)
  | .vshr x => some (x.word 0x08 19)
  | .vsra x => some (x.word 0x08 20)
  | .vrot x => some (x.word 0x08 21)
  | .vclz x => some (x.word 0x08 22)
  | .vpopc x => some (x.word 0x08 23)
  | .vbrev x => some (x.word 0x08 24)
  | .vbfe x => some (x.word 0x08 25)
  | .vbfi x => some (x.word 0x08 26)
  | .vsel x => some (x.word 0x08 27)
  | .vcmp x => some (x.word 0x08 28)
  | .vmov x => some (x.word 0x08 29)
  | .vadds x => some (x.word 0x08 30)
  | .vsubs x => some (x.word 0x08 31)
  | .vdot4 x => some (x.word 0x08 32)
  | .vdot2 x => some (x.word 0x08 33)
  | .vaddi x => some (x.word 0x09 0)
  | .vandi x => some (x.word 0x09 1)
  | .vori x => some (x.word 0x09 2)
  | .vxori x => some (x.word 0x09 3)
  | .vshli x => some (x.word 0x09 4)
  | .vshri x => some (x.word 0x09 5)
  | .vsrai x => some (x.word 0x09 6)
  | .vcmpi x => some (x.word 0x09 7)
  | .vmovi x => some (x.word 0x09 8)
  | .vlea x => some (x.word 0x0A 0)
  | .vaddw x => some (x.word 0x0A 1)
  | .vsubw x => some (x.word 0x0A 2)
  | .vfadd x => some (x.word 0x10 0)
  | .vfsub x => some (x.word 0x10 1)
  | .vfmul x => some (x.word 0x10 2)
  | .vfma x => some (x.word 0x10 3)
  | .vfms x => some (x.word 0x10 4)
  | .vfnma x => some (x.word 0x10 5)
  | .vfmin x => some (x.word 0x10 6)
  | .vfmax x => some (x.word 0x10 7)
  | .vfabs x => some (x.word 0x10 8)
  | .vfneg x => some (x.word 0x10 9)
  | .vfcmp x => some (x.word 0x10 10)
  | .vfclass x => some (x.word 0x10 11)
  | .vfdiv x => some (x.word 0x10 12)
  | .vfsqrt x => some (x.word 0x10 13)
  | .vfrcp x => some (x.word 0x10 14)
  | .vfrsq x => some (x.word 0x10 15)
  | .vfexp2 x => some (x.word 0x10 16)
  | .vflog2 x => some (x.word 0x10 17)
  | .vfsin x => some (x.word 0x10 18)
  | .vfcos x => some (x.word 0x10 19)
  | .vftanh x => some (x.word 0x10 20)
  | .vfrnd x => some (x.word 0x10 21)
  | .vhadd x => some (x.word 0x11 0)
  | .vhsub x => some (x.word 0x11 1)
  | .vhmul x => some (x.word 0x11 2)
  | .vhfma x => some (x.word 0x11 3)
  | .vhmin x => some (x.word 0x11 4)
  | .vhmax x => some (x.word 0x11 5)
  | .vhdot x => some (x.word 0x11 6)
  | .vhcmp x => some (x.word 0x11 7)
  | .vcvt x => some (x.word 0x12 0)
  | .vpack x => some (x.word 0x12 1)
  | .vunpk x => some (x.word 0x12 2)
  | .vpk8 x => some (x.word 0x12 3)
  | .vupk8 x => some (x.word 0x12 4)
  | .vshuf x => some (x.word 0x18 0)
  | .vshufup x => some (x.word 0x18 1)
  | .vshufdn x => some (x.word 0x18 2)
  | .vshufx x => some (x.word 0x18 3)
  | .vbcast x => some (x.word 0x18 4)
  | .qswap x => some (x.word 0x18 5)
  | .qbcast x => some (x.word 0x18 6)
  | .vscan x => some (x.word 0x18 7)
  | .vred x => some (x.word 0x18 8)
  | .vrds x => some (x.word 0x18 9)
  | .vote x => some (x.word 0x18 10)
  | .vmatch x => some (x.word 0x18 11)
  | .vld x => some (x.word 0x1C 0)
  | .vst x => some (x.word 0x1C 1)
  | .vlds x => some (x.word 0x1C 2)
  | .vsts x => some (x.word 0x1C 3)
  | .vldw x => some (x.word 0x1C 4)
  | .vstw x => some (x.word 0x1C 5)
  | .vpref x => some (x.word 0x1C 6)
  | .cpy x => some (x.word 0x24 0)
  | .cpyt x => some (x.word 0x24 1)
  | .discard x => some (x.word 0x24 2)
  | .ttag x => some (x.word 0x24 3)
  | .xputSend x => some (x.word 0x24 4)
  | .xputRead x => some (x.word 0x24 4)
  | .coll x => some (x.word 0x24 5)
  | .fence x => some (x.word 0x28 0)
  | .tfence x => some (x.word 0x28 1)
  | .binit x => some (x.word 0x28 2)
  | .barv x => some (x.word 0x28 3)
  | .bwait x => some (x.word 0x28 4)
  | .bsync x => some (x.word 0x28 5)
  | .cbar x => some (x.word 0x28 6)
  | .cmt x => some (x.word 0x28 7)
  | .mres x => some (x.word 0x2C 0)
  | .mrel x => some (x.word 0x2C 1)
  | .modeM x => some (x.word 0x2C 2)
  | .modeV x => some (x.word 0x2C 2)
  | .mzero x => some (x.word 0x2C 3)
  | .ald x => some (x.word 0x2C 4)
  | .ast x => some (x.word 0x2C 5)
  | .aacc x => some (x.word 0x2C 6)
  | .acpy x => some (x.word 0x2C 7)
  | .ldsc x => some (x.word 0x2C 8)
  | .vamo op x => some (x.word 0x20 op.index)
  | .samo op x => some (x.word 0x21 op.index)
  | .mopa x => some x.word
  | .vaddHalf x => some (x.word 0x00)
  | .vsubHalf x => some (x.word 0x01)
  | .vmulHalf x => some (x.word 0x02)
  | .vandHalf x => some (x.word 0x03)
  | .vorHalf x => some (x.word 0x04)
  | .vxorHalf x => some (x.word 0x05)
  | .vandnHalf x => some (x.word 0x06)
  | .vshlHalf x => some (x.word 0x07)
  | .vshrHalf x => some (x.word 0x08)
  | .vsraHalf x => some (x.word 0x09)
  | .vminHalf x => some (x.word 0x0A)
  | .vmaxHalf x => some (x.word 0x0B)
  | .vmovHalf x => some (x.word 0x0C)
  | .vnegHalf x => some (x.word 0x0D)
  | .vnotHalf x => some (x.word 0x0E)
  | .vabsHalf x => some (x.word 0x0F)
  | .vfaddHalf x => some (x.word 0x10)
  | .vfsubHalf x => some (x.word 0x11)
  | .vfmulHalf x => some (x.word 0x12)
  | .vfminHalf x => some (x.word 0x13)
  | .vfmaxHalf x => some (x.word 0x14)
  | .vfabsHalf x => some (x.word 0x15)
  | .vfnegHalf x => some (x.word 0x16)
  | .vhaddHalf x => some (x.word 0x17)
  | .vhmulHalf x => some (x.word 0x18)
  | .vcvtHalf x => some (x.word 0x19)
  | .saddHalf x => some (x.word 0x1A)
  | .ssubHalf x => some (x.word 0x1B)
  | .sandHalf x => some (x.word 0x1C)
  | .sorHalf x => some (x.word 0x1D)
  | .sxorHalf x => some (x.word 0x1E)
  | .sshlHalf x => some (x.word 0x1F)
  | .sshrHalf x => some (x.word 0x20)
  | .ssraHalf x => some (x.word 0x21)
  | .smovHalf x => some (x.word 0x22)
  | .sminHalf x => some (x.word 0x23)
  | .smaxHalf x => some (x.word 0x24)
  | .smulHalf x => some (x.word 0x25)
  | .saddi8Half x => some (x.word 0x26)
  | .smovi8Half x => some (x.word 0x27)
  | .nopHalf rest => some (0x7F * 2 ^ 24 + rest.toNat)
  | .stampreg _ => none
  | .stampdel _ => none
  | .rangeinv _ => none
  | .zerofill _ => none
  | .load _ => none
  | .unload _ => none
  | .chanreg _ => none
  | .attest _ => none
  | .collset _ => none
  | .replay _ => none
  | .tlbiAll _ _ => none
  | .tlbiStage1Range _ _ => none
  | .tlbiStage2Range _ _ => none
  | .tlbiDone _ => none
  | .ttbWrite _ _ _ => none
  | .qopenAll _ => none
  | .qopenId _ _ => none
  | .gaugeClear _ _ => none
  | .exceptionCounterClear _ _ _ _ => none
  | .emitlostClear _ _ => none
  | .xarmWrite _ _ _ => none
  | .submitRecord _ _ _ _ => none
  | .channelCommand _ _ => none
  | .channelCommandComplete _ _ _ => none
  | .firmwareCheck _ => none
  | .registerWrite _ _ => none
  | .powerUp => none
  | .hostIaWrite _ _ _ => none
  | .hostIaRead _ _ _ => none
  | .hostAtomic _ _ _ _ _ _ => none
  | .peerRequest _ _ _ => none
  | .peerCompletion _ _ _ _ _ _ => none
  | .peerQuarantine _ _ => none
  | .completerDeadline _ => none
  | .collReady _ _ _ _ _ => none
  | .collHandshakeTimeout _ _ _ => none
  | .collComplete _ _ _ _ _ => none
  | .evidenceRequest _ _ => none
  | .recordArrival _ _ _ => none
  | .batchWindowClose _ _ => none
  | .batchDispatch _ => none
  | .preemptionRequest _ _ => none
  | .saveComplete _ => none
  | .blockResume _ _ => none
  | .tshareTurnEnd _ _ => none
  | .clearSequence _ _ => none
  | .coreFenceOff _ => none
  | .shadowLatchReplay _ => none
  | .parkingEvent _ _ => none
  | .parkCourse _ => none
  | .splitCopyDone _ => none
  | .loadDataArrival _ _ _ => none
  | .storeAck _ _ => none
  | .atomicResponse _ _ => none
  | .engineComplete _ _ => none
  | .acpyComplete _ _ => none
  | .mxComplete _ _ => none
  | .xputComplete _ _ => none
  | .sealRelease _ => none
  | .waitcResume _ => none
  | .growDone _ => none
  | .shrinkDone _ => none
  | .fenceDone _ => none
  | .tfenceDone _ => none
  | .modeMEnter _ => none
  | .modeVDrained _ => none
  | .groupEnd _ => none
  | .barvRegister _ _ => none
  | .bwaitResume _ => none
  | .cbarRegister _ => none
  | .releasePerform _ _ => none
  | .commitBufferRoom _ => none
  | .activeSlotTimeout _ _ => none
  | .pendingPromotion _ => none
  | .sliceRequest _ _ => none
  | .walkComplete _ _ => none
  | .hbmUncorrectableError _ => none
  | .keyRevokeFlush _ => none
  | .keyRevokeImmediate _ => none
  | .keyRevokeComplete _ => none
  | .partitionMapChange _ _ => none
  | .waySweepDone _ => none
  | .partitionCreate _ => none
  | .partitionReset _ => none
  | .flitReceive _ _ => none
  | .linkResendRequest _ _ => none
  | .linkAck _ _ => none
  | .linkRetrain _ => none
  | .linkRetrainDone _ => none
  | .tornStatus _ => none
  | .linkRekey _ => none
  | .linkRekeySwitch _ _ => none
  | .quotaPeriodEnd _ => none
  | .gaugeQueueSample _ => none
  | .commandEnd _ => none
  | .attestMemberTimeout _ => none
  | .frameSlot _ => none
  | .powerGating _ _ => none
  | .tdispRequest _ _ => none
  | .atsCompletion _ _ => none
  | .hostCompleterDeadline _ => none
  | .memoryKeyProgram _ _ _ _ => none

/-- A word from a full form or a pair of halves, with its seal bit. -/
def wordOf (sealed : Bool) (i : Instr) : Nat := (encode i).getD 0 + sealed.toNat * 2 ^ 63

/-- The word of a pair (R48). -/
def pairWord (sealed : Bool) (h0 h1 : Instr) : Nat :=
  sealed.toNat * 2 ^ 63 + 2 ^ 62 + (encode h0).getD 0 * 2 ^ 31 + (encode h1).getD 0

end Sys2Proof
end

