-- ==== Sys2Proof/Config.lean ====
section
/-! DEFINITION. What the implementation fixes, and the free values: constants without a body, so that nothing can be
proved of which value they have. The assumption log names each. -/

namespace Sys2Proof

/-- Which value within the bound of Table 5.3 an approximated function gives (R114): a fixed function of the
instruction (its FN), FTZ and the operand bits (DESIGN CHOICE, log 20). -/
opaque Config.approxPick : (fn : Nat) → (ftz : Bool) → (a : BitVec 32) → BitVec 4

/-- A fresh value where the spec leaves one open: the n-th drawn (DESIGN CHOICE, log 21). -/
opaque Config.freeWord : (n : Nat) → BitVec 128

/-- The port that the postmaster's route table assigns to an accelerator (R395). -/
opaque Config.routePort : (accel : Nat) → Fin 24

/-- Where LOAD would place an item of a graph: which item, its size and alignment; the postmaster's choice (R374,
DESIGN CHOICE, log 28). -/
opaque Config.placeIa : (part graph item size align : Nat) → Nat

/-- The public key and the signature that the host has staged with a firmware image, at a place that the spec does not give, and the
fused hash of the key (R385, DESIGN CHOICE, log 22). -/
opaque Config.stagedKey : (image : List Byte) → List Byte
opaque Config.stagedSignature : (image : List Byte) → List Byte
opaque Config.fusedKeyHash : BitVec 512

/-- The fuse array's digest and identity, and training's outcome as the mask of stacks that failed (R385, DESIGN
CHOICE, log 22). -/
opaque Config.fuseDigest : BitVec 512
opaque Config.trainingMask : (attempt : Nat) → BitVec 32

/-- Units retired by fuse, numbered as State.dead numbers them (R365). -/
opaque Config.retired : (unit : Nat) → Bool

/-- The station that the postmaster learns at bring-up (R394), and the device's Ed448 private key, derived from fuses (R414). -/
opaque Config.station : BitVec 19
opaque Config.identity : List Byte

end Sys2Proof
end

