-- ==== Sys2Proof/Machine/Fp.lean ====
section
/-! DEFINITION. The floating-point formats of Table 3.3, exact values, Round (R72), exact sums (R78), and the
exception flags of R77. A finite value is a sign, a natural mantissa and a binary exponent, so every sum and
product of the spec is computed exactly and rounded once. -/

namespace Sys2Proof.Machine

/-- The floating-point formats, in the order of R384. -/
inductive Fmt where
  | fp32 | fp16 | bf16 | e4m3 | e5m2 | e2m3 | e3m2 | e2m1
  deriving DecidableEq, Repr

/-- The format's number in the exception counters (R384). -/
def Fmt.index : Fmt → Nat
  | .fp32 => 0 | .fp16 => 1 | .bf16 => 2 | .e4m3 => 3 | .e5m2 => 4 | .e2m3 => 5 | .e3m2 => 6 | .e2m1 => 7

/-- Width of the mantissa field (Table 3.3). -/
def Fmt.mb : Fmt → Nat
  | .fp32 => 23 | .fp16 => 10 | .bf16 => 7 | .e4m3 => 3 | .e5m2 => 2 | .e2m3 => 3 | .e3m2 => 2 | .e2m1 => 1

/-- Width of the exponent field (Table 3.3). -/
def Fmt.eb : Fmt → Nat
  | .fp32 => 8 | .fp16 => 5 | .bf16 => 8 | .e4m3 => 4 | .e5m2 => 5 | .e2m3 => 2 | .e3m2 => 3 | .e2m1 => 2

/-- Exponent bias (Table 3.3). -/
def Fmt.bias : Fmt → Nat
  | .fp32 => 127 | .fp16 => 15 | .bf16 => 127 | .e4m3 => 7 | .e5m2 => 15 | .e2m3 => 1 | .e3m2 => 3 | .e2m1 => 1

/-- Total width: sign, exponent and mantissa. -/
def Fmt.width (f : Fmt) : Nat := 1 + f.eb + f.mb

/-- The code of the largest finite magnitude (Table 3.3). -/
def Fmt.maxCode : Fmt → Nat
  | .fp32 => 0x7F7FFFFF | .fp16 => 0x7BFF | .bf16 => 0x7F7F | .e4m3 => 0x7E | .e5m2 => 0x7B
  | .e2m3 => 0x1F | .e3m2 => 0x1F | .e2m1 => 0x7

/-- The format has infinities (Table 3.3). -/
def Fmt.hasInf : Fmt → Bool
  | .fp32 | .fp16 | .bf16 | .e5m2 => true
  | .e4m3 | .e2m3 | .e3m2 | .e2m1 => false

/-- The format has NaNs (Table 3.3). -/
def Fmt.hasNaN : Fmt → Bool
  | .fp32 | .fp16 | .bf16 | .e4m3 | .e5m2 => true
  | .e2m3 | .e3m2 | .e2m1 => false

/-- The canonical NaN (Table 3.3); 0 where the format has none, as R75 writes +0. -/
def Fmt.nanCode : Fmt → Nat
  | .fp32 => 0x7FC00000 | .fp16 => 0x7E00 | .bf16 => 0x7FC0 | .e4m3 => 0x7F | .e5m2 => 0x7E
  | .e2m3 => 0 | .e3m2 => 0 | .e2m1 => 0

/-- The code of an infinity with sign 0, in a format that has one. -/
def Fmt.infCode (f : Fmt) : Nat := (2 ^ f.eb - 1) * 2 ^ f.mb

/-- The sign bit of a code, in place. -/
def Fmt.signBit (f : Fmt) (neg : Bool) : Nat := if neg then 2 ^ (f.eb + f.mb) else 0

/-- EMIN = 1 − bias (R72). -/
def Fmt.emin (f : Fmt) : Int := 1 - (f.bias : Int)

/-- The five exception flags, in the order of FPXMASK: NV, FDZ, OF, UF, NX from bit 0 (R62). -/
abbrev FFlags := BitVec 5

def flagNV : FFlags := 1#5
def flagFDZ : FFlags := 2#5
def flagOF : FFlags := 4#5
def flagUF : FFlags := 8#5
def flagNX : FFlags := 16#5

/-- A floating-point value: a NaN (signalling or quiet), an infinity, or (−1)^neg × m × 2^e exactly. -/
inductive FVal where
  | nan (signalling : Bool)
  | inf (neg : Bool)
  | fin (neg : Bool) (m : Nat) (e : Int)
  deriving DecidableEq, Repr

def FVal.isNaN : FVal → Bool
  | .nan _ => true
  | _ => false

def FVal.isInf : FVal → Bool
  | .inf _ => true
  | _ => false

def FVal.isSig : FVal → Bool
  | .nan s => s
  | _ => false

def FVal.isZero : FVal → Bool
  | .fin _ m _ => m == 0
  | _ => false

def FVal.neg : FVal → FVal
  | .nan s => .nan s
  | .inf n => .inf (!n)
  | .fin n m e => .fin (!n) m e

def FVal.sign : FVal → Bool
  | .nan _ => false
  | .inf n => n
  | .fin n _ _ => n

/-- The value of a code of format `f` (R66, R67). -/
def Fmt.value (f : Fmt) (code : Nat) : FVal :=
  let neg := bitAt code (f.eb + f.mb)
  let ex := bits code (f.eb + f.mb - 1) f.mb
  let mant := code % 2 ^ f.mb
  if f.hasInf && ex == 2 ^ f.eb - 1 then
    if mant == 0 then .inf neg
    else .nan (f != .e5m2 && !bitAt mant (f.mb - 1))
  else if f == .e4m3 && code % 128 == 127 then .nan false
  else if ex == 0 then .fin neg mant (f.emin - f.mb)
  else .fin neg (2 ^ f.mb + mant) (f.emin + ex - 1 - f.mb)

/-- A subnormal operand reads as a zero of its sign when flushing (R74). -/
def Fmt.valueFtz (f : Fmt) (ftz : Bool) (code : Nat) : FVal :=
  match f.value code with
  | .fin n m e => if ftz && decide (m < 2 ^ f.mb) then .fin n 0 e else .fin n m e
  | v => v

/-- Rounding direction (R72): MD bits 1–0. -/
inductive RMode where
  | rn | rz | rp | rm
  deriving DecidableEq, Repr

def RMode.ofBits (n : Nat) : RMode :=
  match n % 4 with
  | 0 => .rn | 1 => .rz | 2 => .rp | _ => .rm

/-- Does a non-zero discarded part carry the magnitude one step up? `q` is the truncated magnitude, `r` the
remainder out of `d`. -/
def RMode.up (mode : RMode) (neg : Bool) (q r d : Nat) : Bool :=
  match mode with
  | .rn => decide (2 * r > d) || (decide (2 * r = d) && q % 2 == 1)
  | .rz => false
  | .rp => !neg && decide (r ≠ 0)
  | .rm => neg && decide (r ≠ 0)

/-- Result of overflow (Table 3.4, R73). -/
def Fmt.overflow (f : Fmt) (mode : RMode) (sat neg : Bool) : Nat :=
  let big := f.signBit neg + f.maxCode
  let inf := if f.hasInf then f.signBit neg + f.infCode else if f.hasNaN then f.nanCode else big
  if sat then big
  else match mode with
    | .rn => inf
    | .rz => big
    | .rp => if neg then big else inf
    | .rm => if neg then inf else big

/-- Round(x, fmt, mode) with the flags it raises (R72–R77). -/
def Fmt.round (f : Fmt) (mode : RMode) (ftz sat : Bool) (x : FVal) : Nat × FFlags :=
  match x with
  | .nan s => if f.hasNaN then (f.nanCode, if s then flagNV else 0#5) else (0, flagNV)
  | .inf n =>
    if f.hasInf then (f.signBit n + f.infCode, 0#5)
    else if f.hasNaN && !sat then (f.nanCode, flagNV)
    else (f.signBit n + f.maxCode, flagNV)
  | .fin neg m e =>
    if m = 0 then (f.signBit neg, 0#5)
    else
      let top : Int := (Nat.log2 m : Int) + e
      if ftz && decide (top < f.emin) then (f.signBit neg, flagUF ||| flagNX)
      else
        let e0 := max top f.emin
        let qe := e0 - f.mb
        let (q, r, d) : Nat × Nat × Nat :=
          if qe ≤ e then (m * 2 ^ (e - qe).toNat, 0, 1)
          else let d := 2 ^ (qe - e).toNat
               (m / d, m % d, d)
        let n := if mode.up neg q r d then q + 1 else q
        let code := (e0 - f.emin).toNat * 2 ^ f.mb + n
        if code > f.maxCode then (f.overflow mode sat neg, flagOF ||| flagNX)
        else
          let inexact := r != 0
          (f.signBit neg + code,
            if inexact then (if decide (top < f.emin) then flagUF ||| flagNX else flagNX) else 0#5)

/-- One rounded result: its code, the flags raised, and what it feeds the counters of R82. -/
structure FRes where
  code : Nat
  flags : FFlags
  nan : Bool
  inf : Bool
  deriving DecidableEq, Repr

/-- The rounded result of an operation whose exact value is `x`, with `extra` flags of its own, given whether an
operand was a NaN or an infinity (R82). -/
def Fmt.result (f : Fmt) (mode : RMode) (ftz sat : Bool) (x : FVal) (extra : FFlags) (opNaN opInf : Bool) : FRes :=
  let (code, fl) := f.round mode ftz sat x
  let v := f.value code
  { code := code, flags := fl ||| extra, nan := v.isNaN && !opNaN, inf := v.isInf && !opInf }

/-- NV when some operand is a signalling NaN (R77). -/
def sigFlags (vs : List FVal) : FFlags := if vs.any FVal.isSig then flagNV else 0#5

/-- The exact product, with NV for 0 × ∞ (R77). -/
def FVal.mul : FVal → FVal → FVal × FFlags
  | .nan s, .nan t => (.nan (s || t), 0#5)
  | .nan s, _ => (.nan s, 0#5)
  | _, .nan s => (.nan s, 0#5)
  | .inf n, .inf k => (.inf (n != k), 0#5)
  | .inf n, .fin k m _ => if m = 0 then (.nan false, flagNV) else (.inf (n != k), 0#5)
  | .fin n m _, .inf k => if m = 0 then (.nan false, flagNV) else (.inf (n != k), 0#5)
  | .fin n a e, .fin k b g => (.fin (n != k) (a * b) (e + g), 0#5)

/-- The least exponent among the finite terms. -/
def minExp : List FVal → Int → Int
  | [], acc => acc
  | .fin _ _ e :: rest, acc => minExp rest (min e acc)
  | _ :: rest, acc => minExp rest acc

/-- The exact sum of the finite terms, in units of 2^u. -/
def sumUnits (u : Int) : List FVal → Int
  | [] => 0
  | .fin n m e :: rest =>
    (if n then -((m * 2 ^ (e - u).toNat : Nat) : Int) else ((m * 2 ^ (e - u).toNat : Nat) : Int)) + sumUnits u rest
  | _ :: rest => sumUnits u rest

/-- The exact sum of terms (R78), with NV for infinities of both signs. The direction sets the sign of an exact
zero sum of non-zero terms. -/
def FVal.sum (mode : RMode) (ts : List FVal) : FVal × FFlags :=
  let pinf := ts.any (fun t => t == .inf false)
  let ninf := ts.any (fun t => t == .inf true)
  let nv := if pinf && ninf then flagNV else 0#5
  if ts.any FVal.isNaN then (.nan (ts.any FVal.isSig), nv)
  else if pinf && ninf then (.nan false, nv)
  else if pinf then (.inf false, 0#5)
  else if ninf then (.inf true, 0#5)
  else
    let u := minExp ts 0
    let s := sumUnits u ts
    if s = 0 then
      if ts.all FVal.isZero then (.fin (ts.all FVal.sign) 0 u, 0#5)
      else (.fin (mode == .rm) 0 u, 0#5)
    else (.fin (decide (s < 0)) s.natAbs u, 0#5)

/-- a / b to more bits than any format keeps; a non-zero remainder leaves an odd last bit, so Round decides as on
the exact quotient. FDZ for a finite non-zero value over zero; NV for 0 / 0 and ∞ / ∞ (R77, R109). -/
def FVal.div : FVal → FVal → FVal × FFlags
  | .nan s, .nan t => (.nan (s || t), 0#5)
  | .nan s, _ => (.nan s, 0#5)
  | _, .nan s => (.nan s, 0#5)
  | .inf _, .inf _ => (.nan false, flagNV)
  | .inf n, .fin k _ _ => (.inf (n != k), 0#5)
  | .fin n _ e, .inf k => (.fin (n != k) 0 e, 0#5)
  | .fin n a e, .fin k b g =>
    if b = 0 then (if a = 0 then (.nan false, flagNV) else (.inf (n != k), flagFDZ))
    else if a = 0 then (.fin (n != k) 0 0, 0#5)
    else
      let sh := 70 + bitLen b
      let q := a * 2 ^ sh / b
      let r := a * 2 ^ sh % b
      (.fin (n != k) (2 * q + (if r = 0 then 0 else 1)) (e - g - sh - 1), 0#5)

/-- The integer square root of n below 2^(2k), by bits from the top. -/
def isqrt : Nat → Nat → Nat → Nat
  | 0, _, acc => acc
  | k + 1, n, acc => if (acc + 2 ^ k) * (acc + 2 ^ k) ≤ n then isqrt k n (acc + 2 ^ k) else isqrt k n acc

/-- The square root, with an odd last bit where it is not exact; NV below −0 (R109). -/
def FVal.sqrt : FVal → FVal × FFlags
  | .nan s => (.nan s, 0#5)
  | .inf n => if n then (.nan false, flagNV) else (.inf false, 0#5)
  | .fin n m e =>
    if m = 0 then (.fin n 0 0, 0#5)
    else if n then (.nan false, flagNV)
    else
      let (m1, e1) := if e % 2 = 0 then (m, e) else (2 * m, e - 1)
      let big := m1 * 2 ^ 80
      let r := isqrt (bitLen big / 2 + 1) big 0
      (.fin false (2 * r + (if r * r = big then 0 else 1)) (e1 / 2 - 40 - 1), 0#5)

/-- Signed comparison of two values that are not NaNs, −0 equal to +0: −1, 0 or 1. -/
def FVal.cmp (a b : FVal) : Int :=
  let rank : FVal → Int := fun v =>
    match v with
    | .inf n => if n then -2 else 2
    | .fin n m _ => if m = 0 then 0 else if n then -1 else 1
    | .nan _ => 0
  match a, b with
  | .fin n m e, .fin k p g =>
    let u := min e g
    let x := sumUnits u [.fin n m e]
    let y := sumUnits u [.fin k p g]
    if x < y then -1 else if x = y then 0 else 1
  | _, _ => if rank a < rank b then -1 else if rank a = rank b then 0 else 1

/-- a is below b with −0 ordered below +0 (R110). -/
def FVal.below (a b : FVal) : Bool :=
  match a.cmp b with
  | 0 => a.sign && !b.sign
  | c => decide (c < 0)

/-- A finite value rounded to an integer in direction `mode`, and whether it was exact (R76, R113). -/
def roundInt (mode : RMode) (neg : Bool) (m : Nat) (e : Int) : Int × Bool :=
  if 0 ≤ e then
    let v : Int := ((m * 2 ^ e.toNat : Nat) : Int)
    (if neg then -v else v, true)
  else
    let d := 2 ^ (-e).toNat
    let q := m / d
    let r := m % d
    let n : Int := ((if mode.up neg q r d then q + 1 else q : Nat) : Int)
    (if neg then -n else n, r == 0)

/-- Conversion to an integer type with bounds lo..hi: NaN gives 0, out of range the nearer bound, both with NV;
NX where a finite value's result differs from it, clamped or rounded (R76, R77) (DEDUCED for an infinity, log 62). -/
def FVal.toInt (mode : RMode) (lo hi : Int) : FVal → Int × FFlags
  | .nan _ => (0, flagNV)
  | .inf n => (if n then lo else hi, flagNV)
  | .fin n m e =>
    let (v, exact) := roundInt mode n m e
    if v < lo then (lo, flagNV ||| flagNX)
    else if hi < v then (hi, flagNV ||| flagNX)
    else (v, if exact then 0#5 else flagNX)

/-- An exact integer as a value; zero is +0. -/
def FVal.ofInt (x : Int) : FVal := .fin (decide (x < 0)) x.natAbs 0

/-- The value of an E8M0 scale (R68). -/
def e8m0Value (code : Nat) : FVal := if code % 256 = 255 then .nan false else .fin false 1 ((code % 256 : Nat) - 127)

end Sys2Proof.Machine
end

