-- ==== Sys2Proof/Machine/Map.lean ====
section
/-! DEFINITION. Finite maps as plain lists of key and value pairs, keys strictly rising. `AMap` may lack a key;
`Sparse` reads a default at every key it does not list and never lists that default, so that equal maps are equal
lists. Memory (bytes by physical address) is a `Sparse`. -/

namespace Sys2Proof.Machine

/-- A map from natural numbers, as a list whose keys rise strictly. -/
abbrev AMap (α : Type) := List (Nat × α)

/-- A map that reads a default at every key it does not list. -/
abbrev Sparse (α : Type) := List (Nat × α)

/-- The value stored at key `k`, if one is. -/
def AMap.find {α : Type} (k : Nat) : AMap α → Option α
  | [] => none
  | (a, x) :: rest => if a = k then some x else AMap.find k rest

/-- Store `x` at key `k`, in place. -/
def AMap.put {α : Type} (k : Nat) (x : α) : AMap α → AMap α
  | [] => [(k, x)]
  | (a, y) :: rest =>
    if k < a then (k, x) :: (a, y) :: rest
    else if a = k then (k, x) :: rest
    else (a, y) :: AMap.put k x rest

/-- Remove key `k`. -/
def AMap.del {α : Type} (k : Nat) : AMap α → AMap α
  | [] => []
  | (a, y) :: rest => if a = k then AMap.del k rest else (a, y) :: AMap.del k rest

/-- Apply `f` to the value at key `k`, when there is one. -/
def AMap.adj {α : Type} (k : Nat) (f : α → α) (m : AMap α) : AMap α :=
  match AMap.find k m with
  | none => m
  | some x => AMap.put k (f x) m

/-- The values in key order. -/
def AMap.vals {α : Type} (m : AMap α) : List α := m.map Prod.snd

/-- Read key `k`, or the default. -/
def Sparse.get {α : Type} (dflt : α) (m : Sparse α) (k : Nat) : α := (AMap.find k m).getD dflt

/-- Write key `k`; writing the default removes the entry. -/
def Sparse.set {α : Type} [DecidableEq α] (dflt : α) (m : Sparse α) (k : Nat) (x : α) : Sparse α :=
  if x = dflt then AMap.del k m else AMap.put k x m

/-- The keys rise strictly. -/
def keysRise {α : Type} : List (Nat × α) → Bool
  | [] => true
  | [_] => true
  | (a, _) :: (b, y) :: rest => decide (a < b) && keysRise ((b, y) :: rest)

/-- The canonical form: keys strictly rising and no entry equal to the default. -/
def Sparse.wf {α : Type} [DecidableEq α] (dflt : α) (m : Sparse α) : Bool :=
  keysRise m && m.all (fun e => decide (e.2 ≠ dflt))

/-- n bytes of a byte map from key k, little-endian. -/
def bytesAt (m : Sparse Byte) : Nat → Nat → Nat
  | _, 0 => 0
  | k, n + 1 => (Sparse.get 0#8 m k).toNat + 256 * bytesAt m (k + 1) n

def putBytes (m : Sparse Byte) : Nat → Nat → Nat → Sparse Byte
  | _, 0, _ => m
  | k, n + 1, x => putBytes (Sparse.set 0#8 m k (BitVec.ofNat 8 x)) (k + 1) n (x / 256)

/-- The key of a cached 16-byte word: a partition's IA. -/
def l1Key (part ia : Nat) : Nat := 2 ^ 52 * part + ia / 16

end Sys2Proof.Machine
end

