-- ==== Sys2Proof/Machine/State.lean ====
section
/-! DEFINITION. The state of the machine as plain data: lanes and groups (ch. 03, 07), blocks and cohorts (09, 14),
cores and clusters, slices and links (15), memory and its marks (19), partitions, graphs, records and batches (20),
peers and collectives (22); the machine after reset; the reasons a step can stop. INVENTORY.md lists every piece with
its rule. Fields marked MODEL are the model's own and not the spec's. -/

namespace Sys2Proof.Machine

/-! ## Memory -/

/-- Stack memory, by physical address: bytes in canonical form. -/
abbrev Memory := List Host.Cell

/-- DESIGN CHOICE (log 2): what a byte of stack memory that nothing has written reads as. -/
def memDefault : Byte := 0#8

/-- The canonical form of memory: addresses rising, no entry equal to what an unlisted address reads as. -/
abbrev Memory.wf (m : Memory) : Bool := Sparse.wf memDefault m

/-! ## Lanes and groups -/

/-- One lane of a roster (R57–R62, R155, R184, R268). -/
structure Lane where
  stamp : BitVec 16
  hh : BitVec 8
  help : Bool
  /-- The lane status register (Table 3.2). -/
  lstat : BitVec 32
  /-- The held strict exception flags (R62). -/
  heldF : FFlags
  parked : Bool
  deriving DecidableEq, Repr

/-- The six paths (Table 9.3). -/
inductive Path where
  | ld | st | at | cp | mx | xc
  deriving DecidableEq, Repr

/-- Traffic classes and priority classes (R300): bulk 0, express 1, courier 2. Scopes (Table 16.1): 0 to 5. -/
abbrev Cls := Nat

/-- How far one lane's part of an operation has come. -/
inductive LaneSt where
  /-- waits for an earlier acquire, release condition or buffer room of its group -/
  | waiting
  /-- a request is on its way to the home slice or a port -/
  | sent
  /-- its access is performed; the value stands ready to be written -/
  | answered
  /-- its access met a fault of this kind; the core has not parked it yet -/
  | faulted (kind : Nat)
  /-- parked with a fault of this kind (R268) -/
  | parked (kind : Nat)
  /-- held behind an earlier parked access of its lane (R269) -/
  | held
  /-- written -/
  | done
  deriving DecidableEq, Repr

/-- One lane's part of an operation: what a replay needs (R269) and what came back. -/
structure LaneReq where
  lane : Nat
  va : Nat
  ia : Nat
  cap : Cls
  home : Nat
  data : Nat
  cmp : Nat
  /-- the value read; while the lane is parked by poison, the partition that owns the page (R358) -/
  val : Nat
  /-- the tag that came back; before, one more than the sequence number under which an atomic was sent, 0 for none (R399) -/
  tag : Nat
  st : LaneSt
  /-- it stands in its operation's unfinished mask (R268) -/
  unf : Bool
  deriving DecidableEq, Repr

/-- What an outstanding operation is, with what it needs at its completion. Destinations are the register numbers
from which results are written; `scalar` marks the scalar forms. -/
inductive OpKind where
  /-- VLD, SLD (R137) -/
  | load (scalar : Bool) (d : Nat)
  /-- VLDS: reads its window when it completes (R142) -/
  | scratchLoad (d : Nat)
  /-- SLDC: reads the data section when it completes (R145) -/
  | constLoad (d : Nat)
  /-- VLDW: the slots were read at issue (R143) -/
  | slotLoad (d : Nat)
  /-- VST, SST; `ack` writes tags from d (R139) -/
  | store (scalar : Bool) (d : Nat) (ack : Bool)
  /-- VSTS: writes the scratch window when it lands (R142) -/
  | scratchStore
  /-- VSTW: writes register slots when it lands (R143) -/
  | slotStore
  /-- EMIT (R380) -/
  | emit
  /-- VAMO, SAMO (R147) -/
  | atomic (scalar : Bool) (d : Nat) (op : AOp) (tagTo : Option Nat)
  /-- CPY and CPYT (R318): bytes per row, rows, pitches -/
  | copy (d : Nat) (dst src width rows srcPitch dstPitch : Nat) (code : Nat)
  /-- DISCARD -/
  | discard (d : Nat) (tensor : Nat) (code : Nat)
  /-- COLL (R409); `m` and `n` are this device's member index and the set's count -/
  | coll (d : Nat) (desc : Nat) (tag : Nat) (code : Nat)
  /-- ACPY (R258); the elements of a .st were read at issue -/
  | acpy (dirLd : Bool) (base row0 col0 pitch cv : Nat) (scr : Bool) (els : List Nat)
  /-- MOPA, MZERO, ALD, AST, AACC: done at issue, counted until complete -/
  | grid
  /-- LDSC (R255) -/
  | ldsc (d : Nat)
  /-- XPUT send and read (R287) -/
  | xput (read : Bool) (d : Nat)
  /-- CBAR with its token (R289) -/
  | cbar (token : Nat)
  deriving DecidableEq, Repr

/-- An outstanding operation (R220, R268, R269). -/
structure Op where
  id : Nat
  path : Path
  kind : OpKind
  stamp : Nat
  size : Nat
  cls : Cls
  /-- scope of its acquire and of its release side, 0 for none (R326, R327) -/
  acq : Nat
  rel : Nat
  /-- the group's tensor id when it issued (R311) -/
  tensor : Nat
  lanes : List LaneReq
  /-- the lanes it serves: those that take part, or the active lanes for a scalar access (R268, R271) -/
  serves : List Nat
  /-- how far an engine command or ACPY has come (R319, R258) -/
  progress : Nat
  /-- it has completed; it is counted until every older operation of its path has (R220) -/
  complete : Bool
  /-- it has parked, or moved with a split: a group parked whole awaits it (R270, R271) -/
  wasParked : Bool
  /-- its core's clock at issue, for the latency gauges (R315) -/
  issued : Nat
  deriving DecidableEq, Repr

/-- What a group waits for (R215). -/
inductive Wait where
  | ready
  | waitc (path : Path) (t : Nat)
  | bwait (point token : Nat)
  | fence (md : Nat) (upto : Nat)
  | tfence (upto : Nat)
  | grow (n : Nat)
  | shrink (n : Nat)
  | modeM
  | modeV (rel : Bool)
  | ending
  | bufferFull (op : Nat)
  deriving DecidableEq, Repr

/-- MODEL: the registers, lane status and predicates as they stood before a pair word, which both halves read (R51),
and which half runs. -/
structure Latch where
  half : Nat
  lanes : AMap Lane
  v : Sparse (BitVec 32)
  q : Sparse Bool
  s : Sparse (BitVec 64)
  deriving DecidableEq, Repr

/-- A group (R154–R182, R202, R220, R224). The six path counters are the numbers of its operations per path. -/
structure Group where
  block : Nat
  /-- %grp (R157) -/
  idx : Nat
  lanes : AMap Lane
  /-- vector registers, keyed 256 × lane + register -/
  v : Sparse (BitVec 32)
  /-- predicates q0–q6, keyed 8 × lane + number -/
  q : Sparse Bool
  /-- s0–s63 -/
  s : Sparse (BitVec 64)
  pc : Nat
  alloc : Nat
  sdov : Bool
  sdz : Bool
  strict : Bool
  split : Bool
  grid : Bool
  mtx : Bool
  intrap : Bool
  trapkind : BitVec 8
  trappc : BitVec 64
  trapinfo : BitVec 64
  reccnt : Nat
  fpxmask : BitVec 5
  tensor : Nat
  cls : Cls
  age : Nat
  bound : Nat
  wait : Wait
  /-- it waits after a seal (R34) -/
  sealDue : Bool
  ops : List Op
  /-- an unregistered arrival (point, token, first operation not awaited) (R226) -/
  arrivals : List (Nat × Nat × Nat)
  /-- a(g, p) by point (R224) -/
  arrNum : Sparse Nat
  /-- the cohort arrival number (R289) -/
  cohNum : Nat
  /-- the atomic sequence number (R305) -/
  atomSeq : BitVec 16
  /-- EFULL by stamp (R380) -/
  efull : Sparse Nat
  /-- parked sets whose course is due at the next word boundary (R270), and whether the group is parked whole -/
  courses : List (List Nat)
  parkedWhole : Bool
  /-- a split's copy runs, named by the group it forms; neither group issues (R271) -/
  copying : Option Nat
  /-- resident place on its core, 0–31 -/
  place : Nat
  inActive : Bool
  /-- its active slot, 0–7, while it is in the active set -/
  slot : Nat
  passCount : Nat
  /-- clock at which it took its active slot or became ready in the pending set (R216–R218) -/
  since : Nat
  promoted : Bool
  /-- clock before which it may not issue (R182, R271) -/
  notBefore : Nat
  /-- the granules charged for its registers, three for each sixteen from v0 up, each with whether it came from the
  block's growth reserve (R208, R211, R213, R271) -/
  grans : List (Nat × Bool)
  /-- the core has been told of a parked fetch: the group's next word faulted (R56). The partition whose REPLAY sends
  it again beside the group's own: a poisoned page's owner (R358) -/
  fetchPark : Option Nat
  /-- a commit point has been issued behind every operation numbered below this: their stores commit as they enter the
  buffer (R322, DEDUCED, log 68) -/
  commitTo : Nat
  /-- MODEL: write packets that it answers for beside its block's earlier ones: of the core's other blocks, read in L1 before
  they were performed (R326, R329), and of a commit point that came late for them (R322) -/
  seen : List Nat
  /-- it has ended without END and has only to report this status, once its stores stand at .pod (R279, R381) -/
  ended : Option Nat
  /-- MODEL: the operands of a pair word, latched before either half writes (R51) -/
  latch : Option Latch
  deriving DecidableEq, Repr

/-! ## Kernels, blocks and cohorts -/

/-- What a node and its kernel declare (Table 20.5, node table). -/
structure Node where
  kernel : Nat
  threshold : Nat
  quadPack : Bool
  cls : Cls
  strict : Bool
  groups : Nat
  blocks : Nat
  window : Nat
  recSize : Nat
  ports : Nat
  cycles : Nat
  regs : Nat
  scratch : Nat
  xbank : Nat
  grid : Bool
  /-- offset of the trap handler, if the kernel names one -/
  trap : Option Nat
  /-- where LOAD placed the kernel (R374) -/
  textIa : Nat
  textSize : Nat
  dataIa : Nat
  dataSize : Nat
  deriving DecidableEq, Repr

/-- An entry of a block's commit buffer (R138, R205, R287). -/
inductive BufEntry where
  /-- a store: IA, size, data, and what its packet needs -/
  | store (ia size data : Nat) (cls : Cls) (home tensor stamp gid op : Nat)
  /-- an XPUT send to block b of the cohort (R287) -/
  | send (b off size data gid op : Nat)
  deriving DecidableEq, Repr

/-- A rendezvous point (R224). -/
structure Point where
  phase : Nat
  expect : Nat
  count : Nat
  deriving DecidableEq, Repr

/-- A record (R375, Table 20.10). -/
structure Rec where
  stamp : Nat
  payload : List Byte
  bound : Nat
  solo : Bool
  cls : Cls
  arrival : Nat
  deriving DecidableEq, Repr

/-- What a pre-emption has made of a block (R273–R275). -/
inductive BlockMode where
  | running | draining | saving | saved
  deriving DecidableEq, Repr

/-- The grid's open AQ group (R252). -/
structure AqGroup where
  isOpen : Bool
  fw : Nat
  n : Nat
  /-- I(i, j) keyed 96 × i + j, and C(j) -/
  acc : Sparse Int
  col : Sparse Int
  deriving DecidableEq, Repr

/-- A block (R204). -/
structure Block where
  part : Nat
  graph : Nat
  nodeIdx : Nat
  node : Node
  core : Nat
  /-- %blk and the cohort it belongs to (R283) -/
  idx : Nat
  cohort : Nat
  /-- the stamps with a scratch window, in window order (R201), and the windows' bytes keyed W × index + offset -/
  windows : List Nat
  scratch : Sparse Byte
  points : Sparse Point
  buffer : List BufEntry
  bufUsed : Nat
  /-- which group holds the reserve token, and whether its split took it, so that it holds it until it ends (R213, R271) -/
  token : Option Nat
  tokenKept : Bool
  /-- which of the two banks is the front bank, and the banks' bytes keyed X × bank + offset (R285) -/
  front : Nat
  banks : Sparse Byte
  committed : Bool
  postmark : BitVec 8
  relaunches : Nat
  elapsed : Nat
  mode : BlockMode
  /-- REPLAY was written while the block was saved (R275) -/
  replayDue : Bool
  /-- the records of each group slot, for a relaunch (R277) -/
  records : List (List Rec)
  /-- groups launched and not ended (R224) -/
  counted : Nat
  /-- the granules charged for its scratch, commit buffer and shadow banks (R208, Table 9.1) -/
  grans : List Nat
  /-- the granules of its growth reserve that no group has drawn (R213) -/
  spare : List Nat
  /-- saved grid, open AQ group and accumulator tiles (R238) -/
  savedCells : Sparse (BitVec 32)
  savedValid : Sparse Bool
  savedAq : AqGroup
  /-- the bound under which it drains (R274), and the bounds of the requests that wait for a split to complete (R281) -/
  drainL : Nat
  asked : List Nat
  deriving DecidableEq, Repr

/-- A cohort (R283, R289). -/
structure Cohort where
  part : Nat
  cluster : Nat
  /-- its blocks by %blk -/
  blocks : List Nat
  phase : Nat
  expect : Nat
  count : Nat
  /-- sends on the cohort link: (source block, destination block, offset, size, data, operation) (R287) -/
  sends : List (Nat × Nat × Nat × Nat × Nat × Nat)
  deriving DecidableEq, Repr

/-- The four gauges of a unit, one (R315, Table 15.5). -/
structure Gauge where
  en : Bool
  src : Nat
  lo : Nat
  hi : Nat
  hist : Sparse Nat
  deriving DecidableEq, Repr

/-- A core (R205, R215, R235–R252, R324). -/
structure Core where
  /-- core clock since power-up, and %cyc (R157) -/
  clk : Nat
  cyc : BitVec 64
  /-- L1 by words of 16 bytes, keyed 2^52 × partition + IA / 16: which bytes it holds, and the bytes (R324) -/
  l1 : AMap (Nat × Nat)
  /-- range cache: (partition × 65536 + stamp), most recent first (R133), with the table as fetched -/
  ranges : List (Nat × List Nat)
  holder : Option Nat
  aq : AqGroup
  acc : Sparse (BitVec 32)
  valid : Sparse Bool
  pipeFree : List Nat
  gridFree : Nat
  portFree : Nat
  /-- clock from which its memory side takes requests again (R415) -/
  memFree : Nat
  replays : Nat
  /-- by class and age, the group last chosen among those equal in both (R216) -/
  lasts : List (Nat × Nat × Nat)
  /-- return predictor (R174), newest first: .text offsets; timing only, and of no stated depth (DESIGN CHOICE, log 8) -/
  returns : List Nat
  fenced : Bool
  gated : Bool
  gauges : AMap Gauge
  deriving DecidableEq, Repr

/-- What a cluster changes to: a tenure (R295), or a partition's turn (R368). -/
inductive Change where
  | tenure (stamp : Option Nat)
  | turn (part : Nat)
  deriving DecidableEq, Repr

/-- A cluster (R282, R295, R303). -/
structure Cluster where
  icache : AMap (BitVec 64)
  /-- the protected stamp it serves, as partition × 65536 + stamp; none: ordinary tenure -/
  tenure : Option Nat
  /-- the change in progress, until the clear sequence has run (R295, R368) -/
  changing : Option Change
  /-- when its tenure last changed, none before the first change (R378) -/
  lastChange : Option Nat
  /-- when the turn that it serves began (R368) -/
  turnStart : Nat
  /-- a clear's read-back found a bit set: reported to the postmaster (R296) -/
  reported : Bool
  /-- the partition whose turn a shared cluster serves, none before its first turn (R368) -/
  turn : Option Nat
  deriving DecidableEq, Repr

/-! ## The network -/

/-- A station of a die's quadrant, by its place on the quadrant's rings, clockwise: three cluster stations from 0, 20 slice
stations from 3, the memory station 23, the copy-engine station 24, the bridge to the next quadrant 25 and the bridge to the
one before 26 (Table 15.1 gives no order, DESIGN CHOICE, log 12). -/
structure Station where
  die : Nat
  quad : Nat
  place : Nat
  deriving DecidableEq, Repr

/-- A packet's message: what it asks of the home slice (R299, R310). -/
inductive Ask where
  | read
  /-- n bytes from an IA on, for the host or a peer -/
  | readBytes (n : Nat)
  | prefetch
  | write (n data : Nat) (ack : Bool)
  | atomic (op : AOp) (n : Nat) (xs : List (Nat × Nat)) (merged : Bool)
  /-- drop the partition's blocks of a tensor id in one slice (R312) -/
  | discard (t : Nat)
  deriving DecidableEq, Repr

/-- What the device itself accesses memory for (R372, R374, R381, R383, R407, R414). -/
inductive DevUse where
  /-- a range table that a command registers -/
  | table
  /-- what another command reads -/
  | data
  /-- what a command writes: a loaded graph, ATTEST's output -/
  | image
  /-- a completion record of a stamp -/
  | record (stamp : Nat)
  /-- a channel's destination, written by an engine -/
  | channel (id : Nat)
  deriving DecidableEq, Repr

/-- Who sent a request and where the answer goes. -/
inductive Source where
  | group (gid op : Nat) (lanes : List Nat)
  /-- a store of a commit (R322) -/
  | commit
  | host (tag : Nat)
  | peer (accel tag : Nat)
  /-- a unit that acts for a group's operation; operation 0 is the group's fetch (R135, R255, R258, R316) -/
  | engine (gid op : Nat)
  /-- the walker, for an entry of a walk (R349) -/
  | walk (wid : Nat)
  /-- a slice's access to its stack for a request, or its write-back, 0 (R300, R309) -/
  | stack (rid : Nat)
  /-- the device itself, for a command, a record or a channel -/
  | device (use : DevUse)
  /-- the fabric controller's message to a peer: READY (R408) -/
  | message (peer tag : Nat) (data : List Byte)
  deriving DecidableEq, Repr

/-- What a home slice or a peer answers: a line, an acknowledgement's tag with the old values of an atomic, or a fault
that the core is to park, with the owner of a poisoned page. -/
inductive Answer where
  | line (x : Nat)
  | values (tag : Nat) (l : List Nat)
  | fault (kind own : Nat)
  deriving DecidableEq, Repr

/-- Where a request stands. -/
inductive ReqSt where
  /-- on the way: in flits over the links still listed -/
  | transit
  /-- in the arrival queue of its home slice -/
  | arrived
  /-- awaiting a walk -/
  | walking (wid : Nat)
  /-- one half of a pair atomic is done (R341): which, its old value, and the translation it was made under -/
  | half (high : Bool) (old pa keyid : Nat)
  /-- held write (R416), with the key of the leaf that turned it away, 0 for none (R363) -/
  | heldWrite (key : Nat)
  /-- at a port for accelerator `d` at a peer address: queued, or sent at that tick (R397, R402) -/
  | atPeer (d : Nat) (pa : Nat) (epoch : BitVec 8) (sentAt : Option Nat)
  /-- the answer to a unit's read stands at the unit, which has not yet taken it -/
  | unitData (data : Nat)
  /-- performed: its answer is on the way back to the core (R297, R299) -/
  | back (a : Answer)
  deriving DecidableEq, Repr

/-- An entry of the fault buffer (Table 19.7). -/
structure FaultRec where
  serial : BitVec 32
  dup : Nat
  sect : Nat
  lane : Nat
  group : Nat
  core : Nat
  part : Nat
  stamp : Nat
  access : Nat
  kind : Nat
  page : Nat
  deriving DecidableEq, Repr

/-- A request packet (R299, R305, R309). -/
structure Req where
  ask : Ask
  src : Source
  part : Nat
  ppm : BitVec 8
  ia : Nat
  home : Nat
  cls : Cls
  stamp : Nat
  tensor : Nat
  block : Nat
  postmark : BitVec 8
  seq : BitVec 16
  core : Nat
  /-- the links it has still to cross (R298) -/
  hops : List LinkId
  st : ReqSt
  since : Nat
  /-- its place in the order of arrival at its home slice, 0 on the way (R309) -/
  arrival : Nat
  /-- the byte mask of a peer's partial write; empty: every byte (Table 22.1) -/
  mask : List Bool := []
  /-- the station that sent it (R297); a request from outside enters at its slice -/
  from_ : Station := { die := 0, quad := 0, place := 0 }
  /-- the lines, by PA / 128, that the stack has given its slice for it (R309, R345) -/
  fed : List Nat := []
  /-- a request from outside: its granules that failed, with their records (R371) -/
  bads : List (Nat × FaultRec) := []
  /-- a unit's read: the bytes that its block's buffer held when it left, a mask and the bytes (R324) -/
  laid : Nat × Nat := (0, 0)
  /-- at a peer, which takes it part by part: the bytes done, and what they have given (Table 22.1) -/
  done : Nat := 0
  got : Nat := 0
  /-- a held write: the kind of its fault (R416) -/
  kind : Nat := 0
  deriving DecidableEq, Repr

/-- A flit on a link (R299, Table 15.2). -/
structure Flit where
  rid : Nat
  seq : BitVec 8
  part : Nat
  cls : Cls
  ppm : BitVec 8
  first : Bool
  last : Bool
  /-- CRC-32 over payload and sideband (R299): the layout of a packet's header is not given, so its value is free (log 10) -/
  crc : BitVec 32
  deriving DecidableEq, Repr

/-- One link's transmitter and receiver (R300–R306, R361, R362). -/
structure Link where
  /-- slot of the frame now beginning (R306) -/
  slot : Nat
  /-- packets ready by order of arrival, with the number of flits still to send -/
  ready : List (Nat × Nat)
  /-- packets in progress: request, flits sent, flits in all -/
  progress : List (Nat × Nat × Nat)
  retry : List Flit
  nextSeq : BitVec 8
  /-- flits that a resend sends again, each in a slot of its partition (R304) -/
  again : List Flit
  wire : List Flit
  /-- receiver: expected SEQ, a resend is asked for, contexts (request, flits gathered) -/
  expect : BitVec 8
  resend : Option (BitVec 8)
  contexts : AMap (Nat × Nat)
  fails : Nat
  retraining : Bool
  /-- the last classes sent in a partition's slots, newest first, with which classes were ready (R302) -/
  history : AMap (List (Nat × Bool × Bool))
  /-- destinations of a port that grant no credits now (R400) -/
  stalled : List Nat
  rekeying : Bool
  key : BitVec 128
  txCount : BitVec 64
  rxCount : BitVec 64
  tagFails : Nat
  deriving DecidableEq, Repr

/-- A block of the second-level cache: one 16-byte word of a line (R309, R311, R359, DESIGN CHOICE, log 11). -/
structure L2Block where
  data : Nat
  /-- the bytes that it holds, and those that memory lacks, as 16-bit masks (R309) -/
  valid : Nat
  dirty : Nat
  tensor : Nat
  keyid : Nat
  pa : Nat
  /-- the slice that holds it, and its way there (R309, R313) -/
  slice : Nat
  way : Nat
  /-- its sector's mark as the cache holds it (R357) -/
  poison : Bool
  deriving DecidableEq, Repr

/-- The last atomic a slice performed for a group's incarnation, with its response: old values and tag (R305). -/
structure Filter where
  slice : Nat
  gid : Nat
  postmark : BitVec 8
  last : BitVec 16
  vals : List Nat
  tag : Nat
  deriving DecidableEq, Repr

/-- A translation held by a TLB (R350). `slice` none: the quadrant's. -/
structure TlbEntry where
  quad : Nat
  slice : Option Nat
  part : Nat
  gran : Nat
  pa : Nat
  r : Bool
  w : Bool
  x : Bool
  keyid : Nat
  d : Bool
  guests : List Nat
  deriving DecidableEq, Repr

/-- What a walk found (R350). -/
inductive WalkRes where
  | fault (kind : Nat)
  | poisoned (pa : Nat)
  /-- the translation, the stage-1 leaf's value, and every leaf used: address, value as read, whether it maps the access -/
  | leaf (entry : TlbEntry) (e1 : Nat) (leaves : List (Nat × Nat × Bool))
  /-- the PA names host memory: ATS decides (R370) -/
  | host (entry : TlbEntry)
  deriving DecidableEq, Repr

/-- How far a walk has come (R350). -/
inductive WalkSt where
  /-- the entries read so far, by PA -/
  | reading (seen : List (Nat × Answer))
  /-- what it found, until it ends -/
  | found (res : WalkRes)
  /-- its leaves have A and D set one after another: those that remain -/
  | swapping (entry : TlbEntry) (e1 : Nat) (left : List (Nat × Nat × Bool)) (write : Bool)
  deriving DecidableEq, Repr

/-- A walk in progress (R350, R352). -/
structure Walk where
  quad : Nat
  slice : Nat
  part : Nat
  ia : Nat
  /-- the class of its own packets: that of the request that began it (DESIGN CHOICE, log 88) -/
  cls : Cls
  gen : Nat
  started : Nat
  restarts : Nat
  st : WalkSt
  deriving DecidableEq, Repr

/-- An invalidation not yet done (R352). -/
structure Inval where
  /-- none: a write of a translation register (R348), which no serial counts -/
  serial : Option (BitVec 32)
  /-- the TLBICMD value that says what it covers -/
  cmd : Nat
  /-- the quadrants in which a walk on its fifth start holds it back -/
  held : List Nat
  /-- walks older than the increment, each with the generation it then ran under -/
  waits : List (Nat × Nat)
  deriving DecidableEq, Repr

/-! ## Partitions -/

/-- A registered stamp (R372, R381). -/
structure StampReg where
  table : Nat
  cls : Cls
  hh : Nat
  prot : Bool
  context : Nat
  ring : Nat
  logSize : Nat
  serial : Nat
  /-- the descriptors as registered: four words each (Table 6.2) -/
  descs : List Nat
  /-- an invalidation in flight: the table being replaced (R133) -/
  oldTable : Option (List Nat)
  deriving DecidableEq, Repr

/-- An edge of a graph (Table 20.5). -/
structure Edge where
  src : Nat
  port : Nat
  dst : Nat
  deriving DecidableEq, Repr

/-- A loaded graph (R373, R374). -/
structure Graph where
  nodes : List Node
  edges : List Edge
  firstSlot : Nat
  /-- memory placed for it: (IA, bytes) -/
  placed : List (Nat × Nat)
  unloading : Bool
  /-- the sacks: records waiting, by node (R374) -/
  sacks : AMap (List Rec)
  deriving DecidableEq, Repr

/-- An open or ready batch (R375–R377): group slots in order, block by block. -/
structure Batch where
  graph : Nat
  node : Nat
  cls : Cls
  prot : Option Nat
  slots : List (List Rec)
  /-- slots closed to further records (R375) -/
  closedSlots : List Nat
  opened : Nat
  closed : Bool
  readyAt : Nat
  relaunch : Nat
  /-- records of a killed cohort: they stand at the head of their node's ready batches (R277) -/
  killed : Bool
  postmark : BitVec 8
  /-- a relaunch after an error goes to another cluster (R279) -/
  avoid : Option Nat
  deriving DecidableEq, Repr

/-- A started command of a channel (R383), which an engine serves (R319). -/
structure ChanOp where
  /-- its place in the engine's order of arrival (R316) -/
  id : Nat
  host : Nat
  dst : Nat
  len : Nat
  counter : Nat
  /-- the ciphertext that the engine has read -/
  text : List Byte
  /-- the status with which it ends once its writes are acknowledged -/
  closing : Option Nat
  deriving DecidableEq, Repr

/-- A channel (R383): its started commands, oldest first. -/
structure Channel where
  owner : Nat
  key : Nat
  last : Nat
  cmds : List ChanOp
  deriving DecidableEq, Repr

/-- A collective this device runs (R408). -/
structure Collective where
  gid : Nat
  op : Nat
  started : Nat
  /-- its descriptor, as checked (R409) -/
  desc : Nat
  deriving DecidableEq, Repr

/-- A completion record that waits until the stores it covers stand at .pod (R381). -/
structure Report where
  gid : Nat
  part : Nat
  block : Nat
  /-- it covers the block's packets sent before this id -/
  upto : Nat
  stamp : Nat
  node : Nat
  status : Nat
  lstat : Nat
  trapkind : Nat
  lanes : Nat
  efull : Nat
  aux : Nat
  deriving DecidableEq, Repr

/-- A record port's slot (R382). -/
structure PortSlot where
  bytes : List Byte
  status : Nat
  deriving DecidableEq, Repr

/-- A partition command in progress (R372): its code, arguments, result code and value once known. -/
structure Cmd where
  code : Nat
  result : Nat
  value : Nat
  args : List (BitVec 64)
  /-- what it has still to await is known, with the result and the value that it then ends with -/
  ended : Option (Nat × Nat) := none
  /-- the graph that LOAD has placed, which takes records from the command's end on (R374) -/
  graph : Option Graph := none
  deriving DecidableEq, Repr

/-- A write of the host that is applied after the posted writes that its function sent before it (R382, R387). -/
inductive HostWrite where
  | replay
  /-- with the serial that the write has taken (R352) -/
  | tlbi (val : BitVec 64) (serial : BitVec 32)
  /-- a submit word of a port's slot, with the payload as it then stood -/
  | submit (stamp slot word : Nat) (payload : List Byte)
  deriving DecidableEq, Repr

/-- A partition (R365–R384, R401). -/
structure Partition where
  /-- the map entry, 128 words (Tables 20.1, 20.13) -/
  map : List (BitVec 64)
  ttb1 : BitVec 64
  ttb2 : BitVec 64
  tlbicmd : BitVec 64
  issued : BitVec 32
  tlbiDone : BitVec 32
  invals : List Inval
  serial : BitVec 32
  drops : Nat
  dropped : Bool
  faults : List FaultRec
  xthr : BitVec 64
  xarm : List (BitVec 64)
  quarantined : Sparse Bool
  peerin : List (BitVec 64)
  late : Nat
  trips : Nat
  epochs : Sparse (BitVec 8)
  parg : List (BitVec 64)
  pcmd : BitVec 64
  pstat : BitVec 64
  cmd : Option Cmd
  stamps : AMap StampReg
  graphs : AMap Graph
  /-- exception counters keyed 32 × slot + 4 × format + kind; EMITLOST by slot (R384) -/
  counters : Sparse Nat
  emitlost : Sparse Nat
  batches : AMap Batch
  channels : AMap Channel
  sets : AMap (List Nat × Nat)
  colls : AMap Collective
  /-- READY messages that have come: set and tag, and the member (R408) -/
  readies : List (Nat × Nat)
  /-- record port slots keyed 32 × stamp + slot -/
  ports : AMap PortSlot
  tdiRun : Bool
  /-- raised interrupts, oldest first (DESIGN CHOICE, log 46) -/
  irqs : List Nat
  /-- (station, class) flits used in this quota period, keyed 4 × station + class (R303) -/
  quota : Sparse Nat
  /-- the time at which a running ATTEST began (R414) -/
  attest : Option Nat
  /-- ways being swept (R313), and the packet id before which the sweep's write-backs are awaited, 0 while blocks stand there -/
  sweeping : BitVec 16
  sweepTo : Nat
  /-- writes that wait for earlier posted writes, oldest first, each with the id from which on requests came later (R382,
  R387); a REPLAY waits for a split's copy too (R281) -/
  behind : List (Nat × HostWrite)
  /-- the size of its IA window in bytes (Table 20.2) -/
  bar4 : Nat
  deriving DecidableEq, Repr

/-- A memory key slot (R360, R363). -/
structure KeySlot where
  part : Nat
  context : Option Nat
  revoked : Bool
  value : BitVec 512
  deriving DecidableEq, Repr

/-- The value that an uncorrectable error has spoilt (R279). -/
inductive Hurt where
  /-- a register or scratch byte of a lane's stamp -/
  | lane (j : Nat)
  /-- the grid or the accumulator store -/
  | grid
  /-- the commit buffer or other block state -/
  | block
  /-- the block's image in the save area, met by its save or resume (R278) -/
  | save
  deriving DecidableEq, Repr

/-- What waits to move next (MODEL): a row of the opcode table that happens, a core's clock, or one of the machine's
own moves that no row names. -/
inductive Pending where
  /-- an event or a write from outside happens -/
  | event (i : Instr)
  /-- one arithmetic clock of a core -/
  | clock (core : Nat)
  /-- a core's memory side takes no requests for n clocks (R415) -/
  | memBusy (core n : Nat)
  /-- network clock ticks pass (0.4 ns each) -/
  | tick (n : Nat)
  /-- a second-level cache block leaves, written back when dirty (R309) -/
  | writeBack (part word : Nat)
  /-- a core's L1 gives up a word (R208) -/
  | l1Drop (core key : Nat)
  /-- a TLB gives up a translation -/
  | tlbDrop (n : Nat)
  /-- the host stores to its own memory, which the device reaches by ATS (R370) -/
  | hostStore (pa : Nat) (data : List Byte)
  /-- a send on a cohort's link lands: the oldest of the XPUT to which the n-th belongs (R287) -/
  | sendLands (cohort n : Nat)
  /-- a destination of a port grants credits again, or none (R400) -/
  | credits (port dest : Nat) (granted : Bool)
  /-- an engine serves the next burst of its oldest command (R316) -/
  | engineBurst (gid op : Nat)
  /-- an instruction cache gives up a word -/
  | icacheDrop (cluster key : Nat)
  /-- the boot ROM and the firmware take their next step (R385) -/
  | boot
  /-- a copy engine reads the next bytes of a channel's oldest command from the host and decrypts them (R383) -/
  | channelRead (part chan : Nat) (data : List Byte)
  /-- a group consumes an uncorrectable error (R279) -/
  | consume (gid : Nat) (what : Hurt)
  /-- a Larua completer's answer for a host request is read (what the outside sees) -/
  | takeReply
  deriving DecidableEq, Repr

/-- What the outside reads: an answer of the device to the host or a peer. -/
structure Reply where
  toPeer : Option Nat
  tag : Nat
  data : List Byte
  /-- Completer Abort, and Unsupported Request (R369) -/
  abort : Bool
  unsupported : Bool := false
  /-- the class of the request it answers (R398) -/
  cls : Cls := 0
  deriving DecidableEq, Repr

/-- The whole machine. -/
structure State where
  cores : AMap Core
  clusters : AMap Cluster
  groups : AMap Group
  blocks : AMap Block
  cohorts : AMap Cohort
  parts : AMap Partition
  mem : Memory
  /-- poison marks by PA / 32 (R357) -/
  poison : Sparse Bool
  /-- sequence counts by PA / 128 (R310) -/
  seqs : Sparse (BitVec 32)
  /-- MODEL: how a 64-byte granule stands, by PA / 64: 0 the bytes stored, 1 zero-filled (R372), 2 free (log 17) -/
  keyTags : Sparse Nat
  keys : AMap KeySlot
  /-- L2 blocks keyed 2^52 × partition + IA / 16 -/
  l2 : AMap L2Block
  tlb : List TlbEntry
  walks : AMap Walk
  /-- walker generation by quadrant, and restarts held (R352) -/
  gens : Sparse Nat
  reqs : AMap Req
  links : List (LinkId × Link)
  filter : List Filter
  keydrop : Sparse Nat
  /-- page requests sent to the host, as partition and IA granule (R370) -/
  pri : List (Nat × Nat)
  demoted : Sparse Nat
  sliceGauges : AMap (AMap Gauge)
  /-- key sweeps running (R363): the key, and the packet id before which write-backs are awaited, 0 without flush -/
  revoking : List (Nat × Nat)
  replies : List Reply
  /-- completion records of groups that have ended, oldest first (R381) -/
  reports : List Report
  /-- the remap table (R365): units left out of every dense numbering: core n at n, slice k at 1000 + k, engine e at
  2000 + e, stack t at 3000 + t -/
  dead : Sparse Bool
  fwctl : BitVec 64
  fwstat : BitVec 64
  powlim : BitVec 64
  ftmo : BitVec 64
  measurement : List Byte
  staging : List Byte
  station : BitVec 32
  identity : List Byte
  /-- MODEL: what moves next, the issuing group, the core whose clock comes when nothing is pending, counters -/
  agenda : List Pending
  cur : Option Nat
  turn : Nat
  nextId : Nat
  freeTick : Nat
  netClock : Nat
  deriving DecidableEq, Repr

/-- Why the machine can stop with a fault. -/
inductive Fault where
  /-- raised by exec of an instruction when no group is issuing: exec is not reached so from step. Safe: the hardware
  never executes an instruction without a group. -/
  | noGroup
  deriving DecidableEq, Repr

/-- Why the model can have no meaning for a step. -/
inductive Refusal where
  /-- raised by the dispatch of an instruction that has no meaning yet. Safe: nothing is claimed. -/
  | notModelled (mnemonic : String)
  deriving DecidableEq, Repr

/-! ## Reset -/

/-- A partition before the postmaster has created one (Tables 19.3, 19.4, 19.9, 20.1, 22.2, R384). -/
def Partition.reset : Partition :=
  { map := List.replicate 128 0#64, ttb1 := 0#64, ttb2 := 0#64, tlbicmd := 0#64, issued := 0#32, tlbiDone := 0#32,
    invals := [], serial := 0#32, drops := 0, dropped := false, faults := [], xthr := 0#64,
    xarm := List.replicate 16 (BitVec.allOnes 64), quarantined := [], peerin := List.replicate 16 0#64, late := 0,
    trips := 0, epochs := [], parg := List.replicate 6 0#64, pcmd := 0#64, pstat := 0#64, cmd := none, stamps := [],
    graphs := [], counters := [], emitlost := [], batches := [], channels := [], sets := [], colls := [], readies := [], ports := [],
    tdiRun := false, irqs := [], quota := [], attest := none, sweeping := 0#16, sweepTo := 0, behind := [], bar4 := 2 ^ 36 }

/-- A core after power-up: %cyc reads 0 (R157), nothing resident. -/
def Core.reset : Core :=
  { clk := 0, cyc := 0#64, l1 := [], ranges := [], holder := none,
    aq := { isOpen := false, fw := 0, n := 0, acc := [], col := [] }, acc := [], valid := [], pipeFree := [0, 0],
    gridFree := 0, portFree := 0, memFree := 0, replays := 0, lasts := [], returns := [], fenced := false, gated := false, gauges := [] }

/-- A cluster after power-up: ordinary tenure (R295). -/
def Cluster.reset : Cluster :=
  { icache := [], tenure := none, changing := none, lastChange := none, turnStart := 0, reported := false, turn := none }

/-- A gauge at reset (Table 15.5). -/
def Gauge.reset : Gauge := { en := false, src := 0, lo := 0xFFFFFFFF, hi := 0, hist := [] }

/-- A link at reset: slot 0, nothing in flight (DESIGN CHOICE, log 6). -/
def Link.reset : Link :=
  { slot := 0, ready := [], progress := [], retry := [], nextSeq := 0#8, again := [], wire := [], expect := 0#8, resend := none,
    contexts := [], fails := 0, retraining := false, history := [], stalled := [], rekeying := false, key := 0#128, txCount := 0#64,
    rxCount := 0#64, tagFails := 0 }

/-- Keys 0 to n − 1, each at the value `x`. -/
def allAt {α : Type} (x : α) (n : Nat) : AMap α := (List.range n).map (fun i => (i, x))

/-- The machine right after power-up (R385): 384 cores, 96 clusters, 8 partitions that do not exist, nothing resident,
nothing in memory, FWSTAT waiting. -/
def State.reset : State :=
  { cores := [], clusters := [], groups := [], blocks := [], cohorts := [],
    parts := [], mem := [], poison := [], seqs := [], keyTags := [], keys := [], l2 := [],
    tlb := [], walks := [], gens := [], reqs := [], links := [], filter := [], keydrop := [], pri := [], demoted := [],
    sliceGauges := [], revoking := [], replies := [], reports := [], dead := [], fwctl := 0#64, fwstat := 0#64,
    powlim := 5200#64, ftmo := 200#64, measurement := List.replicate 64 0#8, staging := [], station := 0#32,
    identity := [], agenda := [], cur := none, turn := 0, nextId := 1, freeTick := 0, netClock := 0 }

end Sys2Proof.Machine
end

