-- ==== Sys2Proof/Machine/Operands.lean ====
section
/-! DEFINITION. Registers of a group read and written, specials, and every operand form (R44, R45, R59, R157, R158,
R185, R186): one operation for each way an instruction names a value. -/

namespace Sys2Proof.Machine

/-! ## Units by number -/

/-- Core n (physical number 4 × cluster + k). -/
def State.core (s : State) (n : Nat) : Core := (AMap.find n s.cores).getD Core.reset

def State.cluster (s : State) (n : Nat) : Cluster := (AMap.find n s.clusters).getD Cluster.reset

def State.part (s : State) (p : Nat) : Partition := (AMap.find p s.parts).getD Partition.reset

def State.setCore (s : State) (n : Nat) (c : Core) : State := { s with cores := AMap.put n c s.cores }

def State.setCluster (s : State) (n : Nat) (c : Cluster) : State := { s with clusters := AMap.put n c s.clusters }

def State.setPart (s : State) (p : Nat) (x : Partition) : State := { s with parts := AMap.put p x s.parts }

def State.setGroup (s : State) (gid : Nat) (g : Group) : State := { s with groups := AMap.put gid g s.groups }

def State.setBlock (s : State) (b : Nat) (x : Block) : State := { s with blocks := AMap.put b x s.blocks }

def State.setCohort (s : State) (c : Nat) (x : Cohort) : State := { s with cohorts := AMap.put c x s.cohorts }

def State.adjGroup (s : State) (gid : Nat) (f : Group → Group) : State := { s with groups := AMap.adj gid f s.groups }

def State.adjBlock (s : State) (b : Nat) (f : Block → Block) : State := { s with blocks := AMap.adj b f s.blocks }

/-! ## Registers. A pair word's halves read the latch and write the group (R51). -/

def Group.rv (g : Group) : Sparse (BitVec 32) :=
  match g.latch with
  | some l => l.v
  | none => g.v

def Group.rq (g : Group) : Sparse Bool :=
  match g.latch with
  | some l => l.q
  | none => g.q

def Group.rs (g : Group) : Sparse (BitVec 64) :=
  match g.latch with
  | some l => l.s
  | none => g.s

def Group.rlanes (g : Group) : AMap Lane :=
  match g.latch with
  | some l => l.lanes
  | none => g.lanes

/-- Register v(r) of lane j. -/
def Group.getV (g : Group) (j r : Nat) : Nat := (Sparse.get 0#32 g.rv (256 * j + r)).toNat

/-- Predicate q(n) of lane j; q7 is always 1 (R57). -/
def Group.getQ (g : Group) (j n : Nat) : Bool := decide (n = 7) || Sparse.get false g.rq (8 * j + n)

/-- Scalar register s(n) (R161). -/
def Group.getS (g : Group) (n : Nat) : Nat := (Sparse.get 0#64 g.rs n).toNat

def Group.setV (g : Group) (j r x : Nat) : Group :=
  { g with v := Sparse.set 0#32 g.v (256 * j + r) (BitVec.ofNat 32 x) }

/-- A write of q7 has no effect (R57). -/
def Group.setQ (g : Group) (j n : Nat) (x : Bool) : Group :=
  if n = 7 then g else { g with q := Sparse.set false g.q (8 * j + n) x }

/-- The roster lanes, rising (R155). -/
def Group.roster (g : Group) : List Nat := g.lanes.map Prod.fst

/-- The roster's bits for mask word w. -/
def Group.rosterWord (g : Group) (w : Nat) : Nat :=
  (g.roster.filter (fun j => j / 32 == w)).foldl (fun acc j => acc + 2 ^ (j % 32)) 0

/-- A scalar write; s61–s63 keep the low 32 bits ANDed with the roster (R158). -/
def Group.setS (g : Group) (n x : Nat) : Group :=
  let val := if n < 61 then x % 2 ^ 64 else x % 2 ^ 32 &&& g.rosterWord (n - 61)
  { g with s := Sparse.set 0#64 g.s n (BitVec.ofNat 64 val) }

/-! ## Lanes -/

/-- Lane j is on in the mask as it stood before the word (R159). -/
def Group.inMask (g : Group) (j : Nat) : Bool := bitAt (g.getS (61 + j / 32)) (j % 32)

/-- Active(g): roster lanes that the mask words name, rising. -/
def Group.active (g : Group) : List Nat := g.roster.filter g.inMask

def Group.laneOf (g : Group) (j : Nat) : Option Lane := AMap.find j g.rlanes

def Group.help (g : Group) (j : Nat) : Bool :=
  match AMap.find j g.lanes with
  | some l => l.help
  | none => false

/-- takes_part(j) (R35). -/
def Group.takesPart (g : Group) (guard : Nat) (j : Nat) : Bool :=
  g.inMask j && (g.getQ j (guard % 8) != bitAt guard 3)

/-- The lanes that take part, rising. -/
def Group.parts (g : Group) (guard : Nat) : List Nat := g.roster.filter (g.takesPart guard)

/-- The leading lane: the lowest active record lane (R145). -/
def Group.leading (g : Group) : Option Nat := g.active.find? (fun j => !g.help j)

/-- The lane whose owner lane j exchanges as: itself, or for a helper lane the highest record lane below it in its
quad (R185). -/
def Group.owner (g : Group) (j : Nat) : Option Lane :=
  match AMap.find j g.lanes with
  | none => none
  | some l =>
    if l.help then
      (((List.range 4).map (fun k => 4 * (j / 4) + (3 - k))).filter (fun i => decide (i < j))).findSome?
        (fun i => match AMap.find i g.lanes with
          | some m => if m.help then none else some m
          | none => none)
    else some l

/-- XS(j) (R185). -/
def Group.xs (g : Group) (j : Nat) : Nat :=
  match g.owner j with
  | some l => l.stamp.toNat
  | none => 0

/-- XH(j) (R185). -/
def Group.xh (g : Group) (j : Nat) : Nat :=
  match g.owner j with
  | some l => l.hh.toNat
  | none => 0

/-- Shares(i, j) (R185). -/
def Group.shares (g : Group) (i j : Nat) : Bool :=
  decide (g.xs i = g.xs j) || (decide (g.xh i = g.xh j) && decide (g.xh i ≠ 0))

/-- The lowest lane of `l` that does not share with the leading lane. -/
def Group.stranger (g : Group) (lead : Nat) (l : List Nat) : Option Nat := l.find? (fun j => !g.shares lead j)

/-- The owner checks of R145 and R198: no leading lane (0x42), or an active record lane that does not share (0x41).
The value is TRAPINFO. -/
def Group.ownerCheck (g : Group) : Option Nat :=
  match g.leading with
  | none => some 0x42
  | some lead =>
    match g.stranger lead (g.active.filter (fun j => !g.help j)) with
    | some j => some (0x41 + j * 256)
    | none => none

/-- The owner checks over the roster (R236, R239): 0x42 or 0x44. -/
def Group.rosterCheck (g : Group) : Option Nat :=
  match g.leading with
  | none => some 0x42
  | some lead =>
    match g.stranger lead g.roster with
    | some j => some (0x44 + j * 256)
    | none => none

/-! ## Specials -/

/-- The group-wide values that specials and SRD read, taken from the state when the word issues. -/
structure Ctx where
  grp : Nat
  blk : Nat
  coh : Nat
  core : Nat
  cyc : Nat
  deriving DecidableEq, Repr

/-- The partition's clusters, rising, as the map names them (R365, R367). -/
def Partition.holds (p : Partition) (word bit : Nat) : Bool := bitAt ((p.map.getD (word + bit / 64) 0#64).toNat) (bit % 64)

/-- The dense number of physical core n: its rank among the partition's cores in the remap table (R157, R365). -/
def State.denseCore (s : State) (p n : Nat) : Nat :=
  ((List.range n).filter (fun c => (s.part p).holds 4 (c / 4) && !Sparse.get false s.dead c)).length

/-- The context of a group. -/
def State.ctx (s : State) (g : Group) : Ctx :=
  match AMap.find g.block s.blocks with
  | none => { grp := g.idx, blk := 0, coh := 0, core := 0, cyc := 0 }
  | some b => { grp := g.idx, blk := b.idx, coh := 0, core := s.denseCore b.part b.core, cyc := (s.core b.core).cyc.toNat }

/-- %nact (R157, R160). -/
def Group.nact (g : Group) : Nat := (g.active.filter (fun j => !g.help j)).length

/-- A uniform special at 64 bits (R45, R157). -/
def Group.specialU (g : Group) (c : Ctx) : Special → Nat
  | .grp => c.grp
  | .blk => c.blk
  | .coh => c.coh
  | .core => c.core
  | .nact => g.nact
  | .zero => 0
  | .ones => 2 ^ 64 - 1
  | .cyc => c.cyc
  | .lane | .quad | .stamp | .hh | .beat | .lstat => 0

/-- A special as lane j reads it, 32 bits (R59). -/
def Group.special (g : Group) (c : Ctx) (j : Nat) (x : Special) : Nat :=
  match x with
  | .lane => j
  | .quad => j / 4
  | .beat => j / 32
  | .stamp => match g.laneOf j with
    | some l => l.stamp.toNat
    | none => 0
  | .hh => match g.laneOf j with
    | some l => l.hh.toNat
    | none => 0
  | .lstat => match g.laneOf j with
    | some l => l.lstat.toNat
    | none => 0
  | .grp | .blk | .coh | .core | .nact | .zero | .ones | .cyc => g.specialU c x % 2 ^ 32

/-! ## Operands -/

/-- An operand read as 32 bits in lane j (R45). -/
def Group.src (g : Group) (c : Ctx) (j : Nat) : Operand → Nat
  | .v n => g.getV j n.toNat
  | .s n => g.getS n.toNat % 2 ^ 32
  | .q n => (g.getQ j n.toNat).toNat
  | .sp x => g.special c j x % 2 ^ 32
  | .imm n => (n.signExtend 32).toNat
  | .reserved _ => 0

/-- An operand read as 64 bits for the group (R45, R161). -/
def Group.srcU (g : Group) (c : Ctx) : Operand → Nat
  | .s n => g.getS n.toNat
  | .sp x => g.specialU c x % 2 ^ 64
  | .imm n => (n.signExtend 64).toNat
  | .v _ | .q _ | .reserved _ => 0

/-- The predicate an operand names, in lane j. -/
def Group.pred (g : Group) (j : Nat) : Operand → Bool
  | .q n => g.getQ j n.toNat
  | .v _ | .s _ | .sp _ | .imm _ | .reserved _ => false

/-- A wide operand in lane j (R100): a vector register names the pair from it up, a scalar register gives all 64 bits, and an inline
or a special, of which a lane reads 32 bits (R157), is sign-extended to 64 (R45). -/
def Group.wide (g : Group) (c : Ctx) (j : Nat) : Operand → Nat
  | .v n => g.getV j n.toNat + g.getV j (n.toNat + 1) * 2 ^ 32
  | .s n => g.getS n.toNat
  | .sp x => ((BitVec.ofNat 32 (g.special c j x)).signExtend 64).toNat
  | .imm n => (n.signExtend 64).toNat
  | .q _ | .reserved _ => 0

/-- The number of the register an operand names. -/
def regNum : Operand → Nat
  | .v n => n.toNat
  | .s n => n.toNat
  | .q n => n.toNat
  | .sp _ => 0
  | .imm n => n.toNat
  | .reserved _ => 0

end Sys2Proof.Machine
end

