-- ==== Sys2Proof/Machine/Net.lean ====
section
/-! DEFINITION. The network's shape: homes (R308), routes (R298), injection of a request packet with its class and
quota (R300, R303, R332), links by name (R300–R306). -/

namespace Sys2Proof.Machine

/-! ## Partition map fields (Tables 20.1, 20.13) -/

def Partition.word (p : Partition) (n : Nat) : Nat := (p.map.getD n 0#64).toNat

/-- V: the partition exists. -/
def Partition.valid (p : Partition) : Bool := bitAt (p.word 0) 63

def Partition.mayStrict (p : Partition) : Bool := bitAt (p.word 0) 62

def Partition.mayProt (p : Partition) : Bool := bitAt (p.word 0) 61

def Partition.ppm (p : Partition) : BitVec 8 := BitVec.ofNat 8 (bits (p.word 0) 55 48)

def Partition.ways (p : Partition) : Nat := bits (p.word 0) 47 32

def Partition.slots (p : Partition) : Nat := bits (p.word 0) 31 16

def Partition.tshare (p : Partition) : Nat := bits (p.word 1) 63 48

def Partition.quotaE (p : Partition) : Nat := bits (p.word 1) 31 16

def Partition.quotaC (p : Partition) : Nat := bits (p.word 1) 15 0

def Partition.hostMem (p : Partition) : Bool := bitAt (p.word 17) 0

def Partition.peerMem (p : Partition) : Bool := bitAt (p.word 17) 1

def Partition.owns (p : Partition) (r : Nat) : Bool := p.holds 18 r

def Partition.mayRead (p : Partition) (r : Nat) : Bool := p.owns r || p.holds 50 r

/-- The partition holds physical slice k, engine e, cluster c of the remap table. -/
def State.hasSlice (s : State) (p k : Nat) : Bool := (s.part p).holds 6 k && !Sparse.get false s.dead (1000 + k)

def State.hasEngine (s : State) (p e : Nat) : Bool := bitAt ((s.part p).word 16) e && !Sparse.get false s.dead (2000 + e)

def State.hasCore (s : State) (p n : Nat) : Bool := (s.part p).holds 4 (n / 4) && !Sparse.get false s.dead n

/-- The partition's slices on die d, rising. -/
def State.slicesOn (s : State) (p d : Nat) : List Nat := ((List.range 80).map (· + 80 * d)).filter (s.hasSlice p)

/-- The partition's dies, in dense order (R365). -/
def State.dies (s : State) (p : Nat) : List Nat := (List.range 8).filter (fun d => !(s.slicesOn p d).isEmpty)

/-! ## Homes (R308) -/

/-- The hash of a line number. -/
def lineHash (l : Nat) : Nat := bits l 15 0 ^^^ bits l 31 16 ^^^ bits l 47 32

/-- The home slice of an IA under a HOME mask; 0xFF for accesses that pass no range table (R308). -/
def State.home (s : State) (p mask ia : Nat) : Nat :=
  let ds := s.dies p
  let named := (List.range ds.length).filter (bitAt mask)
  let m := if named.isEmpty then List.range ds.length else named
  let h := lineHash (ia / 128)
  let die := ds.getD (m.getD (h % max 1 m.length) 0) 0
  let sl := s.slicesOn p die
  sl.getD ((h / 8) % max 1 sl.length) (80 * die)

/-! ## Routes (R297, R298) -/

/-- Stations on a ring. -/
def ringSize : Nat := 27

/-- The stations of a core's cluster and of a slice (R367). -/
def clusterStation (core : Nat) : Station :=
  { die := core / 4 / 12, quad := core / 4 % 12 / 3, place := core / 4 % 3 }

def sliceStation (k : Nat) : Station := { die := k / 80, quad := k % 80 / 20, place := 3 + k % 20 }

/-- The memory station of a quadrant, numbered over the device: of its stack, and of its walker (DESIGN CHOICE, log 88). -/
def memStation (n : Nat) : Station := { die := n / 4, quad := n % 4, place := 23 }

/-- The station of an engine: quadrant k mod 4 of its die (Table 15.1). -/
def engineStation (e : Nat) : Station := { die := e / 6, quad := e % 6 % 4, place := 24 }

/-- The number of a station that has quotas (R303): clusters from 0, copy-engine stations from 96. -/
def Station.number (a : Station) : Option Nat :=
  if a.place < 3 then some (12 * a.die + 3 * a.quad + a.place)
  else if a.place = 24 then some (96 + 4 * a.die + a.quad) else none

/-- n segments of a ring from a place on, in one direction. -/
def segments (d q pair : Nat) (cw : Bool) : Nat → Nat → List LinkId
  | 0, _ => []
  | n + 1, at_ =>
    LinkId.ring d q pair cw at_ :: segments d q pair cw n (if cw then (at_ + 1) % ringSize else (at_ + ringSize - 1) % ringSize)

/-- From one place of a quadrant to another, in the direction with fewer hops, clockwise on a tie (R298). -/
def ringHops (d q pair a b : Nat) : List LinkId :=
  let n := (b + ringSize - a) % ringSize
  if 2 * n ≤ ringSize then segments d q pair true n a else segments d q pair false (ringSize - n) a

/-- The quadrants whose rings bridge b stands on (Table 15.1), and its place on each. -/
def bridgeQuads (b : Nat) : List Nat := [b % 4, (b + 1) % 4]

def bridgePlace (b q : Nat) : Nat := if q = b % 4 then 25 else 26

/-- The quadrants crossed within a die, from rings `src` to rings `dst`: a shared one, two adjacent ones (the clockwise
pair first, DEDUCED, log 12), or through quadrant (q + 1) mod 4. -/
def ringPath (src dst : List Nat) : List Nat :=
  match src.find? (fun q => dst.contains q) with
  | some q => [q]
  | none =>
    match src.find? (fun q => dst.contains ((q + 1) % 4)), src.find? (fun q => dst.contains ((q + 3) % 4)) with
    | some q, _ => [q, (q + 1) % 4]
    | none, some q => [q, (q + 3) % 4]
    | none, none =>
      let q := src.headD 0
      [q, (q + 1) % 4, (q + 2) % 4]

/-- The segments crossed in a list of quadrants, from a place of the first to a place of the last. -/
def quadHops (d pair : Nat) : List Nat → Nat → (Nat → Nat) → List LinkId
  | [], _, _ => []
  | [q], a, exit => ringHops d q pair a (exit q)
  | q :: r :: rest, a, exit =>
    let next := r == (q + 1) % 4
    ringHops d q pair a (if next then 25 else 26) ++ quadHops d pair (r :: rest) (if next then 26 else 25) exit

/-- The dies passed from `d` to `e`, each with the bridge that leaves it: along the row first, then across. -/
def diePath : Nat → Nat → Nat → List (Nat × Nat)
  | 0, _, _ => []
  | n + 1, d, e =>
    if d = e then []
    else if d % 4 < e % 4 then (d, 1) :: diePath n (d + 1) e
    else if e % 4 < d % 4 then (d, 3) :: diePath n (d - 1) e
    else if d < e then (d, 2) :: diePath n (d + 4) e
    else (d, 0) :: diePath n (d - 4) e

/-- The bridge at which a packet enters, given the one it left by: the opposite edge. -/
def facing (b : Nat) : Nat := (b + 2) % 4

/-- The links from a die on, entered on rings `src` at a place of each, over the boundaries listed, to a station. -/
def linksFrom (pair : Nat) (dst : Station) : List (Nat × Nat) → Nat → List Nat → (Nat → Nat) → List LinkId
  | [], d, src, enter =>
    let qs := ringPath src [dst.quad]
    quadHops d pair qs (enter (qs.headD 0)) (fun _ => dst.place)
  | (x, b) :: rest, d, src, enter =>
    let next := match rest with
      | (y, _) :: _ => y
      | [] => dst.die
    let qs := ringPath src (bridgeQuads b)
    quadHops d pair qs (enter (qs.headD 0)) (bridgePlace b) ++ LinkId.boundary x next
      :: linksFrom pair dst rest next (bridgeQuads (facing b)) (bridgePlace (facing b))

/-- The links that a packet crosses from one station to another on a pair: 0 requests, 1 responses and write data. -/
def path (pair : Nat) (a b : Station) : List LinkId := linksFrom pair b (diePath 5 a.die b.die) a.die [a.quad] (fun _ => a.place)

/-! ## Links -/

def findLink (id : LinkId) : List (LinkId × Link) → Option Link
  | [] => none
  | (i, l) :: rest => if i = id then some l else findLink id rest

def putLink (id : LinkId) (l : Link) : List (LinkId × Link) → List (LinkId × Link)
  | [] => [(id, l)]
  | (i, m) :: rest => if i = id then (id, l) :: rest else (i, m) :: putLink id l rest

def State.link (s : State) (id : LinkId) : Link := (findLink id s.links).getD Link.reset

def State.setLink (s : State) (id : LinkId) (l : Link) : State := { s with links := putLink id l s.links }

/-- It takes new packets: it is not being rekeyed and not retraining (R305, R362). -/
def Link.isOpen (l : Link) : Bool := !l.rekeying && !l.retraining

/-! ## Packets -/

/-- Flits of a packet with n bytes of data (R299). -/
def flitCount (n : Nat) : Nat := if n ≤ 64 then 1 else 1 + (n - 64 + 127) / 128

/-- Bytes of data a request carries. -/
def Ask.dataBytes : Ask → Nat
  | .read | .readBytes _ | .prefetch | .discard _ => 0
  | .write n _ _ => n
  | .atomic _ n xs _ => n * xs.length

/-- It changes what stands at a home slice. -/
def Ask.isWrite : Ask → Bool
  | .read | .readBytes _ | .prefetch => false
  | .write _ _ _ | .atomic _ _ _ _ | .discard _ => true

/-- Bytes of one lane's operand. -/
def Ask.width : Ask → Nat
  | .read | .readBytes _ | .prefetch | .discard _ => 0
  | .write n _ _ => n
  | .atomic _ n _ _ => n

/-- Bytes that a request covers. -/
def Ask.covers : Ask → Nat
  | .read | .prefetch => 128
  | .readBytes n => n
  | .write n _ _ => n
  | .atomic _ n _ _ => n
  | .discard _ => 0

/-- Bytes of data an answer carries: a line at least, where it is one (R299). -/
def Answer.dataBytes (ask : Ask) : Answer → Nat
  | .line _ => max 128 ask.covers
  | .values _ l => ask.width * l.length
  | .fault _ _ => 0

/-- The parts of n bytes from an IA on, by line: IA, bytes before it, its length. -/
def linePieces (ia n : Nat) : List (Nat × Nat × Nat) :=
  (List.range ((ia % 128 + n + 127) / 128)).map (fun i =>
    let lo := max ia (ia / 128 * 128 + 128 * i)
    (lo, lo - ia, min (ia + n) (ia / 128 * 128 + 128 * (i + 1)) - lo))

/-- The request touches a line. -/
def Req.onLine (r : Req) (line : Nat) : Bool := decide (r.ia / 128 ≤ line) && decide (128 * line < r.ia + r.ask.covers)

/-- Two requests touch a line alike. -/
def Req.linesMeet (x r : Req) : Bool := (linePieces x.ia x.ask.covers).any (fun q => r.onLine (q.1 / 128))

/-- Flits of the packet in which a request now travels: itself, or the answer that goes back. -/
def Req.flits (r : Req) : Nat :=
  match r.st with
  | .back a => flitCount (a.dataBytes r.ask)
  | .transit | .arrived | .walking _ | .half _ _ _ _ | .heldWrite _ | .atPeer _ _ _ _ | .unitData _ => flitCount r.ask.dataBytes

/-- The request has not been performed. -/
def Req.pending (r : Req) : Bool :=
  match r.st with
  | .back _ | .unitData _ => false
  | .transit | .arrived | .walking _ | .half _ _ _ _ | .heldWrite _ | .atPeer _ _ _ _ => true

/-- It stands at its slice and is not yet performed in part. -/
def Req.queued (r : Req) : Bool :=
  match r.st with
  | .arrived | .walking _ | .heldWrite _ => true
  | .transit | .half _ _ _ _ | .atPeer _ _ _ _ | .unitData _ | .back _ => false

/-- The stack that a slice's packet goes to: its IA is the line's PA. -/
def Req.stackNo (r : Req) : Option Nat :=
  match r.src with
  | .stack _ => some (bits r.ia 45 41)
  | .group _ _ _ | .commit | .host _ | .peer _ _ | .engine _ _ | .walk _ | .device _ | .message _ _ _ => none

/-- The way of a request to its home slice, or of a slice's packet to its stack (R345), and that of the answer: what carries
data goes on pair 1 (R297, DEDUCED, log 12). -/
def Req.way (r : Req) : List LinkId :=
  let pair := if r.ask.dataBytes = 0 then 0 else 1
  match r.stackNo with
  | some n => path pair (sliceStation r.home) (memStation n) ++ [LinkId.stack n]
  | none => path pair r.from_ (sliceStation r.home)

def Req.wayBack (r : Req) : List LinkId :=
  match r.stackNo with
  | some n => LinkId.stackUp n :: path 1 (memStation n) (sliceStation r.home)
  | none => path 1 (sliceStation r.home) r.from_

/-- Requests of its block to the lines of a request that write and are not yet performed. -/
def State.earlierWrites (s : State) (r : Req) : List Req :=
  (AMap.vals s.reqs).filter (fun e => e.ask.isWrite && e.pending && decide (e.block = r.block) && decide (e.part = r.part)
    && e.linesMeet r)

/-- The class of a packet of n flits that a station injects, after its quota (R303): bulk when it would exceed the quota of
its class, and then counted in DEMOTED. Cluster stations are numbered by cluster, copy-engine stations 96 + 4d + q. -/
def State.injectAt (s : State) (part station : Nat) (c : Cls) (n : Nat) : Cls × State :=
  let p := s.part part
  let limit := if c = 2 then p.quotaC else p.quotaE
  let used := Sparse.get 0 p.quota (4 * station + c) + n
  if c = 0 then (0, s)
  else if limit = 0xFFFF || used ≤ limit then (c, s.setPart part { p with quota := Sparse.set 0 p.quota (4 * station + c) used })
  else (0, { s with demoted := Sparse.set 0 s.demoted station (min (2 ^ 32 - 1) (Sparse.get 0 s.demoted station + 1)) })

/-- The class that a request asks for: the lower of the two behind an earlier write of the block to the line (R332). -/
def State.classFor (s : State) (r : Req) : Cls :=
  if r.ask.isWrite then (s.earlierWrites r).foldl (fun c e => min c e.cls) r.cls else r.cls

/-- The group of an atomic that the filter of R305 counts. -/
def Req.atomicOf (r : Req) : Option Nat :=
  match r.src, r.ask with
  | .group g _ _, .atomic _ _ _ _ => some g
  | _, _ => none

/-- A core sent it, for a group, a commit or a unit of the core. -/
def Req.ofCore (r : Req) : Bool :=
  match r.src with
  | .group _ _ _ | .commit => true
  | .engine _ _ => decide (r.from_.place < 3)
  | .host _ | .peer _ _ | .walk _ | .stack _ | .device _ | .message _ _ _ => false

/-- It writes a completion record (R381). -/
def Req.isRecord (r : Req) : Bool :=
  match r.src with
  | .device (.record _) => true
  | .device .table | .device .data | .device .image | .device (.channel _) | .message _ _ _ | .group _ _ _ | .commit | .host _
  | .peer _ _ | .engine _ _ | .walk _ | .stack _ => false

/-- Of two requests in issue order, the second is performed behind the first: a core's two to one line, one of them a write
(R321–R323, R330), a group's atomics for one slice (R305) (DEDUCED, log 19), and a partition's completion records (R381). -/
def Req.comesBefore (x r : Req) : Bool :=
  x.part == r.part
    && ((x.ofCore && r.ofCore && x.core == r.core && x.linesMeet r && (x.ask.isWrite || r.ask.isWrite))
      || (x.atomicOf.isSome && x.atomicOf == r.atomicOf && x.home == r.home)
      || (x.isRecord && r.isRecord))

/-- A request comes behind one of its own that is still on its way (DEDUCED, log 19). -/
def State.outOfTurn (s : State) (rid : Nat) (r : Req) : Bool :=
  s.reqs.any (fun e => decide (e.1 < rid) && e.2.st == .transit && e.2.comesBefore r)

/-- It stands at the end of its way, before its slice. -/
def Req.atDoor (r : Req) : Bool := r.st == .transit && r.hops.isEmpty

/-- A request at the end of its way arrives at its home slice, behind those that have arrived before it (R309); one that comes
behind another of its own that is still on its way stands before the slice until that has arrived (DEDUCED, log 19). -/
def State.takeIn (s : State) (rid : Nat) (r : Req) : State :=
  if s.outOfTurn rid r then { s with reqs := AMap.put rid { r with hops := [], st := .transit } s.reqs }
  else
    { s with reqs := AMap.put rid { r with hops := [], st := .arrived, since := s.netClock, arrival := s.nextId } s.reqs,
             nextId := s.nextId + 1 }

/-- A request arrives, and those that stood before a slice until it had. -/
def State.atSlice (s : State) (rid : Nat) (r : Req) : State :=
  let s := s.takeIn rid r
  (s.reqs.filter (fun e => e.2.atDoor && r.comesBefore e.2)).foldl (fun s e => s.takeIn e.1 e.2) s

/-- A packet stands in the queue of the first link of its way. -/
def State.enqueue (s : State) (rid : Nat) (r : Req) : State :=
  let s : State := { s with reqs := AMap.put rid r s.reqs }
  match r.hops with
  | [] => s
  | l :: _ =>
    let k := s.link l
    s.setLink l { k with ready := k.ready ++ [(rid, r.flits)] }

/-- Send a packet in its class: it takes the next id and its way. -/
def State.sendPlain (s : State) (r : Req) : State :=
  let rid := s.nextId
  let r := { r with hops := r.way, st := .transit, since := s.netClock, ppm := (s.part r.part).ppm, arrival := 0 }
  State.enqueue { s with nextId := rid + 1 } rid r

/-- Send a request from a station, in its class under the station's quota (R303, R332). -/
def State.send (s : State) (r : Req) : State :=
  match r.from_.number with
  | some n =>
    let (c, s) := s.injectAt r.part n (s.classFor r) (flitCount r.ask.dataBytes)
    s.sendPlain { r with cls := c }
  | none => s.sendPlain r

/-- The device itself asked, with no ring between it and the slice; a channel's writes come from an engine. -/
def Req.ofDevice (r : Req) : Bool :=
  match r.src with
  | .device .table | .device .data | .device .image | .device (.record _) => true
  | .device (.channel _) | .message _ _ _ | .group _ _ _ | .commit | .host _ | .peer _ _ | .engine _ _ | .walk _ | .stack _ => false

/-- An answer for the device itself: what it has read, or why it cannot, stands until the command takes it; a write is over. -/
def State.landDevice (s : State) (rid : Nat) (r : Req) (a : Answer) : State :=
  match a with
  | .line x => { s with reqs := AMap.put rid { r with hops := [], st := .unitData x } s.reqs }
  | .values _ _ => { s with reqs := AMap.del rid s.reqs }
  | .fault _ _ =>
    if r.ask.isWrite then { s with reqs := AMap.del rid s.reqs }
    else { s with reqs := AMap.put rid { r with hops := [], st := .back a } s.reqs }

/-- An answer goes back to where the request came from, in the request's class (R297, R303). -/
def State.sendBack (s : State) (rid : Nat) (r : Req) (a : Answer) : State :=
  if r.ofDevice then s.landDevice rid r a
  else s.enqueue rid { r with hops := r.wayBack, st := .back a, since := s.netClock }

/-- A request that enters at its home slice with no ring to cross: from the host, a peer, or the device itself. -/
def State.arrive (s : State) (r : Req) : State :=
  let rid := s.nextId
  ({ s with nextId := rid + 1 }).atSlice rid { r with ppm := (s.part r.part).ppm }

end Sys2Proof.Machine
end

