-- ==== Sys2Proof/Machine/Flags.lean ====
section
/-! DEFINITION. Lane status (R60, R61), the held exception flags (R62) and the exception counters (R82, R384). -/

namespace Sys2Proof.Machine

/-- Bits of lane status (Table 3.2). -/
def statFILT : BitVec 32 := 1#32
def statDZ : BitVec 32 := 2#32
def statDOV : BitVec 32 := 4#32
def statISAT : BitVec 32 := 8#32
def statHELP : BitVec 32 := 16#32

def Group.adjLane (g : Group) (j : Nat) (f : Lane → Lane) : Group := { g with lanes := AMap.adj j f g.lanes }

/-- Set sticky bits in lane j (R60). -/
def Group.setStat (g : Group) (j : Nat) (m : BitVec 32) : Group :=
  if m = 0#32 then g else g.adjLane j (fun l => { l with lstat := l.lstat ||| m })

/-- Raise floating-point flags in lane j: held in a strict group, under FPXMASK as it stands (R62). -/
def Group.raise (g : Group) (j : Nat) (f : FFlags) : Group :=
  if g.strict && f &&& g.fpxmask != 0#5 then g.adjLane j (fun l => { l with heldF := l.heldF ||| (f &&& g.fpxmask) })
  else g

/-- A delivery point: the held flags join bits 12–8 of lane status (R62). -/
def Group.deliver (g : Group) : Group :=
  { g with lanes := g.lanes.map (fun (j, l) =>
      (j, { l with lstat := l.lstat ||| (l.heldF.zeroExtend 32 <<< 8), heldF := 0#5 })) }

/-- What one rounded result adds to the counters of its format, as counter numbers 4 × format + kind (R82). -/
def FRes.counts (f : Fmt) (r : FRes) : List Nat :=
  (if r.nan then [4 * f.index] else []) ++ (if r.inf then [4 * f.index + 1] else [])
    ++ (if r.flags &&& flagOF != 0#5 then [4 * f.index + 2] else [])
    ++ (if r.flags &&& flagUF != 0#5 then [4 * f.index + 3] else [])

/-- Add 1 to counter `k` of slot `slot`, raising vector 1 when it reaches its kind's threshold (R384). -/
def Partition.bump (p : Partition) (slot k : Nat) : Partition :=
  let old := Sparse.get 0 p.counters (32 * slot + k)
  let new := min (2 ^ 32 - 1) (old + 1)
  let thr := bits p.xthr.toNat (16 * (k % 4) + 15) (16 * (k % 4))
  let arm := (p.xarm.getD (slot / 64) 0#64)
  let p := { p with counters := Sparse.set 0 p.counters (32 * slot + k) new }
  if thr ≠ 0 && decide (old < thr) && decide (thr ≤ new) && bitAt arm.toNat (slot % 64) then
    { p with irqs := p.irqs ++ [1], xarm := p.xarm.set (slot / 64) (arm &&& ~~~(1#64 <<< (slot % 64))) }
  else p

/-- The counter slot of a group's node (R384). -/
def State.slotOf (s : State) (g : Group) : Option (Nat × Nat) :=
  match AMap.find g.block s.blocks with
  | none => none
  | some b =>
    match AMap.find b.graph (s.part b.part).graphs with
    | none => none
    | some gr => some (b.part, gr.firstSlot + b.nodeIdx)

/-- Feed the counters of the group's node (R82, R83). -/
def State.count (s : State) (g : Group) (ks : List Nat) : State :=
  if ks.isEmpty then s
  else match s.slotOf g with
    | none => s
    | some (p, slot) => s.setPart p (ks.foldl (fun q k => q.bump slot k) (s.part p))

/-! ## Gauges (R315) -/

/-- The bucket of a sample. -/
def bucketOf (v : Nat) : Nat := if v < 2 then 0 else min 15 (Nat.log2 v)

/-- Take a sample of quantity `src`. -/
def Gauge.sample (g : Gauge) (src v : Nat) : Gauge :=
  if g.en && g.src == src then
    { g with lo := min g.lo v, hi := max g.hi v,
             hist := Sparse.set 0 g.hist (bucketOf v) (min (2 ^ 32 - 1) (Sparse.get 0 g.hist (bucketOf v) + 1)) }
  else g

def sampleAll (src v : Nat) (m : AMap Gauge) : AMap Gauge := m.map (fun e => (e.1, e.2.sample src v))

def State.gaugeCore (s : State) (core src v : Nat) : State :=
  let c := s.core core
  s.setCore core { c with gauges := sampleAll src v c.gauges }

def State.gaugeSlice (s : State) (slice src v : Nat) : State :=
  { s with sliceGauges := AMap.adj slice (sampleAll src v) s.sliceGauges }

/-- Add to EMITLOST of the group's node (R380, R384). -/
def State.emitLost (s : State) (g : Group) (n : Nat) : State :=
  match s.slotOf g with
  | none => s
  | some (p, slot) =>
    let q := s.part p
    s.setPart p { q with emitlost := Sparse.set 0 q.emitlost slot (min (2 ^ 32 - 1) (Sparse.get 0 q.emitlost slot + n)) }

end Sys2Proof.Machine
end

