-- ==== Sys2Proof/Machine/Tables.lean ====
section
/-! DEFINITION. The memory-side tables (R345–R350): what a physical address names, an entry read as its level has it, and the
walk from an IA to its leaf, given what each entry reads as. -/

namespace Sys2Proof.Machine

/-! ## Physical addresses (R345, R367) -/

/-- The 1 GiB range of a stack address. -/
def rangeOf (pa : Nat) : Nat := 64 * bits pa 45 41 + bits pa 35 30

/-- A PA that names memory the partition may reach so. -/
def Partition.paOk (p : Partition) (pa : Nat) (write : Bool) : Bool :=
  if bitAt pa 51 then (if bitAt pa 50 then p.peerMem else p.hostMem)
  else bits pa 50 46 == 0 && bits pa 40 36 == 0 && (p.owns (rangeOf pa) || (p.mayRead (rangeOf pa) && !write))

/-- A PA of a peer's memory, and one of the host's (R370, R395). -/
def ofPeerMem (pa : Nat) : Bool := bits pa 51 50 == 3

def ofHostMem (pa : Nat) : Bool := bits pa 51 50 == 2

/-! ## Entries (R346, R347) -/

/-- A table entry, read as Table 19.2 at a level. -/
inductive Ent where
  | absent | malformed
  | ptr (base : Nat)
  | leaf (e : Nat)
  deriving DecidableEq, Repr

/-- Bits of the page that a leaf maps. -/
def pageBits (lvl e : Nat) : Nat := if lvl = 0 then (if bitAt e 7 then 16 else 12) else 12 + 9 * lvl

/-- V, then the breaches of R347. -/
def readEntry (stage2 : Bool) (lvl e : Nat) : Ent :=
  let isLeaf := bitAt e 1
  if !bitAt e 0 then .absent
  else if bits e 63 60 ≠ 0 || bits e 11 8 ≠ 0 then .malformed
  else if (lvl == 0 && !isLeaf) || (lvl == 3 && isLeaf) then .malformed
  else if bitAt e 7 && lvl ≠ 0 then .malformed
  else if bits e 59 52 ≠ 0 && (stage2 || !isLeaf) then .malformed
  else if isLeaf then
    if bits e 51 12 * 4096 % 2 ^ pageBits lvl e ≠ 0 then .malformed else .leaf e
  else .ptr (bits e 51 12 * 4096)

/-- The root base of a translation register (Table 19.3). -/
def rootOf (ttb : Nat) : Nat := bits ttb 51 20 * 2 ^ 20

/-- Where an address's entry stands in a table of a level. -/
def entryAddr (table lvl a : Nat) : Nat :=
  table + 8 * (if lvl = 3 then bits a 55 39 else bits a (20 + 9 * lvl) (12 + 9 * lvl))

/-- The address that a leaf gives. -/
def leafAddr (lvl e a : Nat) : Nat := bits e 51 12 * 4096 + a % 2 ^ pageBits lvl e

/-! ## The walk (R350) -/

/-- What walking finds. -/
inductive Look where
  | fault (kind : Nat)
  | poisoned (pa : Nat)
  /-- an entry has still to be read -/
  | need (pa : Nat)
  /-- the leaf, where it stands, and the address reached -/
  | found (e ea out : Nat)
  deriving DecidableEq, Repr

/-- A read of an entry at a PA: 0x0C where the partition has no such memory (R345), poisoned, or what `rd` gives it. -/
def State.entryAt (s : State) (rd : Nat → Option Answer) (part pa : Nat) : Sum Look Nat :=
  if !(s.part part).paOk pa false then .inl (.fault 0x0C)
  else match rd pa with
    | none => .inl (.need pa)
    | some (.line x) => .inr (x % 2 ^ 64)
    | some (.values _ l) => .inr (l.headD 0)
    | some (.fault k _) => .inl (if k = 0x08 then .poisoned pa else .fault k)

/-- One level of stage 2: what the entry gives, or the table below it. -/
def State.look2 (s : State) (rd : Nat → Option Answer) (part ga lvl table : Nat) : Sum Look Nat :=
  let ea := entryAddr table lvl (ga % 2 ^ 52)
  match s.entryAt rd part ea with
  | .inl l => .inl l
  | .inr e =>
    match readEntry true lvl e with
    | .absent => .inl (.fault 0x05)
    | .malformed => .inl (.fault 0x07)
    | .leaf e => .inl (.found e ea (leafAddr lvl e ga))
    | .ptr b => .inr b

/-- Stage 2, from a table of a level down (R346); level 0 holds no pointer. -/
def State.walk2 (s : State) (rd : Nat → Option Answer) (part ga : Nat) : Nat → Nat → Look
  | 0, table =>
    match s.look2 rd part ga 0 table with
    | .inl l => l
    | .inr _ => .fault 0x07
  | lvl + 1, table =>
    match s.look2 rd part ga (lvl + 1) table with
    | .inl l => l
    | .inr b => s.walk2 rd part ga lvl b

/-- What a nested walk gathers: guest granules and the leaves it used, each with whether it maps the access itself. -/
structure WalkAcc where
  guests : List Nat
  leaves : List (Nat × Nat × Bool)
  deriving DecidableEq, Repr

/-- A guest address to a PA: itself without stage 2. `final` marks the access's own page; a table's page must be readable
(DESIGN CHOICE, log 89). -/
def State.resolve (s : State) (rd : Nat → Option Answer) (part ga : Nat) (final : Bool) (acc : WalkAcc) : Look × WalkAcc :=
  let t := (s.part part).ttb2.toNat
  if !bitAt t 0 then (.found 0 0 ga, acc)
  else match s.walk2 rd part ga 3 (rootOf t) with
    | .found e ea pa =>
      let acc := { guests := ga / 4096 :: acc.guests, leaves := acc.leaves ++ [(ea, e, final)] }
      (if !final && !bitAt e 2 then .fault 0x06 else .found e ea pa, acc)
    | l => (l, acc)

/-- One level of stage 1: what the entry gives, or the table below it. -/
def State.look1 (s : State) (rd : Nat → Option Answer) (part ia lvl table : Nat) (acc : WalkAcc) : Sum Look Nat × WalkAcc :=
  match s.resolve rd part (entryAddr table lvl ia) false acc with
  | (.found _ _ ea, acc) =>
    match s.entryAt rd part ea with
    | .inl l => (.inl l, acc)
    | .inr e =>
      match readEntry false lvl e with
      | .absent => (.inl (.fault 0x03), acc)
      | .malformed => (.inl (.fault 0x07), acc)
      | .leaf e => (.inl (.found e ea (leafAddr lvl e ia)), { acc with leaves := acc.leaves ++ [(ea, e, true)] })
      | .ptr b => (.inr b, acc)
  | (l, acc) => (.inl l, acc)

/-- Stage 1, from a table of a level down. -/
def State.walk1 (s : State) (rd : Nat → Option Answer) (part ia : Nat) : Nat → Nat → WalkAcc → Look × WalkAcc
  | 0, table, acc =>
    match s.look1 rd part ia 0 table acc with
    | (.inl l, acc) => (l, acc)
    | (.inr _, acc) => (.fault 0x07, acc)
  | lvl + 1, table, acc =>
    match s.look1 rd part ia (lvl + 1) table acc with
    | (.inl l, acc) => (l, acc)
    | (.inr b, acc) => s.walk1 rd part ia lvl b acc

/-- The result of a walk: an entry that has still to be read, or what was found, without the rights and the swaps of A and D. -/
def State.walkFrom (s : State) (rd : Nat → Option Answer) (part quad ia : Nat) : Sum Nat WalkRes :=
  match s.walk1 rd part ia 3 (rootOf (s.part part).ttb1.toNat) ⟨[], []⟩ with
  | (.fault k, _) => .inr (.fault k)
  | (.poisoned pa, _) => .inr (.poisoned pa)
  | (.need pa, _) => .inl pa
  | (.found e1 _ ga, acc) =>
    match s.resolve rd part ga true acc with
    | (.fault k, _) => .inr (.fault k)
    | (.poisoned pa, _) => .inr (.poisoned pa)
    | (.need pa, _) => .inl pa
    | (.found e2 _ pa, acc) =>
      let both (i : Nat) : Bool := bitAt e1 i && (!bitAt (s.part part).ttb2.toNat 0 || bitAt e2 i)
      .inr (.leaf { quad := quad, slice := none, part := part, gran := ia / 4096, pa := pa / 4096 * 4096, r := both 2, w := both 3,
                    x := both 4, keyid := bits e1 59 52, d := both 6, guests := acc.guests } e1 acc.leaves)

/-! ## Tables as they stand -/

/-- The block that holds the word of an IA at this PA. -/
def State.l2At (s : State) (part ia pa : Nat) : Option L2Block :=
  (AMap.find (l1Key part ia) s.l2).filter (fun b => b.pa == pa / 16 * 16)

/-- The sector's mark as a read at its home slice meets it: the cache's, and memory's where the cache lacks bytes of the word
(R357). -/
def State.poisonAt (s : State) (part ia pa : Nat) : Bool :=
  match s.l2At part ia pa with
  | some b => b.poison || (b.valid != 2 ^ 16 - 1 && Sparse.get false s.poison (pa / 32))
  | none => Sparse.get false s.poison (pa / 32)

/-- What an entry reads as now, at its home slice under IA = PA (R349): its cached bytes over memory's. A peer's is not to be had
at once. -/
def State.entryNow (s : State) (part pa : Nat) : Answer :=
  if ofPeerMem pa then .fault 0x09 0
  else if s.poisonAt part pa pa then .fault 0x08 0
  else
    let t := Sparse.get 0 s.keyTags (pa / 64)
    let m := if t = 0 then bytesAt s.mem (pa / 16 * 16) 16
      else if t = 1 then 0 else (Config.freeWord (2 ^ 64 + pa / 16)).toNat
    let x := match s.l2At part pa pa with
      | some b => mixBytes 16 b.valid b.data m
      | none => m
    .line (x / 2 ^ (8 * (pa % 16)) % 2 ^ 64)

/-- The walk of an IA through the tables as they stand. -/
def State.walkStood (s : State) (part quad ia : Nat) : WalkRes :=
  match s.walkFrom (fun pa => some (s.entryNow part pa)) part quad ia with
  | .inr r => r
  | .inl pa => .poisoned pa

/-- The tables give an IA peer memory, or may give it, where an entry lies at a peer (kind 0x09 of `entryNow`): the device keeps no
such line (R395). -/
def State.namesPeer (s : State) (part ia : Nat) : Bool :=
  match s.walkStood part 0 ia with
  | .leaf e _ _ => ofPeerMem e.pa
  | .fault k => k == 0x09
  | .poisoned _ | .host _ => false

end Sys2Proof.Machine
end

