-- ==== Sys2Proof/Machine/Ops.lean ====
section
/-! DEFINITION. The named operations every meaning shares: taking a trap (R178, R181) and returning from it beside it
(R180), the wrapper that checks a word and applies its effect, operations issued and retired (R220), the commit
buffer and the commit (R138, R205, R322), the core's L1 (R324), parking (R268, R269). -/

namespace Sys2Proof.Machine

abbrev Res := Host.Outcome State Fault Refusal

/-- Act on the issuing group. -/
def onCur (s : State) (f : Nat → Group → State) : Res :=
  match s.cur with
  | none => .fault .noGroup
  | some gid =>
    match AMap.find gid s.groups with
    | none => .fault .noGroup
    | some g => .next (f gid g)

/-- The block of a group. -/
def State.blockOf (s : State) (g : Group) : Option Block := AMap.find g.block s.blocks

/-! ## L1 (R324) -/

/-- The bytes at an aligned IA when L1 holds all those outside `have`. -/
def Core.l1Read (c : Core) (part ia size have_ : Nat) : Option Nat :=
  match AMap.find (l1Key part ia) c.l1 with
  | none => none
  | some (m, d) =>
    let need := byteMask (ia % 16) size
    let got := m ||| have_ * 2 ^ (ia % 16)
    if got &&& need = need then some (d / 2 ^ (8 * (ia % 16)) % 2 ^ (8 * size)) else none

/-- Store bytes into L1. -/
def Core.l1Write (c : Core) (part ia size data : Nat) : Core :=
  let (m, d) := (AMap.find (l1Key part ia) c.l1).getD (0, 0)
  let w := byteMask (ia % 16) size
  { c with l1 := AMap.put (l1Key part ia) (m ||| w, mixBytes 16 w (data * 2 ^ (8 * (ia % 16))) d) c.l1 }

/-- Drop the line of an IA (R331). -/
def Core.l1DropLine (c : Core) (part ia : Nat) : Core :=
  { c with l1 := c.l1.filter (fun e => e.1 / 8 != l1Key part ia / 8) }

/-- Invalidate (R327, R329). -/
def Core.l1Clear (c : Core) : Core := { c with l1 := [] }

/-! ## Commit buffer and commit -/

/-- The buffered bytes of the block at an IA (R138): a mask and the bytes; later entries win. -/
def bufRead : List BufEntry → Nat → Nat → Nat × Nat
  | [], _, _ => (0, 0)
  | .send .. :: rest, ia, size => bufRead rest ia size
  | .store a n d _ _ _ _ _ _ :: rest, ia, size =>
    let (m, x) := bufRead rest ia size
    if a < ia + size && ia < a + n then
      let lo := max a ia
      let hi := min (a + n) (ia + size)
      let w := byteMask (lo - ia) (hi - lo)
      (m ||| w, mixBytes size m x (d / 2 ^ (8 * (lo - a)) * 2 ^ (8 * (lo - ia))))
    else (m, x)

/-- The buffer holds a store to the line of an IA. -/
def bufHasLine (l : List BufEntry) (ia : Nat) : Bool :=
  l.any (fun e => match e with
    | .store a _ _ _ _ _ _ _ _ => a / 128 == ia / 128
    | .send .. => false)

/-- Capacity of the commit buffer (Table 9.1). -/
def bufSize : Nat := 65536

/-- One buffered entry becomes visible in the core (R322); no line of peer memory is kept (R395). -/
def BufEntry.inCore (s : State) (part : Nat) (c : Core) : BufEntry → Core
  | .store ia size data _ _ _ _ _ _ => if s.namesPeer part ia then c.l1DropLine part ia else c.l1Write part ia size data
  | .send _ _ _ _ _ _ => c

/-- One packet of a commit leaves: a store is sent home; a send goes on the cohort link (R287, R322). -/
def State.commitEntry (bid : Nat) (b : Block) (s : State) (e : BufEntry) : State :=
  match e with
  | .store ia size data cls home tensor stamp _ _ =>
    s.send { ask := .write size data false, src := .commit, part := b.part, ppm := 0#8, ia := ia, home := home,
             cls := cls, stamp := stamp, tensor := tensor, block := bid, postmark := b.postmark, seq := 0#16,
             core := b.core, hops := [], st := .transit, since := 0, arrival := 0, from_ := clusterStation b.core }
  | .send dst off size data _ op =>
    match AMap.find b.cohort s.cohorts with
    | none => s
    | some c => s.setCohort b.cohort { c with sends := c.sends ++ [(b.idx, dst, off, size, data, op)] }

/-- Two stores of one instruction, the second behind the first in memory and both within a 64-byte granule, leave as one
packet (DEDUCED, log 47). -/
def joinEntries : BufEntry → BufEntry → Option BufEntry
  | .store ia n x cls home tensor stamp gid op, .store ia' n' x' cls' home' tensor' stamp' _ op' =>
    if ia' = ia + n && ia / 64 = (ia' + n' - 1) / 64 && cls = cls' && home = home' && tensor = tensor' && stamp = stamp' && op = op' then
      some (.store ia (n + n') (x % 2 ^ (8 * n) + 2 ^ (8 * n) * x') cls home tensor stamp gid op)
    else none
  | _, _ => none

/-- The packets of a commit, in the order of its entries. -/
def joinAll : List BufEntry → List BufEntry
  | [] => []
  | e :: rest =>
    match joinAll rest with
    | [] => [e]
    | f :: more => match joinEntries e f with
      | some j => j :: more
      | none => e :: f :: more

/-- A commit of a block (R322). -/
def State.commit (s : State) (bid : Nat) : State :=
  match AMap.find bid s.blocks with
  | none => s
  | some b =>
    let s := s.setCore b.core (b.buffer.foldl (BufEntry.inCore s b.part) (s.core b.core))
    let s := (joinAll b.buffer).foldl (State.commitEntry bid b) s
    s.adjBlock bid (fun b => { b with buffer := [], bufUsed := 0, committed := true })

/-! ## Operations -/

/-- The operations of a path that a group counts (R220). -/
def Group.count (g : Group) (p : Path) : Nat := (g.ops.filter (fun o => o.path = p)).length

/-- Complete operations leave their path's count in issue order (R220). -/
def retireOps : List Op → List Path → List Op
  | [], _ => []
  | o :: rest, stuck =>
    if o.complete && !stuck.contains o.path then retireOps rest stuck
    else o :: retireOps rest (o.path :: stuck)

def Group.retire (g : Group) : Group := { g with ops := retireOps g.ops [] }

def Group.adjOp (g : Group) (id : Nat) (f : Op → Op) : Group :=
  { g with ops := g.ops.map (fun o => if o.id = id then f o else o) }

def Group.findOp (g : Group) (id : Nat) : Option Op := g.ops.find? (fun o => o.id = id)

/-- No load, store or atomic of the group issued before `upto` is outstanding on the paths `ps`. -/
def Group.clearOf (g : Group) (ps : List Path) (upto : Nat) : Bool :=
  !g.ops.any (fun o => ps.contains o.path && decide (o.id < upto) && !o.complete)

/-- Its unfinished mask is not empty, or a fault of it awaits parking (R268, R272). -/
def Op.unfinished (o : Op) : Bool :=
  o.lanes.any (fun r => r.unf || match r.st with
    | .faulted _ => true
    | .waiting | .sent | .answered | .parked _ | .held | .done => false)

/-! ## Parking (R268, R269) -/

/-- A store, load or atomic of a lane in `ls` that has not been sent joins the unfinished masks (R269). -/
def holdLater (ls : List Nat) (o : Op) : Op :=
  if o.kind == .emit || !o.lanes.any (fun r => ls.contains r.lane && r.st == .waiting) then o
  else
    { o with wasParked := true,
             lanes := o.lanes.map (fun r => if ls.contains r.lane && r.st == .waiting then { r with st := .held, unf := true } else r) }

def holdAfter (id : Nat) (ls : List Nat) (ops : List Op) : List Op :=
  ops.map (fun o => if id < o.id then holdLater ls o else o)

/-- An access that one lane makes for the whole group (R268). -/
def OpKind.whole : OpKind → Bool
  | .load sc _ => sc
  | .store sc _ _ => sc
  | .atomic sc _ _ _ => sc
  | .copy .. | .discard .. | .coll .. | .acpy .. | .ldsc _ => true
  | .constLoad _ => true
  | .scratchLoad _ | .slotLoad _ | .scratchStore | .slotStore | .emit | .grid | .xput .. | .cbar _ => false

def LaneReq.park (r : LaneReq) : LaneReq :=
  match r.st with
  | .faulted k => { r with st := .parked k, unf := true }
  | .waiting | .sent | .answered | .parked _ | .held | .done => r

def markParked (ls : List Nat) (m : AMap Lane) : AMap Lane :=
  m.map (fun e => (e.1, if ls.contains e.1 then { e.2 with parked := true } else e.2))

/-- Park the faulted lanes of one operation: their stamps, or every stamp among the lanes it serves when one lane
acts for the group; the course follows at the next word boundary (R268, R270). -/
def Group.park (g : Group) (id : Nat) : Group :=
  match g.findOp id with
  | none => g
  | some o =>
    let bad := o.lanes.filter (fun r => match r.st with
      | .faulted _ => true
      | .waiting | .sent | .answered | .parked _ | .held | .done => false)
    if bad.isEmpty then g
    else
      let sets := if o.kind.whole then [(o.serves.map g.xs).eraseDups]
        else ((bad.map (fun r => g.xs r.lane)).eraseDups).map (fun x => [x])
      let all := sets.flatten
      let parkedLanes := g.roster.filter (fun j => all.contains (g.xs j))
      let g := { g with lanes := markParked parkedLanes g.lanes }
      let g := g.adjOp id (fun o => { o with wasParked := true, lanes := o.lanes.map LaneReq.park })
      { g with ops := holdAfter id parkedLanes g.ops, courses := g.courses ++ sets }

/-! ## Fault records (R353–R355) -/

/-- The merge key of R354. -/
def FaultRec.same (a b : FaultRec) : Bool :=
  decide (a.kind = b.kind) && decide (a.page = b.page) && decide (a.part = b.part)
    && (!(decide (a.kind ≤ 2)) || decide (a.stamp = b.stamp)) && (decide (a.kind ≠ 8) || decide (a.sect = b.sect))

def mergeFault (r : FaultRec) : List FaultRec → Option (List FaultRec)
  | [] => none
  | e :: rest =>
    if e.same r then some ({ e with dup := min (2 ^ 32 - 1) (e.dup + 1 + r.dup) } :: rest)
    else (mergeFault r rest).map (e :: ·)

/-- A record merges into an entry, takes a place, or is dropped; vector 0 is raised when COUNT leaves 0 and when
DROPPED becomes 1; SERIAL counts the entry itself (R354, R355, Table 21.3). -/
def Partition.record (p : Partition) (r : FaultRec) : Partition :=
  match mergeFault r p.faults with
  | some l => { p with faults := l }
  | none =>
    if p.faults.length < 8 then
      { p with faults := p.faults ++ [{ r with serial := p.serial + 1#32 }], serial := p.serial + 1#32,
               irqs := if p.faults.isEmpty then p.irqs ++ [0] else p.irqs }
    else
      { p with drops := min 0xFFFF (p.drops + 1), dropped := true,
               irqs := if p.dropped then p.irqs else p.irqs ++ [0] }

def State.record (s : State) (r : FaultRec) : State := s.setPart r.part ((s.part r.part).record r)

/-! ## END (R176), traps (R178–R181) -/

/-- END's effect: a delivery point, a commit, and the group issues nothing more. -/
def State.beginEnd (s : State) (gid : Nat) : State :=
  match AMap.find gid s.groups with
  | none => s
  | some g => (s.setGroup gid { g.deliver with wait := .ending, commitTo := s.nextId }).commit g.block

/-- The kernel's handler (R178). -/
def State.handler (s : State) (g : Group) : Option Nat :=
  match s.blockOf g with
  | some b => b.node.trap
  | none => none

/-- Taking a precise trap (R178): the kind, the detail and the resume offset are saved and the PC goes to the
handler; with no handler, or inside one, the group ends as by an END with INTRAP = 1 (R181). -/
def State.enterTrap (s : State) (gid : Nat) (g : Group) (kind info off : Nat) : State :=
  let g' := { g with trapkind := BitVec.ofNat 8 kind, trapinfo := BitVec.ofNat 64 info, latch := none }
  match s.handler g with
  | some h =>
    if g.intrap then (s.setGroup gid g').beginEnd gid
    else s.setGroup gid { g' with trappc := BitVec.ofNat 64 off, intrap := true, pc := h }
  | none => (s.setGroup gid { g' with intrap := true }).beginEnd gid

/-- Size of the group's .text (R170). -/
def State.textSize (s : State) (g : Group) : Nat :=
  match s.blockOf g with
  | some b => b.node.textSize
  | none => 0

/-- The clock from which a group that has just transferred control may issue. -/
def State.afterTransfer (s : State) (g : Group) : Nat :=
  match s.blockOf g with
  | some b => (s.core b.core).clk + 3
  | none => g.notBefore

/-- A control transfer to an exact target (R170): misaligned 0x34, outside .text 0x35; the trap's offset is the
transferring word's (DEDUCED, log 40). -/
def State.transfer (s : State) (gid : Nat) (g : Group) (target : Int) (checkAlign : Bool) : State :=
  if checkAlign && target % 8 != 0 then s.enterTrap gid g 0x08 0x34 g.pc
  else if target < 0 || (s.textSize g : Int) ≤ target then s.enterTrap gid g 0x08 0x35 g.pc
  else s.setGroup gid { g with pc := target.toNat, notBefore := s.afterTransfer g }

/-- Return from the handler (R180): the PC becomes TRAPPC and INTRAP 0; outside a handler it traps with 0x0C. A
target that breaks R170 is a trap raised while INTRAP = 1, which ends the group (R181). -/
def State.leaveTrap (s : State) (gid : Nat) (g : Group) : State :=
  if !g.intrap then s.enterTrap gid g 0x01 0x0C g.pc
  else
    let t := g.trappc.toNat
    if t % 8 ≠ 0 then s.enterTrap gid g 0x08 0x34 g.pc
    else if s.textSize g ≤ t then s.enterTrap gid g 0x08 0x35 g.pc
    else s.setGroup gid { g with pc := t, intrap := false }

/-! ## The wrapper of a word -/

/-- What an instruction does to its group: a trap, or the new group with what it feeds to the node's counters. -/
inductive Eff where
  | trap (kind info : Nat)
  | ok (g : Group) (counts : List Nat)

/-- Bit 8 of TRAPINFO: the half that runs (R55). -/
def Group.halfBit (g : Group) : Nat :=
  match g.latch with
  | some l => 256 * l.half
  | none => 0

/-- The PC after a word. -/
def Group.advance (g : Group) : Group := { g with pc := g.pc + 8 }

/-- Run a word on the issuing group: checks 3 to 11 (`i.check`) and 16 (`spans`) of Table 2.12 first, each taking its
trap; then `f`, on a group that has passed them. -/
def runWord (i : Instr) (spans : List (Nat × Nat)) (s : State) (f : Nat → Group → State) : Res :=
  onCur s (fun gid g =>
    match i.check with
    | some r => s.enterTrap gid g 0x01 (r + (if 0x09 ≤ r then g.halfBit else 0)) g.pc
    | none =>
      if !spansOk (16 * g.alloc) spans then s.enterTrap gid g 0x09 0x21 g.pc
      else f gid g)

/-- The effect of a word that touches only its group and its node's counters. -/
def State.apply (s : State) (gid : Nat) (g : Group) (e : Eff) : State :=
  match e with
  | .trap k info => s.enterTrap gid g k info g.pc
  | .ok g' counts => (s.setGroup gid g'.advance).count g counts

/-- A full-form word of that kind. -/
def runLocal (i : Instr) (spans : List (Nat × Nat)) (s : State) (f : Ctx → Group → Eff) : Res :=
  runWord i spans s (fun gid g => s.apply gid g (f (s.ctx g) g))

/-- A half (R50): as its full form, but the word, not the half, moves the PC. -/
def runHalf (i : Instr) (spans : List (Nat × Nat)) (s : State) (f : Ctx → Group → Eff) : Res :=
  runWord i spans s (fun gid g =>
    match f (s.ctx g) g with
    | .trap k info => s.enterTrap gid g k info g.pc
    | .ok g' counts => (s.setGroup gid g').count g counts)

/-- A free value of 2^w: the step reads the counter and advances it. -/
def State.fresh (s : State) : Nat × State := (s.freeTick, { s with freeTick := s.freeTick + 1 })

/-- Add an operation to a group; it takes the next id and the group's tensor id (R220, R311). -/
def State.newOp (s : State) (gid : Nat) (o : Op) : State :=
  let clk (g : Group) : Nat :=
    match s.blockOf g with
    | some b => (s.core b.core).clk
    | none => 0
  let s := s.adjGroup gid (fun g =>
    { g with ops := g.ops ++ [{ o with id := s.nextId, tensor := g.tensor, issued := clk g }] })
  { s with nextId := s.nextId + 1 }

end Sys2Proof.Machine
end

