-- ==== Sys2Proof/Machine/Vint.lean ====
section
/-! DEFINITION. The lane integer, bit and address instructions (ch. 04): VINT, VINTI, VADR and the halves of VINT. -/

namespace Sys2Proof.Machine

/-! ## Elements (R86) -/

/-- One operation on the elements of type `ty` (0 .i32, 1 .n32, 2 .i16x2, 3 .n16x2): `f` gets the element width and
the elements as read under the type, and gives a result to wrap and the status bits it sets. -/
def perElem (ty : Nat) (f : Nat → Int → Int → Int → Int × BitVec 32) (x y z : Nat) : Nat × BitVec 32 :=
  let rd (w v : Nat) : Int := if ty % 2 = 0 then sgn w v else ((v % 2 ^ w : Nat) : Int)
  if ty < 2 then
    let r := f 32 (rd 32 x) (rd 32 y) (rd 32 z)
    (low 32 r.1, r.2)
  else
    let a := f 16 (rd 16 x) (rd 16 y) (rd 16 z)
    let b := f 16 (rd 16 (x / 65536)) (rd 16 (y / 65536)) (rd 16 (z / 65536))
    (low 16 a.1 + low 16 b.1 * 65536, a.2 ||| b.2)

/-- The same for an operation that sets no status bit. -/
def perElem0 (ty : Nat) (f : Nat → Int → Int → Int → Int) : Nat → Nat → Nat → Nat × BitVec 32 :=
  perElem ty (fun w x y z => (f w x y z, 0#32))

/-- An operation on the 32 bits as they stand. -/
def whole (f : Nat → Nat → Nat → Nat) (x y z : Nat) : Nat × BitVec 32 := (f x y z % 2 ^ 32, 0#32)

/-- The type of a modifier byte (Table 4.1). -/
def tyOf (md : Nat) : Nat := md % 4

/-! ## Results (Table 4.3, R90–R98) -/

def vAdd (ty : Nat) := perElem0 ty (fun _ x y _ => x + y)
def vSub (ty : Nat) := perElem0 ty (fun _ x y _ => x - y)
def vMul (ty : Nat) := perElem0 ty (fun _ x y _ => x * y)
/-- The upper half of the exact product (R90). -/
def vMulh (ty : Nat) := perElem0 ty (fun w x y _ => (x * y).fdiv (2 ^ w))
def vMad (ty : Nat) := perElem0 ty (fun _ x y z => x * y + z)

/-- Quotient of Table 3.7, with DZ or DOV. -/
def vDiv (ty : Nat) := perElem ty (fun w x y _ =>
  if y = 0 then (-1, statDZ)
  else if ty % 2 = 0 && x = -(2 ^ (w - 1) : Int) && y = -1 then (x, statDOV)
  else (x.tdiv y, 0#32))

/-- Remainder of Table 3.7, with DZ or DOV. -/
def vRem (ty : Nat) := perElem ty (fun w x y _ =>
  if y = 0 then (x, statDZ)
  else if ty % 2 = 0 && x = -(2 ^ (w - 1) : Int) && y = -1 then (0, statDOV)
  else (x.tmod y, 0#32))

def vAbs (ty : Nat) := perElem0 ty (fun _ x _ _ => if x < 0 then -x else x)
def vNeg (ty : Nat) := perElem0 ty (fun _ x _ _ => -x)
def vMin (ty : Nat) := perElem0 ty (fun _ x y _ => if x ≤ y then x else y)
def vMax (ty : Nat) := perElem0 ty (fun _ x y _ => if x ≤ y then y else x)

/-- Clamp to the range of a w-bit type (R91). -/
def clampTo (sgnd : Bool) (w : Nat) (v : Int) : Int × BitVec 32 :=
  let lo : Int := if sgnd then -(2 ^ (w - 1) : Int) else 0
  let hi : Int := if sgnd then 2 ^ (w - 1) - 1 else 2 ^ w - 1
  if v < lo then (lo, statISAT) else if hi < v then (hi, statISAT) else (v, 0#32)

def vAdds (ty : Nat) := perElem ty (fun w x y _ => clampTo (ty % 2 = 0) w (x + y))
def vSubs (ty : Nat) := perElem ty (fun w x y _ => clampTo (ty % 2 = 0) w (x - y))

def vAnd := whole (fun x y _ => x &&& y)
def vOr := whole (fun x y _ => x ||| y)
def vXor := whole (fun x y _ => x ^^^ y)
def vAndn := whole (fun x y _ => x &&& notBits 32 y)
def vNot := whole (fun x _ _ => notBits 32 x)
def vMov := whole (fun x _ _ => x)

/-- Shifts (R94): x and the count as w unsigned bits. -/
def shl (w x n : Nat) : Nat := if n < w then x * 2 ^ n % 2 ^ w else 0
def shr (w x n : Nat) : Nat := if n < w then x % 2 ^ w / 2 ^ n else 0
def sra (w x n : Nat) : Nat := low w (if n < w then (sgn w x).fdiv (2 ^ n) else if sgn w x < 0 then -1 else 0)

/-- An operation on unsigned elements under a signed or wide type's width. -/
def perBits (ty : Nat) (f : Nat → Nat → Nat → Nat) (x y _z : Nat) : Nat × BitVec 32 :=
  if ty < 2 then (f 32 (x % 2 ^ 32) (y % 2 ^ 32) % 2 ^ 32, 0#32)
  else (f 16 (x % 65536) (y % 65536) % 65536 + f 16 (x / 65536 % 65536) (y / 65536 % 65536) % 65536 * 65536, 0#32)

def vShl (ty : Nat) := perBits ty shl
def vShr (ty : Nat) := perBits ty shr
def vSra (ty : Nat) := perBits ty sra
def vRot (ty : Nat) := perBits ty rotl
def vClz (ty : Nat) := perBits ty (fun w x _ => w - bitLen x)
def vPopc (ty : Nat) := perBits ty (fun w x _ => popcount w x)
def vBrev (ty : Nat) := perBits ty (fun w x _ => bitRev w x)

/-- Extract m' = min(m, w) bits of x from position p; signed when `sgnd` and m' > 0 (R96, R164). -/
def extractField (w : Nat) (sgnd : Bool) (x f : Nat) : Nat :=
  let p := bits f 7 0
  let m := min (bits f 15 8) w
  let e := x % 2 ^ w / 2 ^ p % 2 ^ m
  if sgnd && decide (0 < m) then low w (sgn m e) else e

/-- Insert the low m bits of x at position p of base y (R96, R164). -/
def insertField (w : Nat) (x y f : Nat) : Nat :=
  let p := bits f 7 0
  let m := bits f 15 8
  let mask := (2 ^ m - 1) * 2 ^ p % 2 ^ w
  (x * 2 ^ p % 2 ^ w &&& mask) ||| (y &&& notBits w mask)

def vBfe (ty : Nat) := whole (fun x f _ => extractField 32 (ty == 0) x f)
def vBfi := whole (fun x y f => insertField 32 x y f)

/-- A condition code on two values (Table 4.1): .eq .ne .lt .le .gt .ge. -/
def cond (cc : Nat) (x y : Int) : Bool :=
  match cc with
  | 0 => decide (x = y)
  | 1 => decide (x ≠ y)
  | 2 => decide (x < y)
  | 3 => decide (x ≤ y)
  | 4 => decide (y < x)
  | 5 => decide (y ≤ x)
  | _ => false

/-- The exact dot product of n elements of w bits from element i on (R98). -/
def dotSum (w : Nat) (sa sb : Bool) : Nat → Nat → Nat → Int
  | 0, _, _ => 0
  | n + 1, x, y =>
    (if sa then sgn w x else ((x % 2 ^ w : Nat) : Int)) * (if sb then sgn w y else ((y % 2 ^ w : Nat) : Int))
      + dotSum w sa sb n (x / 2 ^ w) (y / 2 ^ w)

/-- VDOT4 and VDOT2: `n` elements; md bits 1–0 SG, bit 2 SAT (R98). -/
def vDot (n md : Nat) (x y z : Nat) : Nat × BitVec 32 :=
  let sg := md % 4
  let w := 32 / n
  let acc : Int := if sg = 1 then ((z % 2 ^ 32 : Nat) : Int) else sgn 32 z
  let s := acc + dotSum w (sg == 0 || sg == 3) (sg == 0 || sg == 2) n x y
  if bitAt md 2 then
    let r := clampTo (sg ≠ 1) 32 s
    (low 32 r.1, r.2)
  else (low 32 s, 0#32)

/-! ## Effects on a group -/

/-- D := f(A, B, C) in every lane that takes part, all read before any is written (R89). -/
def vop (x : FR) (f : Nat → Nat → Nat → Nat × BitVec 32) (c : Ctx) (g : Group) : Eff :=
  .ok ((g.parts x.g.toNat).foldl (fun acc j =>
    let r := f (g.src c j x.a) (g.src c j x.b) (g.src c j x.c)
    (acc.setV j (regNum x.d) r.1).setStat j r.2) g) []

/-- Q := p(A, B) in every lane that takes part (R97). -/
def vcmpOp (gd : Nat) (d a b : Operand) (p : Nat → Nat → Bool) (c : Ctx) (g : Group) : Eff :=
  .ok ((g.parts gd).foldl (fun acc j => acc.setQ j (regNum d) (p (g.src c j a) (g.src c j b))) g) []

/-- VADDC and VSUBB: D and the predicate in C (R92). -/
def carryOp (sub : Bool) (x : FR) (c : Ctx) (g : Group) : Eff :=
  .ok ((g.parts x.g.toNat).foldl (fun acc j =>
    let cin : Int := if g.pred j x.c then 1 else 0
    let a : Int := (g.src c j x.a : Nat)
    let b : Int := (g.src c j x.b : Nat)
    let t := if sub then a - b - cin else a + b + cin
    (acc.setV j (regNum x.d) (low 32 t)).setQ j (regNum x.c) (if sub then decide (t < 0) else decide (2 ^ 32 ≤ t))) g) []

/-- VSEL. -/
def selOp (x : FR) (c : Ctx) (g : Group) : Eff :=
  .ok ((g.parts x.g.toNat).foldl (fun acc j =>
    acc.setV j (regNum x.d) (if g.pred j x.c then g.src c j x.a else g.src c j x.b)) g) []

/-- k of VINTI (Table 4.4). -/
def immK (md imm : Nat) : Nat :=
  if md = 0 then low 32 (sgn 24 imm) else if md = 1 then imm else imm * 256 % 2 ^ 32

/-- D := f(A, k). -/
def vopI (x : FI) (k : Nat) (f : Nat → Nat → Nat → Nat × BitVec 32) (c : Ctx) (g : Group) : Eff :=
  .ok ((g.parts x.g.toNat).foldl (fun acc j => acc.setV j (regNum x.d) (f (g.src c j x.a) k 0).1) g) []

/-- The registers an F-I word names. -/
def fiSpans (x : FI) : List (Nat × Nat) := x.d.span 1 ++ x.a.span 1

/-- VADR (R101): the second operand exact; `sub` subtracts it. -/
def wideOp (x : FR) (sh : Nat) (sub : Bool) (c : Ctx) (g : Group) : Eff :=
  let ty := tyOf x.md.toNat
  .ok ((g.parts x.g.toNat).foldl (fun acc j =>
    let a : Int := (g.wide c j x.a : Nat)
    let b : Int := if ty = 2 then (g.wide c j x.b : Nat) else if ty = 0 then sgn 32 (g.src c j x.b) else (g.src c j x.b : Nat)
    let r := low 64 (if sub then a - b else a + b * 2 ^ sh)
    (acc.setV j (regNum x.d) (r % 2 ^ 32)).setV j (regNum x.d + 1) (r / 2 ^ 32)) g) []

/-! ## Meanings -/

/-- VADD (R89). -/
def execVadd (x : FR) (s : State) : Res :=
  runLocal (.vadd x) (x.spans 1 1 1) s (vop x (vAdd (tyOf x.md.toNat)))

/-- VSUB (R89). -/
def execVsub (x : FR) (s : State) : Res :=
  runLocal (.vsub x) (x.spans 1 1 1) s (vop x (vSub (tyOf x.md.toNat)))

/-- VMUL (R89). -/
def execVmul (x : FR) (s : State) : Res :=
  runLocal (.vmul x) (x.spans 1 1 1) s (vop x (vMul (tyOf x.md.toNat)))

/-- VMULH (R90). -/
def execVmulh (x : FR) (s : State) : Res :=
  runLocal (.vmulh x) (x.spans 1 1 1) s (vop x (vMulh (tyOf x.md.toNat)))

/-- VMAD (R90). -/
def execVmad (x : FR) (s : State) : Res :=
  runLocal (.vmad x) (x.spans 1 1 1) s (vop x (vMad (tyOf x.md.toNat)))

/-- VDIV (R93). -/
def execVdiv (x : FR) (s : State) : Res :=
  runLocal (.vdiv x) (x.spans 1 1 1) s (vop x (vDiv (tyOf x.md.toNat)))

/-- VREM (R93). -/
def execVrem (x : FR) (s : State) : Res :=
  runLocal (.vrem x) (x.spans 1 1 1) s (vop x (vRem (tyOf x.md.toNat)))

/-- VABS (R91). -/
def execVabs (x : FR) (s : State) : Res :=
  runLocal (.vabs x) (x.spans 1 1 1) s (vop x (vAbs (tyOf x.md.toNat)))

/-- VNEG (R91). -/
def execVneg (x : FR) (s : State) : Res :=
  runLocal (.vneg x) (x.spans 1 1 1) s (vop x (vNeg (tyOf x.md.toNat)))

/-- VMIN (R91). -/
def execVmin (x : FR) (s : State) : Res :=
  runLocal (.vmin x) (x.spans 1 1 1) s (vop x (vMin (tyOf x.md.toNat)))

/-- VMAX (R91). -/
def execVmax (x : FR) (s : State) : Res :=
  runLocal (.vmax x) (x.spans 1 1 1) s (vop x (vMax (tyOf x.md.toNat)))

/-- VAND (R89). -/
def execVand (x : FR) (s : State) : Res :=
  runLocal (.vand x) (x.spans 1 1 1) s (vop x (vAnd))

/-- VOR (R89). -/
def execVor (x : FR) (s : State) : Res :=
  runLocal (.vor x) (x.spans 1 1 1) s (vop x (vOr))

/-- VXOR (R89). -/
def execVxor (x : FR) (s : State) : Res :=
  runLocal (.vxor x) (x.spans 1 1 1) s (vop x (vXor))

/-- VANDN (R89). -/
def execVandn (x : FR) (s : State) : Res :=
  runLocal (.vandn x) (x.spans 1 1 1) s (vop x (vAndn))

/-- VNOT (R89). -/
def execVnot (x : FR) (s : State) : Res :=
  runLocal (.vnot x) (x.spans 1 1 1) s (vop x (vNot))

/-- VSHL (R94). -/
def execVshl (x : FR) (s : State) : Res :=
  runLocal (.vshl x) (x.spans 1 1 1) s (vop x (vShl (tyOf x.md.toNat)))

/-- VSHR (R94). -/
def execVshr (x : FR) (s : State) : Res :=
  runLocal (.vshr x) (x.spans 1 1 1) s (vop x (vShr (tyOf x.md.toNat)))

/-- VSRA (R94). -/
def execVsra (x : FR) (s : State) : Res :=
  runLocal (.vsra x) (x.spans 1 1 1) s (vop x (vSra (tyOf x.md.toNat)))

/-- VROT (R94). -/
def execVrot (x : FR) (s : State) : Res :=
  runLocal (.vrot x) (x.spans 1 1 1) s (vop x (vRot (tyOf x.md.toNat)))

/-- VCLZ (R95). -/
def execVclz (x : FR) (s : State) : Res :=
  runLocal (.vclz x) (x.spans 1 1 1) s (vop x (vClz (tyOf x.md.toNat)))

/-- VPOPC (R95). -/
def execVpopc (x : FR) (s : State) : Res :=
  runLocal (.vpopc x) (x.spans 1 1 1) s (vop x (vPopc (tyOf x.md.toNat)))

/-- VBREV (R95). -/
def execVbrev (x : FR) (s : State) : Res :=
  runLocal (.vbrev x) (x.spans 1 1 1) s (vop x (vBrev (tyOf x.md.toNat)))

/-- VBFE (R96). -/
def execVbfe (x : FR) (s : State) : Res :=
  runLocal (.vbfe x) (x.spans 1 1 1) s (vop x (vBfe (tyOf x.md.toNat)))

/-- VBFI (R96). -/
def execVbfi (x : FR) (s : State) : Res :=
  runLocal (.vbfi x) (x.spans 1 1 1) s (vop x (vBfi))

/-- VMOV (R89). -/
def execVmov (x : FR) (s : State) : Res :=
  runLocal (.vmov x) (x.spans 1 1 1) s (vop x (vMov))

/-- VADDS (R91). -/
def execVadds (x : FR) (s : State) : Res :=
  runLocal (.vadds x) (x.spans 1 1 1) s (vop x (vAdds (tyOf x.md.toNat)))

/-- VSUBS (R91). -/
def execVsubs (x : FR) (s : State) : Res :=
  runLocal (.vsubs x) (x.spans 1 1 1) s (vop x (vSubs (tyOf x.md.toNat)))

/-- VDOT4 (R98). -/
def execVdot4 (x : FR) (s : State) : Res :=
  runLocal (.vdot4 x) (x.spans 1 1 1) s (vop x (vDot (if bitAt x.md.toNat 3 then 8 else 4) x.md.toNat))

/-- VDOT2 (R98). -/
def execVdot2 (x : FR) (s : State) : Res :=
  runLocal (.vdot2 x) (x.spans 1 1 1) s (vop x (vDot 2 x.md.toNat))

/-- VADDC (R92). -/
def execVaddc (x : FR) (s : State) : Res := runLocal (.vaddc x) (x.spans 1 1 1) s (carryOp false x)

/-- VSUBB (R92). -/
def execVsubb (x : FR) (s : State) : Res := runLocal (.vsubb x) (x.spans 1 1 1) s (carryOp true x)

/-- VSEL (R89). -/
def execVsel (x : FR) (s : State) : Res := runLocal (.vsel x) (x.spans 1 1 1) s (selOp x)

/-- x cc y under .i32 or .n32 (R97). -/
def cmp32 (unsigned : Bool) (cc x y : Nat) : Bool :=
  if unsigned then cond cc (x : Int) (y : Int) else cond cc (sgn 32 x) (sgn 32 y)

/-- VCMP (R97). -/
def execVcmp (x : FR) (s : State) : Res :=
  runLocal (.vcmp x) (x.spans 1 1 1) s
    (vcmpOp x.g.toNat x.d x.a x.b (cmp32 (bitAt x.md.toNat 0) (bits x.md.toNat 4 2)))

/-- VADDI (R99). -/
def execVaddi (x : FI) (s : State) : Res :=
  runLocal (.vaddi x) (fiSpans x) s (vopI x (immK x.md.toNat x.imm.toNat) (vAdd 0))

/-- VANDI (R99). -/
def execVandi (x : FI) (s : State) : Res :=
  runLocal (.vandi x) (fiSpans x) s (vopI x (immK x.md.toNat x.imm.toNat) (vAnd))

/-- VORI (R99). -/
def execVori (x : FI) (s : State) : Res :=
  runLocal (.vori x) (fiSpans x) s (vopI x (immK x.md.toNat x.imm.toNat) (vOr))

/-- VXORI (R99). -/
def execVxori (x : FI) (s : State) : Res :=
  runLocal (.vxori x) (fiSpans x) s (vopI x (immK x.md.toNat x.imm.toNat) (vXor))

/-- VMOVI (R99). -/
def execVmovi (x : FI) (s : State) : Res :=
  runLocal (.vmovi x) (fiSpans x) s (vopI x (immK x.md.toNat x.imm.toNat) (whole (fun _ k _ => k)))

/-- The count of an immediate shift, in every element (R99). -/
def immCount (x : FI) : Nat := if x.md = 2#2 then x.imm.toNat % 16 * 65537 else x.imm.toNat % 32

/-- VSHLI (R99). -/
def execVshli (x : FI) (s : State) : Res :=
  runLocal (.vshli x) (fiSpans x) s (vopI x (immCount x) (vShl x.md.toNat))

/-- VSHRI (R99). -/
def execVshri (x : FI) (s : State) : Res :=
  runLocal (.vshri x) (fiSpans x) s (vopI x (immCount x) (vShr x.md.toNat))

/-- VSRAI (R99). -/
def execVsrai (x : FI) (s : State) : Res :=
  runLocal (.vsrai x) (fiSpans x) s (vopI x (immCount x) (vSra x.md.toNat))

/-- VCMPI (R99): CC in IMM24 bits 23–21, k in bits 20–0. -/
def execVcmpi (x : FI) (s : State) : Res :=
  let k := if x.md = 0#2 then low 32 (sgn 21 x.imm.toNat) else x.imm.toNat % 2 ^ 21
  runLocal (.vcmpi x) (fiSpans x) s
    (vcmpOp x.g.toNat x.d x.a x.a (fun a _ => cmp32 (x.md == 1#2) (bits x.imm.toNat 23 21) a k))

/-- VLEA (R101). -/
def execVlea (x : FR) (s : State) : Res := runLocal (.vlea x) (vadrSpans x) s (wideOp x (bits x.md.toNat 4 2) false)

/-- VADDW (R101). -/
def execVaddw (x : FR) (s : State) : Res := runLocal (.vaddw x) (vadrSpans x) s (wideOp x 0 false)

/-- VSUBW (R101). -/
def execVsubw (x : FR) (s : State) : Res := runLocal (.vsubw x) (vadrSpans x) s (wideOp x 0 true)

/-! ## Halves (R50, Table 2.11) -/

/-- The half VADD. -/
def execVaddHalf (x : Half) (s : State) : Res :=
  runHalf (.vaddHalf x) (x.bin.spans 1 1 1) s (vop x.bin (vAdd (tyOf x.m5.toNat)))

/-- The half VSUB. -/
def execVsubHalf (x : Half) (s : State) : Res :=
  runHalf (.vsubHalf x) (x.bin.spans 1 1 1) s (vop x.bin (vSub (tyOf x.m5.toNat)))

/-- The half VMUL. -/
def execVmulHalf (x : Half) (s : State) : Res :=
  runHalf (.vmulHalf x) (x.bin.spans 1 1 1) s (vop x.bin (vMul (tyOf x.m5.toNat)))

/-- The half VAND. -/
def execVandHalf (x : Half) (s : State) : Res :=
  runHalf (.vandHalf x) (x.bin.spans 1 1 1) s (vop x.bin (vAnd))

/-- The half VOR. -/
def execVorHalf (x : Half) (s : State) : Res :=
  runHalf (.vorHalf x) (x.bin.spans 1 1 1) s (vop x.bin (vOr))

/-- The half VXOR. -/
def execVxorHalf (x : Half) (s : State) : Res :=
  runHalf (.vxorHalf x) (x.bin.spans 1 1 1) s (vop x.bin (vXor))

/-- The half VANDN. -/
def execVandnHalf (x : Half) (s : State) : Res :=
  runHalf (.vandnHalf x) (x.bin.spans 1 1 1) s (vop x.bin (vAndn))

/-- The half VSHL. -/
def execVshlHalf (x : Half) (s : State) : Res :=
  runHalf (.vshlHalf x) (x.bin.spans 1 1 1) s (vop x.bin (vShl (tyOf x.m5.toNat)))

/-- The half VSHR. -/
def execVshrHalf (x : Half) (s : State) : Res :=
  runHalf (.vshrHalf x) (x.bin.spans 1 1 1) s (vop x.bin (vShr (tyOf x.m5.toNat)))

/-- The half VSRA. -/
def execVsraHalf (x : Half) (s : State) : Res :=
  runHalf (.vsraHalf x) (x.bin.spans 1 1 1) s (vop x.bin (vSra (tyOf x.m5.toNat)))

/-- The half VMIN. -/
def execVminHalf (x : Half) (s : State) : Res :=
  runHalf (.vminHalf x) (x.bin.spans 1 1 1) s (vop x.bin (vMin (tyOf x.m5.toNat)))

/-- The half VMAX. -/
def execVmaxHalf (x : Half) (s : State) : Res :=
  runHalf (.vmaxHalf x) (x.bin.spans 1 1 1) s (vop x.bin (vMax (tyOf x.m5.toNat)))

/-- The half VMOV. -/
def execVmovHalf (x : Half) (s : State) : Res :=
  runHalf (.vmovHalf x) (x.un.spans 1 1 1) s (vop x.un (vMov))

/-- The half VNEG. -/
def execVnegHalf (x : Half) (s : State) : Res :=
  runHalf (.vnegHalf x) (x.un.spans 1 1 1) s (vop x.un (vNeg (tyOf x.m5.toNat)))

/-- The half VNOT. -/
def execVnotHalf (x : Half) (s : State) : Res :=
  runHalf (.vnotHalf x) (x.un.spans 1 1 1) s (vop x.un (vNot))

/-- The half VABS. -/
def execVabsHalf (x : Half) (s : State) : Res :=
  runHalf (.vabsHalf x) (x.un.spans 1 1 1) s (vop x.un (vAbs (tyOf x.m5.toNat)))

end Sys2Proof.Machine
end

