-- ==== Sys2Proof/Machine/Salu.lean ====
section
/-! DEFINITION. The scalar unit (ch. 07): SALU, SALUI and the scalar halves. -/

namespace Sys2Proof.Machine

/-- 64-bit values as signed or unsigned under the U bit (R162). -/
def rd64 (u : Bool) (x : Nat) : Int := if u then ((x % 2 ^ 64 : Nat) : Int) else sgn 64 x

def sAdd (a b _c : Nat) : Nat := low 64 ((a : Int) + b)
def sSub (a b _c : Nat) : Nat := low 64 ((a : Int) - b)
def sMul (a b _c : Nat) : Nat := a * b % 2 ^ 64
def sMulh (u : Bool) (a b _c : Nat) : Nat := low 64 ((rd64 u a * rd64 u b).fdiv (2 ^ 64))
def sAnd (a b _c : Nat) : Nat := a &&& b
def sOr (a b _c : Nat) : Nat := a ||| b
def sXor (a b _c : Nat) : Nat := a ^^^ b
def sAndn (a b _c : Nat) : Nat := a &&& notBits 64 b
def sShl (a b _c : Nat) : Nat := shl 64 a b
def sShr (a b _c : Nat) : Nat := shr 64 a b
def sSra (a b _c : Nat) : Nat := sra 64 a b
def sRot (a b _c : Nat) : Nat := rotl 64 a b
def sMin (u : Bool) (a b _c : Nat) : Nat := if rd64 u a ≤ rd64 u b then a else b
def sMax (u : Bool) (a b _c : Nat) : Nat := if rd64 u a ≤ rd64 u b then b else a
def sClz (a _b _c : Nat) : Nat := 64 - bitLen (a % 2 ^ 64)
def sPopc (a _b _c : Nat) : Nat := popcount 64 a
def sSel (a b c : Nat) : Nat := if c ≠ 0 then a else b
def sCmp (u : Bool) (cc a b _c : Nat) : Nat := (cond cc (rd64 u a) (rd64 u b)).toNat
def sBfe (u : Bool) (a b _c : Nat) : Nat := extractField 64 (!u) a b
def sBfi (a b c : Nat) : Nat := insertField 64 a b c

/-- D := f(a, b, c) (R161, R163). -/
def sop (x : FR) (f : Nat → Nat → Nat → Nat) (c : Ctx) (g : Group) : Eff :=
  .ok (g.setS (regNum x.d) (f (g.srcU c x.a) (g.srcU c x.b) (g.srcU c x.c))) []

/-- SDIV and SREM with their sticky bits (R164, Table 3.7). -/
def sdivOp (x : FR) (wantRem : Bool) (c : Ctx) (g : Group) : Eff :=
  let u := bitAt x.md.toNat 0
  let a := rd64 u (g.srcU c x.a)
  let b := rd64 u (g.srcU c x.b)
  if b = 0 then
    .ok ({ g with sdz := true }.setS (regNum x.d) (if wantRem then g.srcU c x.a else 2 ^ 64 - 1)) []
  else if !u && a = -(2 ^ 63 : Int) && b = -1 then
    .ok ({ g with sdov := true }.setS (regNum x.d) (if wantRem then 0 else 2 ^ 63)) []
  else .ok (g.setS (regNum x.d) (low 64 (if wantRem then a.tmod b else a.tdiv b))) []

/-- k of SALUI (Table 7.3). -/
def immK64 (md imm : Nat) : Nat := if md = 0 then low 64 (sgn 24 imm) else if md = 1 then imm else imm * 2 ^ 24

/-- D := f(a, k) (R165). -/
def sopI (x : FI) (f : Nat → Nat → Nat → Nat) (k : Nat) (c : Ctx) (g : Group) : Eff :=
  .ok (g.setS (regNum x.d) (f (g.srcU c x.a) k 0)) []

/-- SADD (R163). -/
def execSadd (x : FR) (s : State) : Res := runLocal (.sadd x) [] s (sop x (sAdd))

/-- SSUB (R163). -/
def execSsub (x : FR) (s : State) : Res := runLocal (.ssub x) [] s (sop x (sSub))

/-- SMUL (R163). -/
def execSmul (x : FR) (s : State) : Res := runLocal (.smul x) [] s (sop x (sMul))

/-- SMULH (R163). -/
def execSmulh (x : FR) (s : State) : Res := runLocal (.smulh x) [] s (sop x (sMulh (bitAt x.md.toNat 0)))

/-- SAND (R163). -/
def execSand (x : FR) (s : State) : Res := runLocal (.sand x) [] s (sop x (sAnd))

/-- SOR (R163). -/
def execSor (x : FR) (s : State) : Res := runLocal (.sor x) [] s (sop x (sOr))

/-- SXOR (R163). -/
def execSxor (x : FR) (s : State) : Res := runLocal (.sxor x) [] s (sop x (sXor))

/-- SANDN (R163). -/
def execSandn (x : FR) (s : State) : Res := runLocal (.sandn x) [] s (sop x (sAndn))

/-- SSHL (R164). -/
def execSshl (x : FR) (s : State) : Res := runLocal (.sshl x) [] s (sop x (sShl))

/-- SSHR (R164). -/
def execSshr (x : FR) (s : State) : Res := runLocal (.sshr x) [] s (sop x (sShr))

/-- SSRA (R164). -/
def execSsra (x : FR) (s : State) : Res := runLocal (.ssra x) [] s (sop x (sSra))

/-- SROT (R163). -/
def execSrot (x : FR) (s : State) : Res := runLocal (.srot x) [] s (sop x (sRot))

/-- SMIN (R163). -/
def execSmin (x : FR) (s : State) : Res := runLocal (.smin x) [] s (sop x (sMin (bitAt x.md.toNat 0)))

/-- SMAX (R163). -/
def execSmax (x : FR) (s : State) : Res := runLocal (.smax x) [] s (sop x (sMax (bitAt x.md.toNat 0)))

/-- SCLZ (R163). -/
def execSclz (x : FR) (s : State) : Res := runLocal (.sclz x) [] s (sop x (sClz))

/-- SPOPC (R163). -/
def execSpopc (x : FR) (s : State) : Res := runLocal (.spopc x) [] s (sop x (sPopc))

/-- SSEL (R163). -/
def execSsel (x : FR) (s : State) : Res := runLocal (.ssel x) [] s (sop x (sSel))

/-- SCMP (R163). -/
def execScmp (x : FR) (s : State) : Res := runLocal (.scmp x) [] s (sop x (sCmp (bitAt x.md.toNat 0) (bits x.md.toNat 4 2)))

/-- SBFE (R164). -/
def execSbfe (x : FR) (s : State) : Res := runLocal (.sbfe x) [] s (sop x (sBfe (bitAt x.md.toNat 0)))

/-- SBFI (R164). -/
def execSbfi (x : FR) (s : State) : Res := runLocal (.sbfi x) [] s (sop x (sBfi))

/-- SDIV (R164). -/
def execSdiv (x : FR) (s : State) : Res := runLocal (.sdiv x) [] s (sdivOp x false)

/-- SREM (R164). -/
def execSrem (x : FR) (s : State) : Res := runLocal (.srem x) [] s (sdivOp x true)

/-! ## SALUI (R165) -/

/-- SADDI (R165). -/
def execSaddi (x : FI) (s : State) : Res :=
  runLocal (.saddi x) [] s (sopI x sAdd (immK64 x.md.toNat x.imm.toNat))

/-- SANDI (R165). -/
def execSandi (x : FI) (s : State) : Res :=
  runLocal (.sandi x) [] s (sopI x sAnd (immK64 x.md.toNat x.imm.toNat))

/-- SORI (R165). -/
def execSori (x : FI) (s : State) : Res :=
  runLocal (.sori x) [] s (sopI x sOr (immK64 x.md.toNat x.imm.toNat))

/-- SXORI (R165). -/
def execSxori (x : FI) (s : State) : Res :=
  runLocal (.sxori x) [] s (sopI x sXor (immK64 x.md.toNat x.imm.toNat))

/-- SSHLI (R165). -/
def execSshli (x : FI) (s : State) : Res := runLocal (.sshli x) [] s (sopI x sShl (x.imm.toNat % 64))

/-- SSHRI (R165). -/
def execSshri (x : FI) (s : State) : Res := runLocal (.sshri x) [] s (sopI x sShr (x.imm.toNat % 64))

/-- SSRAI (R165). -/
def execSsrai (x : FI) (s : State) : Res := runLocal (.ssrai x) [] s (sopI x sSra (x.imm.toNat % 64))

/-- SCMPI (R165). -/
def execScmpi (x : FI) (s : State) : Res :=
  let u := x.md == 1#2
  let k := if u then x.imm.toNat % 2 ^ 21 else low 64 (sgn 21 x.imm.toNat)
  runLocal (.scmpi x) [] s (sopI x (sCmp u (bits x.imm.toNat 23 21)) k)

/-- SMOVI (R165). -/
def execSmovi (x : FI) (s : State) : Res :=
  runLocal (.smovi x) [] s (sopI x (fun _ k _ => k) (immK64 x.md.toNat x.imm.toNat))

/-- SMOVHI (R165). -/
def execSmovhi (x : FI) (s : State) : Res :=
  runLocal (.smovhi x) [] s (sopI x (fun a k _ => a % 2 ^ 48 + k * 2 ^ 48) (x.imm.toNat % 65536))

/-! ## Halves (R50, Table 2.11) -/

/-- The half SADD. -/
def execSaddHalf (x : Half) (s : State) : Res := runHalf (.saddHalf x) [] s (sop x.bin (sAdd))

/-- The half SSUB. -/
def execSsubHalf (x : Half) (s : State) : Res := runHalf (.ssubHalf x) [] s (sop x.bin (sSub))

/-- The half SAND. -/
def execSandHalf (x : Half) (s : State) : Res := runHalf (.sandHalf x) [] s (sop x.bin (sAnd))

/-- The half SOR. -/
def execSorHalf (x : Half) (s : State) : Res := runHalf (.sorHalf x) [] s (sop x.bin (sOr))

/-- The half SXOR. -/
def execSxorHalf (x : Half) (s : State) : Res := runHalf (.sxorHalf x) [] s (sop x.bin (sXor))

/-- The half SSHL. -/
def execSshlHalf (x : Half) (s : State) : Res := runHalf (.sshlHalf x) [] s (sop x.bin (sShl))

/-- The half SSHR. -/
def execSshrHalf (x : Half) (s : State) : Res := runHalf (.sshrHalf x) [] s (sop x.bin (sShr))

/-- The half SSRA. -/
def execSsraHalf (x : Half) (s : State) : Res := runHalf (.ssraHalf x) [] s (sop x.bin (sSra))

/-- The half SMIN. -/
def execSminHalf (x : Half) (s : State) : Res := runHalf (.sminHalf x) [] s (sop x.bin (sMin (bitAt x.m5.toNat 0)))

/-- The half SMAX. -/
def execSmaxHalf (x : Half) (s : State) : Res := runHalf (.smaxHalf x) [] s (sop x.bin (sMax (bitAt x.m5.toNat 0)))

/-- The half SMUL. -/
def execSmulHalf (x : Half) (s : State) : Res := runHalf (.smulHalf x) [] s (sop x.bin (sMul))

/-- The half SMOV: SOR D, S, %zero. -/
def execSmovHalf (x : Half) (s : State) : Res := runHalf (.smovHalf x) [] s (sop x.smov sOr)

/-- The half SADDI8: SADDI D, D, imm. -/
def execSaddi8Half (x : HalfI) (s : State) : Res :=
  runHalf (.saddi8Half x) [] s (sopI (x.fi true) sAdd (immK64 (x.fi true).md.toNat (x.fi true).imm.toNat))

/-- The half SMOVI8: SMOVI D, imm. -/
def execSmovi8Half (x : HalfI) (s : State) : Res :=
  runHalf (.smovi8Half x) [] s (sopI (x.fi false) (fun _ k _ => k) (immK64 (x.fi false).md.toNat (x.fi false).imm.toNat))

/-- The NOP half: no operation (R48). -/
def execNopHalf (rest : BitVec 24) (s : State) : Res := runHalf (.nopHalf rest) [] s (fun _ g => .ok g [])

end Sys2Proof.Machine
end

