-- ==== Sys2Proof/Machine/Mask.lean ====
section
/-! DEFINITION. The MASK family (R169) and the branches (R170–R174). -/

namespace Sys2Proof.Machine

/-- The bits of mask word w for a set of lanes. -/
def laneWord (ls : List Nat) (w : Nat) : Nat :=
  (ls.filter (fun j => j / 32 == w)).foldl (fun acc j => acc + 2 ^ (j % 32)) 0

/-- Set the mask words to a set of roster lanes (R158). -/
def Group.setMask (g : Group) (ls : List Nat) : Group :=
  ((g.setS 61 (laneWord ls 0)).setS 62 (laneWord ls 1)).setS 63 (laneWord ls 2)

/-- MSAVE (R169). -/
def execMsave (x : FR) (s : State) : Res :=
  runLocal (.msave x) [] s (fun _ g =>
    let d := regNum x.d
    .ok (((g.setS d (g.getS 61)).setS (d + 1) (g.getS 62)).setS (d + 2) (g.getS 63)) [])

/-- MREST (R169). -/
def execMrest (x : FR) (s : State) : Res :=
  runLocal (.mrest x) [] s (fun _ g =>
    let a := regNum x.a
    .ok (((g.setS 61 (g.getS a)).setS 62 (g.getS (a + 1))).setS 63 (g.getS (a + 2))) [])

/-- MSET (R169): the predicate of every roster lane. -/
def execMset (x : FR) (s : State) : Res :=
  runLocal (.mset x) [] s (fun _ g => .ok (g.setMask (g.roster.filter (fun j => g.pred j x.a))) [])

/-- MAND (R169). -/
def execMand (x : FR) (s : State) : Res :=
  runLocal (.mand x) [] s (fun _ g => .ok (g.setMask (g.active.filter (fun j => g.pred j x.a))) [])

/-- MANDN (R169). -/
def execMandn (x : FR) (s : State) : Res :=
  runLocal (.mandn x) [] s (fun _ g => .ok (g.setMask (g.active.filter (fun j => !g.pred j x.a))) [])

/-- The active record lanes whose predicate is 1 (R160, R169). -/
def Group.tested (g : Group) (q : Operand) : List Nat := g.active.filter (fun j => !g.help j && g.pred j q)

/-- MCNT (R169). -/
def execMcnt (x : FR) (s : State) : Res :=
  runLocal (.mcnt x) [] s (fun _ g => .ok (g.setS (regNum x.d) (g.tested x.a).length) [])

/-- MFIRST (R169). -/
def execMfirst (x : FR) (s : State) : Res :=
  runLocal (.mfirst x) [] s (fun _ g => .ok (g.setS (regNum x.d) ((g.tested x.a).headD 96)) [])

/-! ## Branches -/

/-- PC + 8 + 8 × OFF32, exact (R40, R171). -/
def branchTarget (x : FB) (pc : Nat) : Int := (pc : Int) + 8 + 8 * x.off.toInt

/-- Transfer to the label when the condition holds, else fall through (R171). -/
def branchIf (i : Instr) (x : FB) (s : State) (p : Group → Bool) : Res :=
  runWord i [] s (fun gid g =>
    if p g then s.transfer gid g (branchTarget x g.pc) false else s.setGroup gid g.advance)

/-- BRA (R171). -/
def execBra (x : FB) (s : State) : Res := branchIf (.bra x) x s (fun _ => true)

/-- The conditions of Table 7.8: 0–5 signed, 6 .ltn and 7 .gen unsigned (R171). -/
def branchCond (cnd a b : Nat) : Bool :=
  if cnd = 6 then decide (a < b) else if cnd = 7 then decide (b ≤ a) else cond cnd (sgn 64 a) (sgn 64 b)

/-- BCMP (R171). -/
def execBcmp (x : FB) (s : State) : Res :=
  branchIf (.bcmp x) x s (fun g => branchCond x.cnd.toNat (g.getS x.sa.toNat) (g.getS x.sb.toNat))

/-- BCMPI (R171): SB is the constant 0–63. -/
def execBcmpi (x : FB) (s : State) : Res :=
  branchIf (.bcmpi x) x s (fun g => branchCond x.cnd.toNat (g.getS x.sa.toNat) x.sb.toNat)

/-- CALL fills the return predictor of the group's core (R174). -/
def State.pushReturn (s : State) (g : Group) (off : Nat) : State :=
  match s.blockOf g with
  | some b => s.setCore b.core { s.core b.core with returns := off :: (s.core b.core).returns }
  | none => s

/-- RET takes the predictor's top entry (R174). -/
def State.popReturn (s : State) (g : Group) : State :=
  match s.blockOf g with
  | some b => s.setCore b.core { s.core b.core with returns := (s.core b.core).returns.tail }
  | none => s

/-- CALL (R171): the return offset and the transfer, or the transfer's trap and neither. -/
def execCall (x : FB) (s : State) : Res :=
  runWord (.call x) [] s (fun gid g =>
    let t := branchTarget x g.pc
    if t < 0 || (s.textSize g : Int) ≤ t then s.transfer gid g t false
    else (s.pushReturn g (g.pc + 8)).setGroup gid
      { g.setS x.sa.toNat (g.pc + 8) with pc := t.toNat, notBefore := s.afterTransfer g })

/-- RET (R171, R174). -/
def execRet (x : FB) (s : State) : Res :=
  runWord (.ret x) [] s (fun gid g =>
    let v := g.getS x.sa.toNat
    if v % 8 ≠ 0 || s.textSize g ≤ v then s.transfer gid g v true
    else (s.popReturn g).setGroup gid { g with pc := v, notBefore := s.afterTransfer g })

/-- JMPR (R171, R174). -/
def execJmpr (x : FB) (s : State) : Res :=
  runWord (.jmpr x) [] s (fun gid g => s.transfer gid g (g.getS x.sa.toNat) true)

/-- The lanes that BANY, BALL and BNONE test (R172). -/
def Group.testers (g : Group) : List Nat := g.active.filter (fun j => !g.help j)

/-- BANY (R172). -/
def execBany (x : FB) (s : State) : Res :=
  branchIf (.bany x) x s (fun g => g.testers.any (fun j => g.getQ j x.cnd.toNat))

/-- BALL (R172): taken when no lane is tested. -/
def execBall (x : FB) (s : State) : Res :=
  branchIf (.ball x) x s (fun g => g.testers.all (fun j => g.getQ j x.cnd.toNat))

/-- BNONE (R172). -/
def execBnone (x : FB) (s : State) : Res :=
  branchIf (.bnone x) x s (fun g => !g.testers.any (fun j => g.getQ j x.cnd.toNat))

end Sys2Proof.Machine
end

