-- ==== Sys2Proof/Machine/Ctl.lean ====
section
/-! DEFINITION. The CTL family (R175–R180, R211, R212, R214, R221, R380) and the order of a core's pending set
(R215, R218). -/

namespace Sys2Proof.Machine

/-! ## Active and pending sets -/

/-- Some lane of the roster is not parked. -/
def Group.someRunning (g : Group) : Bool := g.lanes.any (fun e => !e.2.parked)

/-- Waiting (R215), its next word's path counter apart. -/
def Group.waiting (g : Group) : Bool := g.wait != .ready || g.sealDue || g.parkedWhole || g.copying.isSome || !g.someRunning

/-- The major opcode of a full-form word, and its function code by format. -/
def wordMaj (w : Nat) : Nat := bits w 61 56
def fnR (w : Nat) : Nat := bits w 15 8
def fnM (w : Nat) : Nat := bits w 16 13

/-- The path on which a word starts an operation (Table 9.3). -/
def wordPath (w : Nat) : Option Path :=
  if bitAt w 62 then none
  else match wordMaj w with
    | 0x00 => if fnR w = 9 then some .st else none
    | 0x05 => if fnM w = 1 then some .st else some .ld
    | 0x1C => if fnM w = 6 then none else if fnM w % 2 = 1 then some .st else some .ld
    | 0x20 | 0x21 => some .at
    | 0x24 => if fnR w ≤ 2 then some .cp else if fnR w = 3 then none else some .xc
    | 0x28 => if fnR w = 6 then some .xc else none
    | 0x2C => if fnR w ≤ 2 then none else if fnR w = 7 then some .cp else some .mx
    | 0x2D => some .mx
    | _ => none

/-- The group waits: its next word would raise a counter that stands at 63 (R215, R220). -/
def Group.pathFull (g : Group) (w : Nat) : Bool :=
  match wordPath w with
  | none => false
  | some p => decide (63 ≤ g.count p)

/-- The IA of a group's next word, and its key in the instruction cache. -/
def Block.fetchIa (b : Block) (g : Group) : Nat := b.node.textIa + g.pc

def fetchKey (part ia : Nat) : Nat := 2 ^ 52 * part + ia / 8

/-- The next word, when the cluster's instruction cache holds it. -/
def State.cachedWord (s : State) (g : Group) (b : Block) : Option Nat :=
  (AMap.find (fetchKey b.part (b.fetchIa g)) (s.cluster (b.core / 4)).icache).map BitVec.toNat

/-- Waiting (R215), a full path counter among the reasons. -/
def State.waits (s : State) (g : Group) : Bool :=
  g.waiting || match s.blockOf g with
    | none => true
    | some b =>
      match s.cachedWord g b with
      | some w => g.pathFull w
      | none => false

/-- The groups of a core, with their ids. -/
def State.groupsOn (s : State) (core : Nat) : List (Nat × Group) :=
  s.groups.filter (fun e => match AMap.find e.2.block s.blocks with
    | some b => b.core == core && b.mode != .saved
    | none => false)

/-- a goes before b in the pending set (R218). -/
def pendingBefore (a b : Group) : Bool :=
  if a.promoted != b.promoted then a.promoted
  else if a.promoted then decide (a.since < b.since)
  else if a.cls ≠ b.cls then decide (b.cls < a.cls)
  else if a.age ≠ b.age then decide (a.age < b.age)
  else decide (a.since < b.since)

/-- The first of a list under an order. -/
def bestBy (before : Group → Group → Bool) : List (Nat × Group) → Option (Nat × Group)
  | [] => none
  | e :: rest =>
    match bestBy before rest with
    | none => some e
    | some f => if before f.2 e.2 then some f else some e

/-- The first ready pending group of a core (R218). -/
def State.bestPending (s : State) (core : Nat) : Option Nat :=
  (bestBy pendingBefore ((s.groupsOn core).filter (fun e => !e.2.inActive && !s.waits e.2))).map Prod.fst

/-- Swap an active group with a pending one, which takes its slot (R214, R218). -/
def State.swapIn (s : State) (core out inn : Nat) : State :=
  let t := (s.core core).clk
  let slot := match AMap.find out s.groups with
    | some g => g.slot
    | none => 0
  let s := s.adjGroup out (fun g => { g with inActive := false, since := t, promoted := false })
  s.adjGroup inn (fun g => { g with inActive := true, slot := slot, since := t, passCount := 0, promoted := false })

/-! ## Meanings -/

/-- NOP (R175). -/
def execNop (x : FR) (s : State) : Res := runLocal (.nop x) [] s (fun _ g => .ok g [])

/-- END (R176): the rest of END happens when the group's operations are done. -/
def execEndGroup (x : FR) (s : State) : Res := runWord (.endGroup x) [] s (fun gid g => (s.setGroup gid g.advance).beginEnd gid)

/-- YIELD (R214). -/
def execYield (x : FR) (s : State) : Res :=
  runWord (.yield x) [] s (fun gid g =>
    let s' := s.setGroup gid g.advance
    match s.blockOf g with
    | none => s'
    | some b =>
      match g.inActive, s.bestPending b.core with
      | true, some other => s'.swapIn b.core gid other
      | _, _ => s')

/-- TRAP (R179). -/
def execTrap (x : FR) (s : State) : Res :=
  runWord (.trap x) [] s (fun gid g => s.enterTrap gid g 0x0A (g.srcU (s.ctx g) x.a) (g.pc + 8))

/-- TRET (R180). -/
def execTret (x : FR) (s : State) : Res := runWord (.tret x) [] s (fun gid g => s.leaveTrap gid g)

/-- GSTAT (Table 7.5). -/
def Group.gstat (g : Group) : Nat :=
  g.alloc * 256 + g.sdov.toNat * 64 + g.sdz.toNat * 32 + g.strict.toNat * 16 + g.split.toNat * 8 + g.grid.toNat * 4
    + g.mtx.toNat * 2 + g.intrap.toNat

/-- A special register (Table 7.4). -/
def Group.special64 (g : Group) (c : Ctx) (node n : Nat) : Nat :=
  match n with
  | 0 => g.gstat
  | 1 => g.trapkind.toNat
  | 2 => g.trappc.toNat
  | 3 => g.trapinfo.toNat
  | 4 => node
  | 5 => g.reccnt
  | 6 => g.count .ld
  | 7 => g.count .st
  | 8 => g.count .at
  | 9 => g.count .cp
  | 10 => g.count .mx
  | 11 => g.count .xc
  | 12 => g.fpxmask.toNat
  | 13 => c.cyc
  | _ => 0

/-- The node's index (NODEID). -/
def State.nodeId (s : State) (g : Group) : Nat :=
  match s.blockOf g with
  | some b => b.nodeIdx
  | none => 0

/-- SRD (R166). -/
def execSrd (x : FR) (s : State) : Res :=
  runLocal (.srd x) [] s (fun c g => .ok (g.setS (regNum x.d) (g.special64 c (s.nodeId g) (regNum x.a))) [])

/-- SWR (R166): TRAPPC clears bits 2–0, FPXMASK keeps bits 4–0. -/
def execSwr (x : FR) (s : State) : Res :=
  runLocal (.swr x) [] s (fun c g =>
    let v := g.srcU c x.b
    if regNum x.a = 2 then .ok { g with trappc := BitVec.ofNat 64 (v / 8 * 8) } []
    else .ok { g with fpxmask := BitVec.ofNat 5 v } [])

/-- A count that GROW and SHRINK admit (R177). -/
def countOk (n : Nat) : Bool := n % 16 == 0 && decide (16 ≤ n) && decide (n ≤ 256)

/-- GROW (R177, R211). -/
def execGrow (x : FR) (s : State) : Res :=
  runLocal (.grow x) [] s (fun c g =>
    let n := g.srcU c x.a
    if !countOk n then .trap 0x09 0x23
    else if n ≤ 16 * g.alloc then .ok g []
    else .ok { g with wait := .grow n } [])

/-- SHRINK (R177, R212). -/
def execShrink (x : FR) (s : State) : Res :=
  runLocal (.shrink x) [] s (fun c g =>
    let n := g.srcU c x.a
    if !countOk n then .trap 0x09 0x23
    else if g.mtx && decide (n < 256) then .trap 0x06 0x61
    else if 16 * g.alloc ≤ n then .ok g []
    else .ok { g with wait := .shrink n } [])

/-- The path of an index (Table 9.3). -/
def pathOf (n : Nat) : Path :=
  match n with
  | 0 => .ld | 1 => .st | 2 => .at | 3 => .cp | 4 => .mx | _ => .xc

/-- WAITC (R177, R221): a threshold above 63 reads as 63. -/
def execWaitc (x : FR) (s : State) : Res :=
  runLocal (.waitc x) [] s (fun c g =>
    let p := pathOf (regNum x.a)
    let t := min 63 (g.srcU c x.b)
    if g.count p ≤ t then .ok g [] else .ok { g with wait := .waitc p t } [])

/-! ## EMIT (R380) -/

/-- The loaded graph of a group's node. -/
def State.graphOf (s : State) (g : Group) : Option (Nat × Nat × Graph) :=
  match s.blockOf g with
  | none => none
  | some b => (AMap.find b.graph (s.part b.part).graphs).map (fun gr => (b.part, b.graph, gr))

/-- The edges of a node's port, in the order of the edge table. -/
def State.edgesOf (s : State) (g : Group) (port : Nat) : List Edge :=
  match s.graphOf g with
  | none => []
  | some (_, _, gr) => gr.edges.filter (fun e => e.src == s.nodeId g && e.port == port)

/-- n of R380: the words of the records that the port's edges carry, or 1. -/
def State.emitWords (s : State) (g : Group) (port : Nat) : Nat :=
  match s.edgesOf g port, s.graphOf g with
  | e :: _, some (_, _, gr) =>
    match gr.nodes[e.dst]? with
    | some nd => nd.recSize / 4
    | none => 1
  | _, _ => 1

/-- The registers from r up in lane j, n of them, as one number of 4n bytes. -/
def Group.regsFrom (g : Group) (j : Nat) : Nat → Nat → Nat
  | 0, _ => 0
  | n + 1, r => g.getV j r + 2 ^ 32 * g.regsFrom j n (r + 1)

/-- Write n registers from r up in lane j. -/
def Group.putRegs (g : Group) (j : Nat) : Nat → Nat → Nat → Group
  | 0, _, _ => g
  | n + 1, r, x => (g.setV j r (x % 2 ^ 32)).putRegs j n (r + 1) (x / 2 ^ 32)

/-- An operation before it takes its id. -/
def Op.make (path : Path) (kind : OpKind) (lanes : List LaneReq) (serves : List Nat) : Op :=
  { id := 0, path := path, kind := kind, stamp := 0, size := 4, cls := 0, acq := 0, rel := 0, tensor := 0, lanes := lanes,
    serves := serves, progress := 0, complete := false, wasParked := false, issued := 0 }

/-- A lane's part before anything of it is done. -/
def LaneReq.make (j va : Nat) : LaneReq :=
  { lane := j, va := va, ia := 0, cap := 0, home := 0xFF, data := 0, cmp := 0, val := 0, tag := 0, st := .waiting, unf := false }

/-- EMIT (R380, R336): the records wait for the release; a port without an edge loses them. The release commits the
block (DEDUCED, log 13). -/
def execEmit (x : FR) (s : State) : Res :=
  runWord (.emit x) [] s (fun gid g =>
    let port := regNum x.a
    let n := s.emitWords g port
    let r := regNum x.b
    if 255 < r + n - 1 || 16 * g.alloc ≤ r + n - 1 then s.enterTrap gid g 0x09 0x21 g.pc
    else
      let ls := (g.parts x.g.toNat).filter (fun j => !g.help j)
      let g' := g.advance
      if (s.edgesOf g port).isEmpty then
        let s := ((s.setGroup gid g').emitLost g ls.length).newOp gid { Op.make .st .emit [] ls with complete := true }
        s.adjGroup gid Group.retire
      else
        let reqs := ls.map (fun j => { LaneReq.make j port with data := g.regsFrom j n r })
        let s := (s.setGroup gid g').commit g.block
        let s := s.newOp gid { Op.make .st .emit reqs ls with size := 4 * n, rel := 4, complete := reqs.isEmpty }
        s.adjGroup gid Group.retire)

end Sys2Proof.Machine
end

