-- ==== Sys2Proof/Machine/Access.lean ====
section
/-! DEFINITION. Accesses from issue to landing: range translation (R130–R134), when an operation may start beside the
earlier ones of its group (R321, R326, R327, R330, R331), what starting does at the core (R138, R148, R149, R324,
R388), and how results land (R137, R139, R147, R272). -/

namespace Sys2Proof.Machine

/-! ## Range tables (R130, R131) -/

/-- A range descriptor as four 64-bit words (Table 6.2). -/
structure Desc where
  w0 : Nat
  w1 : Nat
  w2 : Nat
  w3 : Nat
  deriving DecidableEq, Repr

/-- The descriptors of a table held as words. -/
def descsOf : List Nat → List Desc
  | a :: b :: c :: d :: rest => ⟨a, b, c, d⟩ :: descsOf rest
  | _ => []

def Desc.v (d : Desc) : Bool := bitAt d.w0 0
def Desc.r (d : Desc) : Bool := bitAt d.w0 1
def Desc.w (d : Desc) : Bool := bitAt d.w0 2
def Desc.vbase (d : Desc) : Nat := bits d.w0 56 12 * 4096
def Desc.vend (d : Desc) : Nat := bits d.w1 56 12 * 4096
def Desc.iabase (d : Desc) : Nat := bits d.w2 55 12 * 4096
def Desc.cap (d : Desc) : Nat := bits d.w2 1 0
def Desc.home (d : Desc) : Nat := bits d.w3 7 0

/-- The outcome of a translation (R131). -/
inductive Trans where
  | fault (kind : Nat)
  | ok (ia cap home : Nat)
  deriving DecidableEq, Repr

/-- Translate (R131): the lowest descriptor that covers the address decides. -/
def translate (t : List Desc) (needR needW : Bool) (va : Nat) : Trans :=
  if 2 ^ 57 ≤ va then .fault 0x01
  else match t.find? (fun d => d.v && decide (d.vbase ≤ va) && decide (va < d.vend)) with
    | none => .fault 0x01
    | some d =>
      if (needR && !d.r) || (needW && !d.w) then .fault 0x02
      else .ok (d.iabase + (va - d.vbase)) d.cap d.home

/-- The range table of a stamp as a core sees it, through its cache of 16, most recent first (R133). A missing stamp is
fetched as registered (DESIGN CHOICE, log 48). -/
def State.rangeTable (s : State) (core part stamp : Nat) : List Nat × State :=
  let key := 65536 * part + stamp
  let c := s.core core
  let t := match c.ranges.find? (fun e => e.1 = key) with
    | some e => e.2
    | none => match AMap.find stamp (s.part part).stamps with
      | some r => r.descs
      | none => []
  (t, s.setCore core { c with ranges := ((key, t) :: c.ranges.filter (fun e => e.1 != key)).take 16 })

/-! ## Requests of an operation -/

/-- The stamp under which a request translates: the lane's, or the leading lane's for an access made for the group. -/
def Group.reqStamp (g : Group) (o : Op) (r : LaneReq) : Nat :=
  if o.kind.whole then o.stamp
  else match AMap.find r.lane g.lanes with
    | some l => l.stamp.toNat
    | none => o.stamp

/-- The rights an access needs (R131). -/
def OpKind.needs : OpKind → Bool × Bool
  | .load _ _ => (true, false)
  | .store _ _ _ => (false, true)
  | .atomic _ _ _ _ => (true, true)
  | .scratchLoad _ | .constLoad _ | .slotLoad _ | .scratchStore | .slotStore | .emit | .copy .. | .discard .. | .coll ..
  | .acpy .. | .grid | .ldsc _ | .xput .. | .cbar _ => (false, false)

/-- A kind whose lanes hold addresses of their own, which the core translates; the others' accesses translate as their
units make them. -/
def OpKind.translates : OpKind → Bool
  | .load _ _ | .store _ _ _ | .atomic _ _ _ _ => true
  | .scratchLoad _ | .constLoad _ | .slotLoad _ | .scratchStore | .slotStore | .emit | .copy .. | .discard .. | .coll ..
  | .acpy .. | .grid | .ldsc _ | .xput .. | .cbar _ => false

/-- ACCESS of a fault record (Table 19.7). -/
def OpKind.access : OpKind → Nat
  | .store _ _ _ => 1
  | .atomic _ _ _ _ => 2
  | .copy .. | .discard .. | .coll .. => 3
  | .load _ _ | .scratchLoad _ | .constLoad _ | .slotLoad _ | .scratchStore | .slotStore | .emit | .acpy .. | .grid
  | .ldsc _ | .xput .. | .cbar _ => 0

/-- Translate one waiting lane. -/
def State.translateReq (s : State) (core part : Nat) (stamp : Nat) (needs : Bool × Bool) (cls : Cls) (r : LaneReq) :
    LaneReq × State :=
  match r.st with
  | .waiting =>
    let (t, s) := s.rangeTable core part stamp
    match translate (descsOf t) needs.1 needs.2 r.va with
    | .fault k => ({ r with st := .faulted k }, s)
    | .ok ia cap home => ({ r with ia := ia, cap := min cls cap, home := s.home part home ia }, s)
  | .sent | .answered | .faulted _ | .parked _ | .held | .done => (r, s)

def State.translateReqs (core part : Nat) (stampOf : LaneReq → Nat) (needs : Bool × Bool) (cls : Cls) :
    List LaneReq → State → List LaneReq × State
  | [], s => ([], s)
  | r :: rest, s =>
    let (r', s) := s.translateReq core part (stampOf r) needs cls r
    let (rs, s) := State.translateReqs core part stampOf needs cls rest s
    (r' :: rs, s)

/-- The fault kind of a lane, if it has met one that is not yet parked. -/
def LaneReq.faultKind (r : LaneReq) : Option Nat :=
  match r.st with
  | .faulted k => some k
  | .waiting | .sent | .answered | .parked _ | .held | .done => none

/-- A group's place in a fault record, from its block. -/
def State.recordFor (s : State) (g : Group) (b : Block) (stamp access kind page sect lane : Nat) : FaultRec :=
  { serial := 0#32, dup := 0, sect := sect, lane := lane, group := g.place, core := s.denseCore b.part b.core,
    part := b.part, stamp := stamp, access := access, kind := kind, page := page }

/-- Range faults of one operation: one record for each stamp, granule and kind (R134). PAGE holds bits 56–12 of an address
that lies past them (DESIGN CHOICE, log 69). -/
def State.recordRange (s : State) (g : Group) (b : Block) (o : Op) (bad : List LaneReq) : State :=
  let key (r : LaneReq) := (g.reqStamp o r, r.va / 4096, r.faultKind.getD 0)
  let lead (k : Nat × Nat × Nat) : Nat :=
    if o.kind.whole then 0 else ((bad.find? (fun r => key r == k)).map LaneReq.lane).getD 0
  ((bad.map key).eraseDups).foldl
    (fun s k => s.record (s.recordFor g b k.1 o.kind.access k.2.2 (k.2.1 % 2 ^ 45) 0 (lead k))) s

/-- Translate the waiting lanes of an operation; failing ones are recorded and parked (R134, R268). -/
def State.translateOp (s : State) (gid id : Nat) : State :=
  match AMap.find gid s.groups with
  | none => s
  | some g =>
    match g.findOp id, s.blockOf g with
    | some o, some b =>
      if !o.kind.translates then s
      else
        let before := o.lanes.filter (fun r => r.st == .waiting)
        let (rs, s) := State.translateReqs b.core b.part (g.reqStamp o) o.kind.needs o.cls o.lanes s
        let s := s.adjGroup gid (fun g => g.adjOp id (fun o => { o with lanes := rs }))
        let bad := rs.filter (fun r => r.faultKind.isSome && before.any (fun q => q.lane == r.lane))
        if bad.isEmpty then s
        else (s.recordRange g b o bad).adjGroup gid (fun g => g.park id)
    | _, _ => s

/-! ## When an operation may start -/

/-- The access of this lane is performed, as far as the core can tell. -/
def LaneReq.finished (r : LaneReq) : Bool := r.st == .answered || r.st == .done

/-- The lane's address is known: it did not fail range translation. -/
def LaneReq.located (r : LaneReq) : Bool :=
  match r.st with
  | .parked k | .faulted k => decide (2 < k)
  | .waiting | .sent | .answered | .held | .done => true

/-- Some unfinished access of `p` touches n bytes at an IA; `line` compares whole 128-byte lines. -/
def Op.touches (p : Op) (ia n : Nat) (line : Bool) : Bool :=
  p.lanes.any (fun r => !r.finished && r.located &&
    if line then r.ia / 128 == ia / 128 else decide (r.ia < ia + n) && decide (ia < r.ia + p.size))

/-- Some unfinished access of `p` overlaps one of `o`. -/
def Op.overlaps (p o : Op) (line : Bool) : Bool := o.lanes.any (fun q => p.touches q.ia o.size line)

/-- An access of memory or of a scratch window, whose addresses `overlaps` compares. -/
def OpKind.inMem : OpKind → Bool
  | .load .. | .store .. | .atomic .. | .scratchLoad _ | .scratchStore => true
  | .constLoad _ | .slotLoad _ | .slotStore | .emit | .copy .. | .discard .. | .coll .. | .acpy .. | .grid | .ldsc _
  | .xput .. | .cbar _ => false

/-- A plain store, which enters the commit buffer in issue order (R321). -/
def Op.plainStore (o : Op) : Bool :=
  match o.kind with
  | .store _ _ ack => !ack && o.rel == 0
  | _ => false

/-- The earlier operation `p` keeps `o` from starting (R321, R323, R327, R330, R331). A scratch load may pass an
earlier scratch store (Table 10.3). -/
def Op.blocks (p o : Op) : Bool :=
  let mem := p.kind.inMem && o.kind.inMem
  if p.complete then false
  else if p.acq ≠ 0 then true
  else match p.path, o.path with
    | .ld, .st => mem && p.overlaps o false
    | .ld, .at => mem && p.overlaps o false
    | .st, .ld => mem && p.kind != .scratchStore && p.overlaps o false
    | .st, .st => (mem && p.overlaps o false)
        || (p.plainStore && o.plainStore && p.lanes.any (fun r => r.st == .waiting))
    | .st, .at => mem && p.overlaps o false
    | .at, .ld => mem && p.overlaps o true
    | .at, .st => mem && p.overlaps o false
    | .at, .at => mem && p.overlaps o false
    | _, _ => false

/-- No earlier operation of the group stands in the way. -/
def Group.mayStart (g : Group) (o : Op) : Bool := !g.ops.any (fun p => decide (p.id < o.id) && p.blocks o)

/-! ## Plain accesses of a unit beside its group's own (R255, R258) -/

/-- An earlier operation of the group keeps a unit's plain load, or store, of n bytes at an IA from being made: as it would keep the
group's own (R321, R327, R330, R331). -/
def Group.keepsUnit (g : Group) (id ia n : Nat) (store : Bool) : Bool :=
  g.ops.any (fun p => decide (p.id < id) && !p.complete && (p.acq != 0 || (p.kind.inMem && match p.path with
    | .ld => store && p.touches ia n false
    | .st => p.touches ia n false || (store && p.plainStore && p.lanes.any (fun r => r.st == .waiting))
    | .at => p.touches ia n (!store)
    | .cp | .mx | .xc => false)))

/-- n bytes from an address on as parts within blocks of g bytes: address, bytes before it, its length. -/
def partsWithin (g va n : Nat) : List (Nat × Nat × Nat) :=
  (List.range ((va % g + n + g - 1) / g)).map (fun i =>
    let lo := max va (va / g * g + g * i)
    (lo, lo - va, min (va + n) (va / g * g + g * (i + 1)) - lo))

/-- Bytes of an element in ACPY's memory format. -/
def acpyBytes (cv : Nat) : Nat := if cv = 0 then 4 else if cv = 3 then 1 else 2

/-- The memory that a unit's plain load has still to read: LDSC's column, and ACPY .ld's rows from the one to which it has come;
address and bytes of each run. -/
def Op.unitLoads (o : Op) : List (Nat × Nat) :=
  match o.kind, o.lanes with
  | .ldsc _, [r] => [(r.va, 384)]
  | .acpy true base _ _ pitch cv false _, [_] =>
    (List.range (96 - o.progress / 96)).map (fun i => (base + (o.progress / 96 + i) * pitch, 96 * acpyBytes cv))
  | _, _ => []

/-- A unit has asked for n bytes at an IA for an operation, or has them. -/
def State.unitAsked (s : State) (gid op ia n : Nat) : Bool :=
  s.reqs.any (fun e => e.2.src == .engine gid op && e.2.ask == .readBytes n && e.2.ia == ia)

/-- A store or an atomic of the group waits for an earlier load that a unit makes for the group and that has not yet asked for bytes
that it is to change: a load never reads a store that its own group issued after it (R321). -/
def State.behindUnit (s : State) (gid : Nat) (g : Group) (o : Op) : Bool :=
  o.path != .ld && g.ops.any (fun p => decide (p.id < o.id) && !p.complete && !p.unitLoads.isEmpty && match s.blockOf g with
    | none => false
    | some b =>
      let t := descsOf (s.rangeTable b.core b.part p.stamp).1
      p.unitLoads.any (fun e => (partsWithin 16 e.1 e.2).any (fun q => match translate t true false q.1 with
        | .fault _ => false
        | .ok ia _ _ => !s.unitAsked gid p.id ia q.2.2 && o.lanes.any (fun r =>
            r.st == .waiting && decide (r.ia < ia + q.2.2) && decide (ia < r.ia + o.size)))))

/-! ## Starting -/

/-- A request packet of an operation, before it is given what it asks. -/
def Group.reqOf (g : Group) (b : Block) (gid : Nat) (o : Op) (r : LaneReq) : Req :=
  { ask := .read, src := .group gid o.id [r.lane], part := b.part, ppm := 0#8, ia := r.ia, home := r.home, cls := r.cap,
    stamp := g.reqStamp o r, tensor := o.tensor, block := g.block, postmark := b.postmark, seq := 0#16, core := b.core,
    hops := [], st := .transit, since := 0, arrival := 0, from_ := clusterStation b.core }

/-- A plain load's lane at the core: the commit buffer's bytes, then L1's; what is still missing comes from the home
slice (R324). -/
def loadLane (b : Block) (c : Core) (size : Nat) (r : LaneReq) : LaneReq :=
  match r.st with
  | .waiting =>
    let (m, x) := bufRead b.buffer r.ia size
    if m = 2 ^ size - 1 then { r with val := x, st := .answered, unf := false }
    else match c.l1Read b.part r.ia size m with
      | some d => { r with val := mixBytes size m x d, st := .answered, unf := false }
      | none => { r with data := x, cmp := m, st := .sent }
  | .sent | .answered | .faulted _ | .parked _ | .held | .done => r

/-- An acquire of scope .coh or wider reads at the home slice (R327). -/
def sentLane (r : LaneReq) : LaneReq :=
  if r.st == .waiting then { r with data := 0, cmp := 0, st := .sent } else r

/-- One read request for each stamp and 128-byte line (R388). -/
def State.sendReads (gid : Nat) (g : Group) (b : Block) (o : Op) (rs : List LaneReq) (s : State) : State :=
  ((rs.map (fun r => (g.reqStamp o r, r.ia / 128))).eraseDups).foldl (fun s k =>
    match rs.filter (fun r => g.reqStamp o r == k.1 && r.ia / 128 == k.2) with
    | [] => s
    | r :: rest =>
      let base := g.reqOf b gid o r
      s.send { base with ia := 128 * k.2, src := .group gid o.id (r.lane :: rest.map LaneReq.lane) }) s

/-- The write packets of the core's other blocks, not yet performed, whose bytes an access of the block meets in L1. -/
def State.unperformedAt (s : State) (block : Nat) (b : Block) (ia size : Nat) : List Nat :=
  (s.reqs.filter (fun e => e.2.src == .commit && e.2.pending && e.2.core == b.core && e.2.part == b.part && e.2.block != block
    && match e.2.ask with
      | .write n _ _ => decide (e.2.ia < ia + size) && decide (ia < e.2.ia + n)
      | .read | .readBytes _ | .prefetch | .atomic _ _ _ _ | .discard _ => false)).map Prod.fst

/-- What a group reads in L1 of other blocks' stores, it has read before they are performed (R326). -/
def State.readEarly (s : State) (gid : Nat) (g : Group) (b : Block) (size : Nat) (ias : List Nat) : State :=
  match (ias.filter (fun ia => (bufRead b.buffer ia size).1 != 2 ^ size - 1)).flatMap (fun ia => s.unperformedAt g.block b ia size) with
  | [] => s
  | l => s.adjGroup gid (fun g => { g with seen := (g.seen.filter (fun k => (AMap.find k s.reqs).any Req.pending) ++ l).eraseDups })

def State.startLoad (s : State) (gid : Nat) (o : Op) : State :=
  match AMap.find gid s.groups with
  | none => s
  | some g =>
    let ready := o.lanes.filter (fun r => r.st == .waiting)
    let home := decide (3 ≤ o.acq)
    let s := match s.blockOf g with
      | some b => if home && ready.any (fun r => bufHasLine b.buffer r.ia) then s.commit g.block else s
      | none => s
    match s.blockOf g with
    | none => s
    | some b =>
      let rs := o.lanes.map (if home then sentLane else loadLane b (s.core b.core) o.size)
      let fresh := (o.lanes.zip rs).filter (fun e => e.1.st == .waiting && e.2.st == .sent)
      let held := (o.lanes.zip rs).filter (fun e => e.1.st == .waiting && e.2.st == .answered)
      let s := (s.adjGroup gid (fun g => g.adjOp o.id (fun o => { o with lanes := rs }))).readEarly gid g b o.size
        (held.map (fun e => e.2.ia))
      s.sendReads gid g b o (fresh.map Prod.snd)

/-- The core drops its copy of a line (R331). -/
def State.dropLine (s : State) (core part ia : Nat) : State := s.setCore core ((s.core core).l1DropLine part ia)

/-- A commit point that the group has issued behind an operation commits its stores as they enter the buffer; the group answers
for their packets as for earlier ones (R322, R329, DEDUCED, log 68). -/
def State.commitLate (s : State) (gid id : Nat) : State :=
  match AMap.find gid s.groups with
  | some g =>
    if id < g.commitTo then
      let s' := s.commit g.block
      s'.adjGroup gid (fun g => { g with seen := g.seen ++ (List.range (s'.nextId - s.nextId)).map (· + s.nextId) })
    else s
  | none => s

/-- The waiting lanes of a store enter the commit buffer, in ascending lane order, and are done (R137, R138). Each lane's
bytes count against the buffer's room, those of overlapping stores each (DESIGN CHOICE, log 70). -/
def State.bufferStore (s : State) (gid : Nat) (o : Op) : State :=
  match AMap.find gid s.groups with
  | none => s
  | some g =>
    let ready := o.lanes.filter (fun r => r.st == .waiting)
    let es := ready.map (fun r => BufEntry.store r.ia o.size r.data r.cap r.home o.tensor (g.reqStamp o r) gid o.id)
    let s := s.adjBlock g.block (fun b => { b with buffer := b.buffer ++ es, bufUsed := b.bufUsed + o.size * es.length })
    (s.adjGroup gid (fun g => g.adjOp o.id (fun o => { o with lanes := o.lanes.map (fun r =>
      if r.st == .waiting then { r with st := .done, unf := false } else r) }))).commitLate gid o.id

/-- Each waiting lane of a store goes to its home slice as a write of its own (R139). The core's copy of the line goes:
later loads read the line at its home, behind the write (R321, R324). -/
def State.sendStores (s : State) (gid : Nat) (o : Op) : State :=
  match AMap.find gid s.groups with
  | none => s
  | some g =>
    let s := s.commit g.block
    match s.blockOf g with
    | none => s
    | some b =>
      let ready := o.lanes.filter (fun r => r.st == .waiting)
      let s := ready.foldl (fun s r =>
        (s.dropLine b.core b.part r.ia).send { g.reqOf b gid o r with ask := .write o.size r.data true }) s
      s.adjGroup gid (fun g => g.adjOp o.id (fun o => { o with lanes := o.lanes.map (fun r =>
        if r.st == .waiting then { r with st := .sent } else r) }))

/-- A store starts: into the buffer, or home when it is acknowledged or releases past the block (R138). A full buffer
commits first, and the store waits for COMMIT_BUFFER_ROOM while its group can wait (R205). -/
def State.startStore (s : State) (gid : Nat) (o : Op) (ack : Bool) : State :=
  match AMap.find gid s.groups with
  | none => s
  | some g =>
    if ack || decide (2 ≤ o.rel) then s.sendStores gid o
    else
      let need := o.size * (o.lanes.filter (fun r => r.st == .waiting)).length
      match s.blockOf g with
      | none => s
      | some b =>
        if b.bufUsed + need ≤ bufSize then s.bufferStore gid o
        else
          let s := s.commit g.block
          if g.wait = .ready then s.adjGroup gid (fun g => { g with wait := .bufferFull o.id })
          else s.bufferStore gid o

/-! ## Atomics (R149) -/

/-- FP32 code of a code of another format, exactly. -/
def fp32Of (f : Fmt) (code : Nat) : Nat := (Fmt.fp32.round .rn false false (f.value code)).1

/-- FP32 addition rounded to nearest even, subnormals kept. -/
def addRn (a b : Nat) : Nat :=
  (Fmt.fp32.round .rn false false (FVal.sum .rn [Fmt.fp32.value a, Fmt.fp32.value b]).1).1

/-- Lanes of this operation at one address merge (Table 6.4). -/
def aopMerges : AOp → Bool
  | .xchg | .cas | .incw => false
  | .add | .min | .max | .minn | .maxn | .and | .or | .xor | .fadd32 | .bf16x2add | .fp16x2add => true

/-- A float operation: merged lanes send one sum (R149). -/
def aopFloat : AOp → Bool
  | .fadd32 | .bf16x2add | .fp16x2add => true
  | .add | .min | .max | .minn | .maxn | .and | .or | .xor | .xchg | .cas | .incw => false

/-- The sum of a list of FP32 codes from the first on. -/
def sumRn : List Nat → Nat
  | [] => 0
  | a :: rest => rest.foldl addRn a

/-- The operands a packet carries: each lane's, or one FP32 sum, or two (R149, R341). -/
def packetData (op : AOp) (rs : List LaneReq) : List (Nat × Nat) :=
  let xs := rs.map LaneReq.data
  let two (f : Fmt) :=
    [(sumRn (xs.map (fun x => fp32Of f (x % 65536))) + 2 ^ 32 * sumRn (xs.map (fun x => fp32Of f (x / 65536 % 65536))), 0)]
  match op with
  | .fadd32 => [(sumRn xs, 0)]
  | .bf16x2add => two .bf16
  | .fp16x2add => two .fp16
  | .add | .min | .max | .minn | .maxn | .and | .or | .xor | .xchg | .cas | .incw => rs.map (fun r => (r.data, r.cmp))

/-- The packets of the waiting lanes, in ascending order of their first lanes. -/
def packets (op : AOp) (stampOf : LaneReq → Nat) (rs : List LaneReq) : List (List LaneReq) :=
  if aopMerges op then
    ((rs.map (fun r => (stampOf r, r.ia))).eraseDups).map (fun k => rs.filter (fun r => (stampOf r, r.ia) == k))
  else rs.map (fun r => [r])

/-- An atomic starts: it commits the block for a release of scope .core or wider or for a buffered line, drops the L1
copies and sends its packets, each with the group's next sequence number (R148, R149, R305, R331). -/
def State.startAtomic (s : State) (gid : Nat) (o : Op) (op : AOp) : State :=
  match AMap.find gid s.groups with
  | none => s
  | some g =>
    let ready := o.lanes.filter (fun r => r.st == .waiting)
    let s := match s.blockOf g with
      | some b =>
        if decide (2 ≤ o.rel) || ready.any (fun r => bufHasLine b.buffer r.ia) then s.commit g.block else s
      | none => s
    match s.blockOf g with
    | none => s
    | some b =>
      let send (s : State) (rs : List LaneReq) : State :=
        match rs with
        | [] => s
        | r :: _ =>
          let s := s.dropLine b.core b.part r.ia
          -- one sent again after a peer was lost keeps its number, so that a Larua completer knows it (R399)
          let (seq, s) : BitVec 16 × State := if r.tag ≠ 0 then (BitVec.ofNat 16 (r.tag - 1), s) else
            let seq := match AMap.find gid s.groups with
              | some g => g.atomSeq + 1#16
              | none => 0#16
            (seq, s.adjGroup gid (fun g => { g with atomSeq := seq }))
          let s := s.adjGroup gid (fun g => g.adjOp o.id (fun o => { o with lanes := o.lanes.map (fun q =>
            if rs.any (fun x => x.lane == q.lane) then { q with tag := seq.toNat + 1 } else q) }))
          s.send { g.reqOf b gid o r with ask := .atomic op o.size (packetData op rs) (aopFloat op), seq := seq,
                                          src := .group gid o.id (rs.map LaneReq.lane) }
      let s := (packets op (g.reqStamp o) ready).foldl send s
      s.adjGroup gid (fun g => g.adjOp o.id (fun o => { o with lanes := o.lanes.map (fun r =>
        if r.st == .waiting then { r with st := .sent } else r) }))

/-! ## Completion -/

/-- A group parked whole is ready again once no operation of it has an unfinished lane and every parked one has
completed (R270, R272). -/
def Group.settle (g : Group) : Group :=
  if g.parkedWhole && g.fetchPark.isNone && g.courses.isEmpty
      && !g.ops.any (fun o => o.unfinished || (o.wasParked && !o.complete)) then
    { g with parkedWhole := false, lanes := g.lanes.map (fun e => (e.1, { e.2 with parked := false })) }
  else g

/-- The latency gauge that an operation's completion feeds (Table 15.5): loads of memory; stores that their homes acknowledge, those
with ACK and releases past the block (R138); atomics. Windows, SLDC and LDSC feed none (DESIGN CHOICE, log 100). -/
def Op.gauge (o : Op) : Option Nat :=
  match o.kind with
  | .load _ _ => some 0x01
  | .store _ _ ack => if ack || decide (2 ≤ o.rel) then some 0x02 else none
  | .atomic _ _ _ _ => some 0x03
  | .scratchLoad _ | .constLoad _ | .slotLoad _ | .scratchStore | .slotStore | .emit | .copy .. | .discard .. | .coll ..
  | .acpy .. | .grid | .ldsc _ | .xput .. | .cbar _ => none

/-- A group's share of an access that another group of its block makes for both (R271). -/
def Op.follows (o : Op) : Bool := o.kind.whole && o.lanes.isEmpty && !o.complete

/-- The scalar results of an operation, from one group to another that the same operation serves. -/
def OpKind.copyResult (k : OpKind) (src dst : Group) : Group :=
  let take (d : Nat) (g : Group) : Group := g.setS d (src.getS d)
  match k with
  | .load true d | .constLoad d | .store true d true => take d dst
  | .atomic true d _ tagTo =>
    match tagTo with
    | some t => take t (take d dst)
    | none => take d dst
  | .copy d _ _ _ _ _ _ _ | .discard d _ _ | .coll d _ _ _ => take d dst
  | .load false _ | .store _ _ _ | .atomic false _ _ _ | .scratchLoad _ | .slotLoad _ | .scratchStore | .slotStore | .emit
  | .acpy .. | .grid | .ldsc _ | .xput .. | .cbar _ => dst

/-- An access made for several groups is complete: each of them has its results, and its share is complete (R271,
DEDUCED, log 61). -/
def State.endShares (s : State) (gid : Nat) (g : Group) (o : Op) : State :=
  if !o.kind.whole then s
  else
    { s with groups := s.groups.map (fun e =>
        if e.1 != gid && e.2.block == g.block && e.2.ops.any (fun p => p.id == o.id && p.follows) then
          (e.1, (((o.kind.copyResult g e.2).adjOp o.id (fun p => { p with complete := true })).retire).settle)
        else e) }

/-- An operation all of whose lanes are done is complete; an acquire of scope .coh or wider then invalidates the
core's L1 (R327). -/
def State.closeOp (s : State) (gid id : Nat) : State :=
  match AMap.find gid s.groups with
  | none => s
  | some g =>
    match g.findOp id with
    | none => s
    | some o =>
      if o.lanes.all (fun r => r.st == .done) && !o.follows then
        let s := (s.endShares gid g o).setGroup gid ((g.adjOp id (fun o => { o with complete := true })).retire.settle)
        match s.blockOf g with
        | some b =>
          let s := if 3 ≤ o.acq then s.setCore b.core (s.core b.core).l1Clear else s
          match o.gauge with
          | some src => s.gaugeCore b.core src ((s.core b.core).clk - o.issued)
          | none => s
        | none => s
      else s.setGroup gid g.settle

/-- Start one operation whose waiting lanes may go; a release waits for RELEASE_PERFORM. -/
def State.startOne (s : State) (gid id : Nat) : State :=
  match AMap.find gid s.groups with
  | none => s
  | some g =>
    match g.findOp id with
    | none => s
    | some o =>
      if !o.lanes.any (fun r => r.st == .waiting) || o.rel ≠ 0 || !g.mayStart o || s.behindUnit gid g o then s
      else match o.kind with
        | .load _ _ => s.startLoad gid o
        | .store _ _ ack => (s.startStore gid o ack).closeOp gid id
        | .atomic _ _ op _ => s.startAtomic gid o op
        | .scratchLoad _ | .constLoad _ | .slotLoad _ | .scratchStore | .slotStore | .emit | .copy .. | .discard ..
        | .coll .. | .acpy .. | .grid | .ldsc _ | .xput .. | .cbar _ => s

/-- Start every operation of a group that may go, in issue order. -/
def State.startReady (s : State) (gid : Nat) : State :=
  match AMap.find gid s.groups with
  | none => s
  | some g => (g.ops.map Op.id).foldl (fun s id => s.startOne gid id) s

/-- Issue an operation that translates: it joins the group, its lanes translate, those that fail park, and it starts
when nothing earlier stands in the way (R137). -/
def State.issueMem (s : State) (gid : Nat) (o : Op) : State :=
  let id := s.nextId
  (((s.newOp gid o).translateOp gid id).startReady gid).closeOp gid id

/-- Issue an operation that needs no translation. -/
def State.issueLocal (s : State) (gid : Nat) (o : Op) : State :=
  let id := s.nextId
  (s.newOp gid o).closeOp gid id

/-! ## Slots and windows (R142, R143) -/

/-- n bytes of lane j's register slots from byte offset o. -/
def Group.slotRead (g : Group) (j : Nat) : Nat → Nat → Nat
  | _, 0 => 0
  | o, n + 1 => g.getV j (o / 4) / 2 ^ (8 * (o % 4)) % 256 + 256 * g.slotRead j (o + 1) n

/-- Write n bytes of x into lane j's register slots from byte offset o. -/
def Group.slotWrite (g : Group) (j : Nat) : Nat → Nat → Nat → Group
  | _, 0, _ => g
  | o, n + 1, x =>
    let v := g.getV j (o / 4)
    let k := 8 * (o % 4)
    (g.setV j (o / 4) (putBits v (k + 7) k (x % 256))).slotWrite j (o + 1) n (x / 256)

/-- The number of a stamp's window (R201). -/
def Block.window (b : Block) (stamp : Nat) : Nat := (b.windows.findIdx (fun x => x == stamp))

end Sys2Proof.Machine
end

