-- ==== Sys2Proof/Machine/Vmem.lean ====
section
/-! DEFINITION. Loads, stores, prefetches, scratch and register windows, scalar accesses and atomics at issue (ch. 06):
VMEM, SMEM, VAMO, SAMO. What follows issue is in Access, Slice and Land. -/

namespace Sys2Proof.Machine

/-! ## Addresses (R126–R129) -/

/-- The access size in bytes. -/
def fmSize (x : FM) : Nat := 2 ^ x.sz.toNat

/-- The offset of the mnemonics whose OFF field holds nothing else (Table 6.1). -/
def fmOff (x : FM) : Int := x.off.toInt

/-- The offset of a store, and its ACK bit. -/
def stOff (x : FM) : Int := sgn 12 x.off.toNat
def stAck (x : FM) : Bool := bitAt x.off.toNat 12

/-- The offset of an atomic. -/
def atOff (x : FM) : Int := sgn 10 x.off.toNat

/-- No index: a B field of 0x1FF (R39). -/
def noIndex (x : FM) : Bool := x.b == .imm 0x7F#7

/-- Addr(j) as a virtual address (R127). -/
def Group.vaddr (g : Group) (c : Ctx) (x : FM) (off : Int) (j : Nat) : Nat :=
  let idx : Int := if noIndex x then 0 else sgn 32 (g.src c j x.b)
  low 64 ((g.wide c j x.a : Int) + idx * fmSize x + off)

/-- Addr(j) as an exact window offset (R127). -/
def Group.woff (g : Group) (c : Ctx) (x : FM) (j : Nat) : Int :=
  let idx : Int := if noIndex x then 0 else sgn 32 (g.src c j x.b)
  sgn 32 (g.src c j x.a) + idx * fmSize x + fmOff x

/-- The address of a scalar access (R127). -/
def Group.saddr (g : Group) (c : Ctx) (x : FM) (off : Int) : Nat :=
  let idx : Int := if noIndex x then 0 else (g.srcU c x.b : Int)
  low 64 ((g.srcU c x.a : Int) + idx * fmSize x + off)

/-- The lanes that take part and are not helper lanes. -/
def Group.working (g : Group) (guard : BitVec 4) : List Nat := (g.parts guard.toNat).filter (fun j => !g.help j)

/-- The helper lanes that take part. -/
def Group.helping (g : Group) (guard : BitVec 4) : List Nat := (g.parts guard.toNat).filter g.help

/-- An operation with its size, class and ordering scopes. -/
def memOp (path : Path) (kind : OpKind) (x : FM) (acq rel : Nat) (lanes : List LaneReq) (serves : List Nat) : Op :=
  { Op.make path kind lanes serves with size := fmSize x, cls := x.cl.toNat, acq := acq, rel := rel }

/-! ## VLD, VST, VPREF -/

/-- VLD (R136, R137): helper lanes read 0 with no access; a scope wider than .grp makes it an acquire (R140). -/
def execVld (x : FM) (s : State) : Res :=
  runWord (.vld x) (x.spans (szRegs x.sz.toNat) 2) s (fun gid g =>
    let c := s.ctx g
    let ls := g.working x.g
    match ls.find? (fun j => g.vaddr c x (fmOff x) j % fmSize x != 0) with
    | some j => s.enterTrap gid g 0x08 (0x31 + 256 * j) g.pc
    | none =>
      let d := regNum x.d
      let g' := (g.helping x.g).foldl (fun acc j => acc.putRegs j (szRegs x.sz.toNat) d 0) g.advance
      (s.setGroup gid g').issueMem gid
        (memOp .ld (.load false d) x x.sc.toNat 0 (ls.map (fun j => LaneReq.make j (g.vaddr c x (fmOff x) j))) ls))

/-- A store that is acknowledged, or releases past the block, commits at once (R138, R322). -/
def State.commitFor (s : State) (g : Group) (home : Bool) : State := if home then s.commit g.block else s

/-- VST (R136–R140): data read at issue. -/
def execVst (x : FM) (s : State) : Res :=
  runWord (.vst x) (x.spans (szRegs x.sz.toNat) 2) s (fun gid g =>
    let c := s.ctx g
    let ls := g.working x.g
    match ls.find? (fun j => g.vaddr c x (stOff x) j % fmSize x != 0) with
    | some j => s.enterTrap gid g 0x08 (0x31 + 256 * j) g.pc
    | none =>
      let d := regNum x.d
      let reqs := ls.map (fun j => { LaneReq.make j (g.vaddr c x (stOff x) j) with
        data := g.regsFrom j (szRegs x.sz.toNat) d % 2 ^ (8 * fmSize x) })
      ((s.setGroup gid g.advance).commitFor g (stAck x || decide (2 ≤ x.sc.toNat))).issueMem gid
        (memOp .st (.store false d (stAck x)) x 0 x.sc.toNat reqs ls))

/-- VPREF (R144): a lane that does not translate for reading is dropped. -/
def execVpref (x : FM) (s : State) : Res :=
  runWord (.vpref x) (x.spans 1 2) s (fun gid g =>
    let c := s.ctx g
    match s.blockOf g with
    | none => s.setGroup gid g.advance
    | some b =>
      let o := { memOp .ld (.load false 0) x 0 0 [] [] with tensor := g.tensor }
      let one (s : State) (j : Nat) : State :=
        let r := LaneReq.make j (g.vaddr c x (fmOff x) j)
        let (r, s) := s.translateReq b.core b.part (g.reqStamp o r) (true, false) x.cl.toNat r
        match r.st with
        | .waiting => s.send { g.reqOf b gid o r with ask := .prefetch, src := .commit, ia := r.ia / 128 * 128 }
        | .sent | .answered | .faulted _ | .parked _ | .held | .done => s
      (g.working x.g).foldl one (s.setGroup gid g.advance))

/-! ## VLDS, VSTS: scratch windows (R142) -/

/-- The space in which scratch accesses are compared: past every intermediate address. -/
def scratchIa (stamp : Nat) (o : Int) : Nat := 2 ^ 57 + 2 ^ 24 * stamp + o.toNat

/-- W of the group's block. -/
def State.scratchOf (s : State) (g : Group) : Nat :=
  match s.blockOf g with
  | some b => b.node.scratch
  | none => 0

def Group.stampOf (g : Group) (j : Nat) : Nat :=
  match AMap.find j g.lanes with
  | some l => l.stamp.toNat
  | none => 0

/-- The checks of Table 6.5 on a scratch offset: alignment in every lane, then the window. -/
def Group.scratchCheck (g : Group) (c : Ctx) (x : FM) (w : Nat) : Option Nat :=
  let ls := g.working x.g
  match ls.find? (fun j => g.woff c x j % fmSize x != 0) with
  | some j => some (0x31 + 256 * j)
  | none =>
    match ls.find? (fun j => decide (g.woff c x j < 0) || decide ((w : Int) < g.woff c x j + fmSize x)) with
    | some j => some (0x32 + 256 * j)
    | none => none

/-- A lane's request of its window. -/
def Group.scratchReq (g : Group) (c : Ctx) (x : FM) (j : Nat) : LaneReq :=
  { LaneReq.make j (g.woff c x j).toNat with ia := scratchIa (g.stampOf j) (g.woff c x j), st := .answered }

/-- VLDS. -/
def execVlds (x : FM) (s : State) : Res :=
  runWord (.vlds x) (x.spans (szRegs x.sz.toNat) 1) s (fun gid g =>
    let c := s.ctx g
    match g.scratchCheck c x (s.scratchOf g) with
    | some info => s.enterTrap gid g 0x08 info g.pc
    | none =>
      let d := regNum x.d
      let ls := g.working x.g
      let g' := (g.helping x.g).foldl (fun acc j => acc.putRegs j (szRegs x.sz.toNat) d 0) g.advance
      (s.setGroup gid g').issueLocal gid (memOp .ld (.scratchLoad d) x 0 0 (ls.map (g.scratchReq c x)) ls))

/-- VSTS: data read at issue. -/
def execVsts (x : FM) (s : State) : Res :=
  runWord (.vsts x) (x.spans (szRegs x.sz.toNat) 1) s (fun gid g =>
    let c := s.ctx g
    match g.scratchCheck c x (s.scratchOf g) with
    | some info => s.enterTrap gid g 0x08 info g.pc
    | none =>
      let ls := g.working x.g
      let reqs := ls.map (fun j => { g.scratchReq c x j with
        data := g.regsFrom j (szRegs x.sz.toNat) (regNum x.d) % 2 ^ (8 * fmSize x) })
      (s.setGroup gid g.advance).issueLocal gid (memOp .st .scratchStore x 0 0 reqs ls))

/-! ## VLDW, VSTW: register windows (R143) -/

/-- The checks of Table 6.5 on a slot offset: alignment outside helper lanes, then the allocation in every lane. -/
def Group.slotCheck (g : Group) (c : Ctx) (x : FM) : Option (Nat × Nat) :=
  match (g.working x.g).find? (fun j => g.woff c x j % fmSize x != 0) with
  | some j => some (0x08, 0x31 + 256 * j)
  | none =>
    match (g.parts x.g.toNat).find? (fun j =>
      decide (g.woff c x j < 0) || decide ((64 * g.alloc : Int) < g.woff c x j + fmSize x)) with
    | some j => some (0x09, 0x22 + 256 * j)
    | none => none

/-- VLDW: the slots are read at issue. -/
def execVldw (x : FM) (s : State) : Res :=
  runWord (.vldw x) (x.spans (szRegs x.sz.toNat) 1) s (fun gid g =>
    let c := s.ctx g
    match g.slotCheck c x with
    | some (k, info) => s.enterTrap gid g k info g.pc
    | none =>
      let ls := g.parts x.g.toNat
      let reqs := ls.map (fun j => { LaneReq.make j (g.woff c x j).toNat with
        val := g.slotRead j (g.woff c x j).toNat (fmSize x), st := .answered })
      (s.setGroup gid g.advance).issueLocal gid (memOp .ld (.slotLoad (regNum x.d)) x 0 0 reqs ls))

/-- VSTW: D is read at issue. -/
def execVstw (x : FM) (s : State) : Res :=
  runWord (.vstw x) (x.spans (szRegs x.sz.toNat) 1) s (fun gid g =>
    let c := s.ctx g
    match g.slotCheck c x with
    | some (k, info) => s.enterTrap gid g k info g.pc
    | none =>
      let ls := g.parts x.g.toNat
      let reqs := ls.map (fun j => { LaneReq.make j (g.woff c x j).toNat with
        data := g.regsFrom j (szRegs x.sz.toNat) (regNum x.d) % 2 ^ (8 * fmSize x), st := .answered })
      (s.setGroup gid g.advance).issueLocal gid (memOp .st .slotStore x 0 0 reqs ls))

/-! ## Scalar accesses (R145) -/

/-- The leading lane, past the owner checks of R145, or their trap. -/
def Group.lead (g : Group) : Nat := g.leading.getD 0

/-- The checks of Table 6.5 for SLD, SST and SAMO. -/
def Group.scalarCheck (g : Group) (a size : Nat) : Option (Nat × Nat) :=
  match g.ownerCheck with
  | some info => some (0x03, info)
  | none => if a % size ≠ 0 then some (0x08, 0x31) else none

/-- An operation that the leading lane makes for the group; it serves the active lanes. -/
def Group.scalarOp (g : Group) (path : Path) (kind : OpKind) (x : FM) (acq rel : Nat) (r : LaneReq) : Op :=
  { memOp path kind x acq rel [r] g.active with stamp := g.stampOf g.lead }

/-- SLD. -/
def execSld (x : FM) (s : State) : Res :=
  runWord (.sld x) (x.spans 1 1) s (fun gid g =>
    let a := g.saddr (s.ctx g) x (fmOff x)
    match g.scalarCheck a (fmSize x) with
    | some (k, info) => s.enterTrap gid g k info g.pc
    | none =>
      (s.setGroup gid g.advance).issueMem gid
        (g.scalarOp .ld (.load true (regNum x.d)) x x.sc.toNat 0 (LaneReq.make g.lead a)))

/-- SST. -/
def execSst (x : FM) (s : State) : Res :=
  runWord (.sst x) (x.spans 1 1) s (fun gid g =>
    let a := g.saddr (s.ctx g) x (stOff x)
    match g.scalarCheck a (fmSize x) with
    | some (k, info) => s.enterTrap gid g k info g.pc
    | none =>
      let r := { LaneReq.make g.lead a with data := g.getS (regNum x.d) % 2 ^ (8 * fmSize x) }
      ((s.setGroup gid g.advance).commitFor g (stAck x || decide (2 ≤ x.sc.toNat))).issueMem gid
        (g.scalarOp .st (.store true (regNum x.d) (stAck x)) x 0 x.sc.toNat r))

/-- SLDC (R145): an offset into the kernel's data section. -/
def execSldc (x : FM) (s : State) : Res :=
  runWord (.sldc x) (x.spans 1 1) s (fun gid g =>
    let a := g.saddr (s.ctx g) x (fmOff x)
    let (base, size) : Nat × Nat := match s.blockOf g with
      | some b => (b.node.dataIa, b.node.dataSize)
      | none => (0, 0)
    if a % fmSize x ≠ 0 then s.enterTrap gid g 0x08 0x31 g.pc
    else if size < a + fmSize x then s.enterTrap gid g 0x08 0x33 g.pc
    else
      (s.setGroup gid g.advance).issueLocal gid
        (memOp .ld (.constLoad (regNum x.d)) x 0 0 [{ LaneReq.make 0 a with ia := base + a, st := .answered }] g.active))

/-! ## Atomics (R146–R150) -/

/-- The scopes of an atomic's acquire and release sides (Table 6.1, R148). -/
def atAcq (x : FM) : Nat := if bitAt x.ord 0 then x.sc.toNat else 0
def atRel (x : FM) : Nat := if bitAt x.ord 1 then x.sc.toNat else 0

/-- VAMO (R147): x and c from D. -/
def execVamo (op : AOp) (x : FM) (s : State) : Res :=
  runWord (.vamo op x) (x.spans (vamoRegs op x) 2) s (fun gid g =>
    let c := s.ctx g
    let ls := g.working x.g
    match ls.find? (fun j => g.vaddr c x (atOff x) j % fmSize x != 0) with
    | some j => s.enterTrap gid g 0x08 (0x31 + 256 * j) g.pc
    | none =>
      let d := regNum x.d
      let n := fmSize x / 4
      let cas := decide (op = .cas)
      let reqs := ls.map (fun j => { LaneReq.make j (g.vaddr c x (atOff x) j) with
        data := g.regsFrom j n (if cas then d + n else d), cmp := if cas then g.regsFrom j n d else 0 })
      let tag := if x.aack then some (d + n * (if cas then 2 else 1)) else none
      ((s.setGroup gid g.advance).commitFor g (decide (2 ≤ atRel x))).issueMem gid
        (memOp .at (.atomic false d op tag) x (atAcq x) (atRel x) reqs ls))

/-- SAMO (R145, R147): every value in one scalar register. -/
def execSamo (op : AOp) (x : FM) (s : State) : Res :=
  runWord (.samo op x) (x.spans 1 1) s (fun gid g =>
    let a := g.saddr (s.ctx g) x (atOff x)
    match g.scalarCheck a (fmSize x) with
    | some (k, info) => s.enterTrap gid g k info g.pc
    | none =>
      let d := regNum x.d
      let cas := decide (op = .cas)
      let w := 2 ^ (8 * fmSize x)
      let r := { LaneReq.make g.lead a with
        data := g.getS (if cas then d + 1 else d) % w, cmp := if cas then g.getS d % w else 0 }
      let tag := if x.aack then some (d + (if cas then 2 else 1)) else none
      ((s.setGroup gid g.advance).commitFor g (decide (2 ≤ atRel x))).issueMem gid
        (g.scalarOp .at (.atomic true d op tag) x (atAcq x) (atRel x) r))

end Sys2Proof.Machine
end

