-- ==== Sys2Proof/Machine/Trans.lean ====
section
/-! DEFINITION. The memory side: stack memory under keys and poison (R357, R359), the home slice's words (R309–R313),
tables, walks, TLBs and key rights (R345–R352, R360). -/

namespace Sys2Proof.Machine

/-! ## Stack memory (R345, R359) -/

/-- One byte of stack memory, as the stack stores it. -/
def State.byte (s : State) (pa : Nat) : Byte := Sparse.get memDefault s.mem pa

/-- The value that the base dies hold for a key slot. -/
def State.keyValue (s : State) (k : Nat) : BitVec 512 :=
  match AMap.find k s.keys with
  | some e => e.value
  | none => 0#512

/-- The core number that no core has, for what no core sent. -/
def noCore : Nat := 1024

/-- A slice's packet to the stack of a PA, over the die's memory station and the stack's link (R300, R309, R345): for the request
`rid`, or a write-back, 0. Host memory stands behind no stack (R370). -/
def State.toStack (s : State) (part slice pa : Nat) (cls : Cls) (rid : Nat) (ask : Ask) : State :=
  if bitAt pa 51 then s
  else s.sendPlain
    { ask := ask, src := .stack rid, part := part, ppm := 0#8, ia := pa, home := slice, cls := cls, stamp := 0, tensor := 0,
      block := 0, postmark := 0#8, seq := 0#16, core := noCore, hops := [], st := .transit, since := 0, arrival := 0 }

/-- What the base die stores for a 16-byte word at a PA, and what it reads back: ciphertext of AES-256-XTS unless the key
id is 0 (R359); no base die stands before host memory (DEDUCED, log 90). -/
def State.sealWord (s : State) (pa keyid x : Nat) : Nat :=
  if keyid = 0 || bitAt pa 51 then x else xtsEnc (s.keyValue keyid) (bits pa 51 6) (pa / 16 % 4) x

def State.openWord (s : State) (pa keyid x : Nat) : Nat :=
  if keyid = 0 || bitAt pa 51 then x else xtsDec (s.keyValue keyid) (bits pa 51 6) (pa / 16 % 4) x

/-- The mark of a granule that a zero-fill left: it reads as zero under any key (R372). -/
def zeroTag : Nat := 1

/-- A granule that a zero-fill or a save left gets stored bytes, as a first write under a key finds them: zeros, or free
values (DESIGN CHOICE, log 17). -/
def State.settleGranule (s : State) (pa keyid : Nat) : State :=
  let t := Sparse.get 0 s.keyTags (pa / 64)
  if t = 0 then s
  else
    [0, 1, 2, 3].foldl (fun s i =>
      let a := pa / 64 * 64 + 16 * i
      if t = zeroTag then { s with mem := putBytes s.mem a 16 (s.sealWord a keyid 0) }
      else
        let (n, s) := s.fresh
        { s with mem := putBytes s.mem a 16 (Config.freeWord n).toNat }) { s with keyTags := Sparse.set 0 s.keyTags (pa / 64) 0 }

/-- The 16-byte word of memory that holds a PA, read under a key. -/
def State.memRead (s : State) (pa keyid : Nat) : Nat × State :=
  let t := Sparse.get 0 s.keyTags (pa / 64)
  if t = 0 then (s.openWord pa keyid (bytesAt s.mem (pa / 16 * 16) 16), s)
  else if t = zeroTag then (0, s)
  else
    let (n, s) := s.fresh
    ((Config.freeWord n).toNat, s)

/-- A masked write of that word under a key; the base die merges it by decrypting and encrypting again (R359). -/
def State.memWrite (s : State) (pa keyid mask data : Nat) : State :=
  let s := s.settleGranule pa keyid
  let a := pa / 16 * 16
  let x := mixBytes 16 mask data (s.openWord pa keyid (bytesAt s.mem a 16))
  { s with mem := putBytes s.mem a 16 (s.sealWord pa keyid x) }

def State.setPoison (s : State) (pa : Nat) (x : Bool) : State := { s with poison := Sparse.set false s.poison (pa / 32) x }

/-! ## Words at a home slice -/

/-- Under what an access is performed: its partition, its home slice, the leaf's key and the tensor id. -/
structure Via where
  part : Nat
  slice : Nat
  keyid : Nat
  tensor : Nat
  deriving DecidableEq, Repr

/-- An empty way mask: the partition bypasses L2 (R313). -/
def State.bypass (s : State) (part : Nat) : Bool := (s.part part).ways == 0

/-- One word leaves the cache; its dirty bytes are written back, in a packet to its stack (R309, DESIGN CHOICE, log 86). -/
def State.cleanWord (s : State) (key : Nat) : State :=
  match AMap.find key s.l2 with
  | none => s
  | some b =>
    let s := if b.dirty = 0 then s else
      (s.memWrite b.pa b.keyid b.dirty b.data).toStack (key / 2 ^ 52) b.slice b.pa 0 0 (.write 16 b.data false)
    { s with l2 := AMap.del key s.l2 }

/-- What a word that leaves does to its sector's mark in memory: the cache's mark goes with dirty bytes (R357). -/
def L2Block.marks (b : L2Block) : Bool := b.dirty != 0 && b.poison

/-- The two words of a sector leave (R309); a sector that is written back whole takes the cache's mark (R357). -/
def State.evict (s : State) (key : Nat) : State :=
  let a := AMap.find (key / 2 * 2) s.l2
  let b := AMap.find (key / 2 * 2 + 1) s.l2
  let s := (s.cleanWord (key / 2 * 2)).cleanWord (key / 2 * 2 + 1)
  match a, b with
  | some x, some y =>
    if x.dirty = 2 ^ 16 - 1 && y.dirty = 2 ^ 16 - 1 then s.setPoison x.pa (x.poison || y.poison)
    else if x.marks || y.marks then s.setPoison x.pa true else s
  | some x, none => if x.marks then s.setPoison x.pa true else s
  | none, some y => if y.marks then s.setPoison y.pa true else s
  | none, none => s

/-- The set of a word, by its key: 512 sets of line frames (R309). -/
def l2Set (key : Nat) : Nat := key / 8 % 512

/-- The blocks of a slice's set. -/
def State.setBlocks (s : State) (slice key : Nat) : List (Nat × L2Block) :=
  s.l2.filter (fun e => e.2.slice == slice && l2Set e.1 == l2Set key)

/-- A way of the partition's mask for a new block: a frame holds eight words of its set, and when every frame of the mask is
full a block of free choice leaves (R309, R313, DESIGN CHOICE, log 11). -/
def State.allocWay (s : State) (v : Via) (key : Nat) : Nat × State :=
  let ways := setBits 16 0 (s.part v.part).ways
  let l := s.setBlocks v.slice key
  match ways.find? (fun w => decide ((l.filter (fun e => e.2.way == w)).length < 8)) with
  | some w => (w, s)
  | none =>
    let (n, s) := s.fresh
    let l := l.filter (fun e => ways.contains e.2.way)
    match l[(Config.freeWord n).toNat % max 1 l.length]? with
    | some e => (e.2.way, s.evict e.1)
    | none => (0, s)

/-- A block that still holds the word of an earlier translation of its IA gives way: after an invalidation every access
is made at the new PA (R352, DEDUCED, log 34). -/
def State.settle (s : State) (part ia pa : Nat) : State :=
  match AMap.find (l1Key part ia) s.l2 with
  | some b => if b.pa = pa / 16 * 16 then s else s.evict (l1Key part ia)
  | none => s

/-- The block of a word at its home slice; a new one holds no byte (R309, R313). -/
def State.blockFor (s : State) (v : Via) (ia pa : Nat) : L2Block × State :=
  match s.l2At v.part ia pa with
  | some b => (b, s)
  | none =>
    let (way, s) := (s.settle v.part ia pa).allocWay v (l1Key v.part ia)
    ({ data := 0, valid := 0, dirty := 0, tensor := v.tensor, keyid := v.keyid, pa := pa / 16 * 16, way := way, slice := v.slice,
       poison := Sparse.get false s.poison (pa / 32) }, s)

/-- A block holds the bytes of a mask. -/
def L2Block.has (b : L2Block) (mask : Nat) : Bool := b.valid &&& mask == mask

/-- The bytes that a block lacks come from memory, under the access's key and tag (R311, R359), with their sector's mark (R357). -/
def State.fillBlock (s : State) (v : Via) (pa : Nat) (b : L2Block) : L2Block × State :=
  let (x, s) := s.memRead pa v.keyid
  ({ b with data := mixBytes 16 b.valid b.data x, valid := 2 ^ 16 - 1, tensor := v.tensor, keyid := v.keyid,
            poison := b.poison || Sparse.get false s.poison (pa / 32) }, s)

/-- The word is not in the cache and takes no place there (R313). -/
def State.passesBy (s : State) (part ia pa : Nat) : Bool := s.bypass part && (s.l2At part ia pa).isNone

/-- Read the 16-byte word of an IA at its home slice, of which the bytes of a mask are asked for. -/
def State.wordAt (s : State) (v : Via) (ia pa mask : Nat) : Nat × State :=
  if s.passesBy v.part ia pa then (s.settle v.part ia pa).memRead pa v.keyid
  else
    let (b, s) := s.blockFor v ia pa
    let (b, s) := if b.has mask then (b, s) else s.fillBlock v pa b
    (b.data, { s with l2 := AMap.put (l1Key v.part ia) b s.l2 })

/-- Write bytes of one 16-byte word at its home slice: they are its block's, valid and dirty (R309, R311). -/
def State.putWord (s : State) (v : Via) (ia pa mask data : Nat) : State :=
  if s.passesBy v.part ia pa then (s.settle v.part ia pa).memWrite pa v.keyid mask data
  else
    let (b, s) := s.blockFor v ia pa
    let b := { b with data := mixBytes 16 mask data b.data, valid := b.valid ||| mask, dirty := b.dirty ||| mask,
                      tensor := v.tensor, keyid := v.keyid }
    { s with l2 := AMap.put (l1Key v.part ia) b s.l2 }

/-- A sector written whole is clean again, at its slice and in memory, to which it is written (R357). -/
def State.healSector (s : State) (part ia pa : Nat) : State :=
  let clear (m : AMap L2Block) (a : Nat) := AMap.adj (l1Key part a) (fun b => { b with poison := false }) m
  let s : State := { s with l2 := clear (clear s.l2 ia) (ia + 16) }
  if Sparse.get false s.poison (pa / 32) then (s.evict (l1Key part ia)).setPoison pa false else s

/-- The 16-byte words that n bytes from an IA on touch, each with the mask of its bytes among them. -/
def wordPieces (ia n : Nat) : List (Nat × Nat) :=
  (List.range ((ia % 16 + n + 15) / 16)).map (fun i =>
    let w := ia / 16 * 16 + 16 * i
    (w, byteMask (max ia w - w) (min (ia + n) (w + 16) - max ia w)))

/-- Where a word among n bytes at an IA and a PA stands in memory. -/
def wordPa (ia pa w : Nat) : Nat := pa - pa % 16 + (w - ia / 16 * 16)

/-- Write n bytes from an IA on, within one line, as one packet does. -/
def State.putLine (s : State) (v : Via) (ia pa n data : Nat) : State :=
  let s := (wordPieces ia n).foldl (fun s e =>
    s.putWord v e.1 (wordPa ia pa e.1) e.2 (data * 2 ^ (8 * (ia % 16)) / 2 ^ (8 * (e.1 - ia / 16 * 16)) % 2 ^ 128)) s
  (List.range ((n + 31) / 32)).foldl (fun s i =>
    let a := (ia + 31) / 32 * 32 + 32 * i
    if a + 32 ≤ ia + n then s.healSector v.part a (pa + (a - ia)) else s) s

/-- Read n bytes from an IA on, within one line. -/
def State.getLine (s : State) (v : Via) (ia pa n : Nat) : Nat × State :=
  let (x, s) := (wordPieces ia n).foldl (fun (acc : Nat × State) e =>
    let (w, s) := acc.2.wordAt v e.1 (wordPa ia pa e.1) e.2
    (acc.1 + w * 2 ^ (8 * (e.1 - ia / 16 * 16)), s)) (0, s)
  (x / 2 ^ (8 * (ia % 16)) % 2 ^ (8 * n), s)

/-- Some of n bytes from an IA on are not in the cache. -/
def State.misses (s : State) (part ia pa n : Nat) : Bool :=
  (wordPieces ia n).any (fun e => match s.l2At part e.1 (wordPa ia pa e.1) with
    | some b => !b.has e.2
    | none => true)

/-- A poisoned sector among the n bytes from an IA on, by its PA, lowest first. -/
def State.badSectors (s : State) (part ia pa n : Nat) : List Nat :=
  ((List.range ((n + ia % 32 + 31) / 32)).filter (fun i =>
    s.poisonAt part (ia / 32 * 32 + 32 * i) (pa - pa % 32 + 32 * i)
      || s.poisonAt part (ia / 32 * 32 + 32 * i + 16) (pa - pa % 32 + 32 * i))).map (fun i => pa - pa % 32 + 32 * i)

/-- The next sequence tag of a line (R310). -/
def State.nextTag (s : State) (pa : Nat) : Nat × State :=
  let t := Sparse.get 0#32 s.seqs (pa / 128) + 1#32
  (t.toNat, { s with seqs := Sparse.set 0#32 s.seqs (pa / 128) t })

/-! ## Rights -/

/-- What an access needs of a leaf (R350). -/
structure Need where
  r : Bool
  w : Bool
  x : Bool
  deriving DecidableEq, Repr

/-- A key is usable by an access under a stamp (R360); stamp 0 is none. -/
def State.keyUsable (s : State) (part stamp keyid : Nat) : Bool :=
  let ctx := match AMap.find stamp (s.part part).stamps with
    | some r => if r.prot then some r.context else none
    | none => none
  match AMap.find keyid s.keys with
  | none => keyid == 0 && ctx.isNone
  | some k => k.part == part && !k.revoked && k.context == ctx

/-- A leaf gives the rights an access needs. -/
def leafAllows (e : Nat) (n : Need) : Bool := (!n.r || bitAt e 2) && (!n.w || bitAt e 3) && (!n.x || bitAt e 4)

/-- The rights that a translation gives. -/
def TlbEntry.allows (e : TlbEntry) (n : Need) : Bool := (!n.r || e.r) && (!n.w || e.w) && (!n.x || e.x)

/-- What a walk's end means for one access, in the order of R350: a right that the stage-1 leaf lacks, one that the stage-2
leaf lacks, a PA that breaks R345, a key that is not usable. -/
def State.verdict (s : State) (e : TlbEntry) (e1 stamp : Nat) (n : Need) : Option Nat :=
  if !leafAllows e1 n then some 0x04
  else if !e.allows n then some 0x06
  else if !(s.part e.part).paOk e.pa n.w then some 0x0C
  else if !s.keyUsable e.part stamp e.keyid then some 0x0B
  else none

/-- A leaf's value with A set, and D for a write's own page (R350). -/
def leafWant (write : Bool) (l : Nat × Nat × Bool) : Nat := l.2.1 ||| 32 ||| (if write && l.2.2 then 64 else 0)

/-- The first leaf of a walk that a swap must change, with those behind it. -/
def nextSwap (write : Bool) : List (Nat × Nat × Bool) → List (Nat × Nat × Bool)
  | [] => []
  | l :: rest => if leafWant write l = l.2.1 then nextSwap write rest else l :: rest

/-! ## TLBs (R350) -/

/-- The quadrant of a slice, over the device. -/
def quadOf (slice : Nat) : Nat := slice / 20

/-- Keep at most n entries that satisfy p. -/
def keepFirst (p : TlbEntry → Bool) : Nat → List TlbEntry → List TlbEntry
  | _, [] => []
  | n, e :: rest =>
    if p e then
      match n with
      | 0 => keepFirst p 0 rest
      | n + 1 => e :: keepFirst p n rest
    else e :: keepFirst p n rest

/-- The set of a quadrant's TLB in which a granule's translations stand: 512 sets of 8 ways, by the low bits of the granule's number
(R350, DESIGN CHOICE, log 99). -/
def tlbSet (gran : Nat) : Nat := gran % 512

/-- Fill the slice's and the quadrant's TLB, replacing older translations of the granule; in a full TLB, or a full set, the one
that was filled first gives way (R350, DESIGN CHOICE, log 99). -/
def State.tlbFill (s : State) (slice : Nat) (e : TlbEntry) : State :=
  let e := { e with quad := quadOf slice, slice := none }
  let old := s.tlb.filter (fun f => !(f.part == e.part && f.gran == e.gran && f.quad == e.quad
    && (f.slice == none || f.slice == some slice)))
  let l := { e with slice := some slice } :: e :: old
  let here (f : TlbEntry) : Bool := f.slice == none && f.quad == e.quad && tlbSet f.gran == tlbSet e.gran
  { s with tlb := keepFirst here 8 (keepFirst (fun f => f.slice == some slice) 64 l) }

/-- A translation that serves an access: the rights, the D state for a write, memory that the partition may reach so (R345)
and a usable key; anything less asks the walker. -/
def State.tlbHit (s : State) (part slice ia stamp : Nat) (n : Need) : Option TlbEntry :=
  let fits (e : TlbEntry) : Bool := e.part == part && e.gran == ia / 4096 && e.allows n && (!n.w || e.d)
    && (s.part part).paOk e.pa n.w && s.keyUsable part stamp e.keyid
  match s.tlb.find? (fun e => e.slice == some slice && fits e) with
  | some e => some e
  | none => s.tlb.find? (fun e => e.slice == none && e.quad == quadOf slice && fits e)

/-- A slice that missed keeps what its quadrant gave. -/
def State.tlbPull (s : State) (slice : Nat) (e : TlbEntry) : State :=
  if e.slice = some slice then s
  else { s with tlb := keepFirst (fun f => f.slice == some slice) 64 ({ e with slice := some slice } :: s.tlb) }

/-- Where an access lands, or what turns it away. -/
inductive Phys where
  | ok (pa keyid : Nat)
  | fault (kind : Nat)
  | poisoned (pa : Nat)
  deriving DecidableEq, Repr

def TlbEntry.addr (e : TlbEntry) (ia : Nat) : Nat := e.pa + ia % 4096

/-- A key whose sweep runs (R363). -/
def State.sweepingKey (s : State) (k : Nat) : Bool := s.revoking.any (fun e => e.1 == k)

/-- A slice counts a discarded write in KEYDROP (R363). -/
def State.countKeydrop (s : State) (slice : Nat) : State :=
  { s with keydrop := Sparse.set 0 s.keydrop slice (min (2 ^ 32 - 1) (Sparse.get 0 s.keydrop slice + 1)) }

/-- What the access of an IA would meet now, by the tables as they stand: for what the postmaster or a deadline has to know at once
(R350). -/
def State.physNow (s : State) (part ia stamp : Nat) (n : Need) : Phys :=
  match s.walkStood part 0 ia with
  | .fault k => .fault k
  | .poisoned pa => .poisoned pa
  | .host e => .ok (e.addr ia) e.keyid
  | .leaf e e1 leaves =>
    match s.verdict e e1 stamp n with
    | some k => .fault k
    | none =>
      if leaves.all (fun l => leafWant n.w l == l.2.1 || (s.part part).paOk l.1 true) then .ok (e.addr ia) e.keyid else .fault 0x0C

end Sys2Proof.Machine
end

