-- ==== Sys2Proof/Machine/Slice.lean ====
section
/-! DEFINITION. A request at its home slice (R309, R310, R330, R341, R364, R371, R388, R395–R397, R416): SLICE_REQUEST,
WALK_COMPLETE, ATS_COMPLETION, and the records and answers they give. -/

namespace Sys2Proof.Machine

/-! ## Who is served -/

/-- The groups of a block, with their ids. -/
def State.groupsOf (s : State) (block : Nat) : List (Nat × Group) := s.groups.filter (fun e => e.2.block == block)

/-- The response belongs to the incarnation that runs (R276). -/
def State.current (s : State) (r : Req) : Bool :=
  match AMap.find r.block s.blocks with
  | some b => b.postmark == r.postmark
  | none => false

/-- The lanes that a request serves and that still await it, with group, size and place in the packet. -/
def State.served (s : State) (r : Req) : List (Nat × Group × Op × LaneReq × Nat) :=
  match r.src with
  | .group _ op lanes =>
    if !s.current r then []
    else (s.groupsOf r.block).flatMap (fun e =>
      match e.2.findOp op with
      | none => []
      | some o => (o.lanes.filter (fun q => q.st == .sent && lanes.contains q.lane)).map
          (fun q => (e.1, e.2, o, q, lanes.findIdx (· == q.lane))))
  | .commit | .host _ | .peer _ _ | .engine _ _ | .walk _ | .stack _ | .device _ | .message _ _ _ => []

/-- Change the awaiting lanes of a request; each group is looked at again for what may now start. -/
def State.serve (s : State) (r : Req) (f : Op → Nat → LaneReq → LaneReq) : State :=
  match r.src with
  | .group _ op lanes =>
    if !s.current r then s
    else ((s.groupsOf r.block).filter (fun e => (e.2.findOp op).isSome)).foldl (fun s e =>
      (s.adjGroup e.1 (fun g => (g.adjOp op (fun o => { o with lanes := o.lanes.map (fun q =>
        if q.st == .sent && lanes.contains q.lane then f o (lanes.findIdx (· == q.lane)) q else q) })).settle)).startReady e.1) s
  | .commit | .host _ | .peer _ _ | .engine _ _ | .walk _ | .stack _ | .device _ | .message _ _ _ => s

def State.dropReq (s : State) (rid : Nat) : State := { s with reqs := AMap.del rid s.reqs }

def State.setReq (s : State) (rid : Nat) (r : Req) : State := { s with reqs := AMap.put rid r s.reqs }

/-- A lane's answer. -/
def LaneReq.answer (q : LaneReq) (val tag : Nat) : LaneReq := { q with val := val, tag := tag, st := .answered, unf := false }

/-- A merged float packet gives every lane one value (R149). -/
def Ask.merged : Ask → Bool
  | .atomic op _ _ merged => merged || op == .bf16x2add || op == .fp16x2add
  | .read | .readBytes _ | .prefetch | .write _ _ _ | .discard _ => false

/-- A lane's value of a line, with the bytes that stood in its block's buffer at issue. -/
def laneValue (o : Op) (q : LaneReq) (line : Nat) : Nat :=
  mixBytes o.size q.cmp q.data (line / 2 ^ (8 * (q.ia % 128)) % 2 ^ (8 * o.size))

/-- An answer reaches the lanes of a group that await it. -/
def State.land (s : State) (rid : Nat) (r : Req) (a : Answer) : State :=
  let s := s.dropReq rid
  match a with
  | .line x => s.serve r (fun o _ q => q.answer (laneValue o q x) 0)
  | .values tag l => s.serve r (fun _ i q => q.answer (l.getD (if r.ask.merged then 0 else i) 0) tag)
  | .fault kind own => s.serve r (fun _ _ q => { q with val := own, st := .faulted kind })

/-! ## Records (R353–R358, R371, R416) -/

/-- The partition that owns a PA's range, or the reader's own when none does. -/
def State.ownerOf (s : State) (part pa : Nat) : Nat :=
  ((List.range 8).find? (fun p => (s.part p).valid && (s.part p).owns (rangeOf pa))).getD part

/-- ACCESS of a request's record (Table 19.7): a copy engine's differ from those that a core's unit makes. -/
def Req.access (r : Req) : Nat :=
  let w := r.ask.isWrite
  match r.src with
  | .commit => 1
  | .host _ => if w then 8 else 7
  | .peer _ _ => if w then 10 else 9
  | .engine _ op => if op = 0 then 5 else if r.from_.place < 3 then 0 else if w then 4 else 3
  | .walk _ => 6
  | .stack _ | .device _ | .message _ _ _ => if w then 4 else 3
  | .group _ _ _ =>
    match r.ask with
    | .read | .readBytes _ | .prefetch | .discard _ => 0
    | .write _ _ _ => 1
    | .atomic _ _ _ _ => 2

/-- The request comes from outside the device. -/
def Req.outside (r : Req) : Bool :=
  match r.src with
  | .host _ | .peer _ _ => true
  | .commit | .group _ _ _ | .engine _ _ | .walk _ | .stack _ | .device _ | .message _ _ _ => false

/-- GROUP and LANE of a request's record: the first served group and its lowest lane; 0 for a committed store and for the host
or a peer (Table 19.7). -/
def State.recordPlace (s : State) (r : Req) : Nat × Nat :=
  match r.src, s.served r with
  | .engine gid _, _ => (((AMap.find gid s.groups).map Group.place).getD 0, 0)
  | _, [] => (0, 0)
  | _, (_, g, o, q, _) :: rest =>
    (g.place, if o.kind.whole then 0 else rest.foldl (fun m e => min m e.2.2.2.1.lane) q.lane)

/-- The record of a request's fault. -/
def State.reqRecord (s : State) (r : Req) (access kind page sect : Nat) : FaultRec :=
  let (group, lane) := s.recordPlace r
  { serial := 0#32, dup := 0, sect := sect, lane := lane, group := group,
    core := if r.core = noCore then 0 else s.denseCore r.part r.core, part := r.part, stamp := r.stamp, access := access,
    kind := kind, page := page }

/-- The record of a poisoned sector goes to the page's owner; another partition's reader is not named (R357, R358). -/
def State.poisonRecord (s : State) (r : Req) (access pa : Nat) : FaultRec :=
  let own := s.ownerOf r.part pa
  let e := s.reqRecord r access 0x08 (pa / 4096) (bits pa 11 5)
  if own = r.part then e else { e with part := own, stamp := 0, core := 0, group := 0, lane := 0 }

/-- Records that arise together: those of one merge key make one, whose DUP counts the others (R354). -/
def mergeAll : List FaultRec → List FaultRec → List FaultRec
  | acc, [] => acc
  | acc, r :: rest =>
    match mergeFault r acc with
    | some acc => mergeAll acc rest
    | none => mergeAll (acc ++ [r]) rest

def State.recordAll (s : State) (l : List FaultRec) : State := (mergeAll [] l).foldl State.record s

/-- A write under a key being revoked is discarded and counted (R363, R364); its acknowledgement carries a free tag
(DESIGN CHOICE, log 42). -/
def State.keyDrop (s : State) (rid : Nat) (r : Req) : State :=
  let (k, s) := (s.countKeydrop r.home).fresh
  s.sendBack rid r (.values ((Config.freeWord k).toNat % 2 ^ 32) [])

/-- A request that cannot be performed, its record apart: a prefetch is dropped, a committed store is held (R416), but waits
in its queue where no kind of R416 stands against it (DESIGN CHOICE, log 82); any other goes back, to be parked (R268) or, of the
device itself, to its command; `own` is the owner of a poisoned page and `key` the key of the leaf that turned it away. -/
def State.failReq (s : State) (rid : Nat) (r : Req) (kind own key : Nat) : State :=
  match r.ask, r.src with
  | .prefetch, _ => s.dropReq rid
  | _, .commit => s.setReq rid { r with st := if kind = 0x08 then .arrived else .heldWrite key, kind := kind }
  | _, .group _ _ _ | _, .engine _ _ | _, .walk _ | _, .device _ => s.sendBack rid r (.fault kind own)
  | _, .host _ | _, .peer _ _ | _, .stack _ | _, .message _ _ _ => s.dropReq rid

/-- The request is made for an engine command or a COLL, which ends with a code of its own when a peer is lost (R402). -/
def State.endsLost (s : State) (r : Req) : Bool :=
  match r.src with
  | .engine gid op =>
    match (AMap.find gid s.groups).bind (fun g => g.findOp op) with
    | some o => match o.kind with
      | .copy .. | .coll .. => true
      | .load .. | .store .. | .atomic .. | .scratchLoad _ | .scratchStore | .constLoad _ | .slotLoad _ | .slotStore | .emit
      | .discard .. | .acpy .. | .grid | .ldsc _ | .xput .. | .cbar _ => false
    | none => false
  | .group _ _ _ | .commit | .host _ | .peer _ _ | .walk _ | .stack _ | .device _ | .message _ _ _ => false

/-- A failing request puts a record in the fault buffer: a prefetch none (R144), the walker's own accesses none (it is their
requests that fail), a range table's none (Table 20.4), and none where a command ends instead. -/
def State.recorded (s : State) (r : Req) (kind : Nat) : Bool :=
  match r.ask, r.src with
  | .prefetch, _ | _, .walk _ | _, .device .table => false
  | _, _ => !(kind = 0x09 && s.endsLost r)

/-- A request from outside notes that a granule of it fails, with its record: it is performed whole or not at all (R371). -/
def State.noteBad (s : State) (rid : Nat) (r : Req) (granule : Nat) (e : FaultRec) : State :=
  s.setReq rid { r with st := .arrived, bads := r.bads ++ [(granule, e)] }

/-- Requests fail alike at a granule: those that share a walk make one record (R354). -/
def State.failWith (s : State) (rs : List (Nat × Req)) (kind own key granule : Nat) (recs : Req → List FaultRec) : State :=
  let ins := rs.filter (fun e => !e.2.outside)
  let s := s.recordAll ((ins.filter (fun e => s.recorded e.2 kind)).flatMap (fun e => recs e.2))
  let s := ins.foldl (fun s e => s.failReq e.1 e.2 kind own key) s
  (rs.filter (fun e => e.2.outside)).foldl (fun s e => (recs e.2).foldl (fun s x => match AMap.find e.1 s.reqs with
    | some r => s.noteBad e.1 r granule x
    | none => s) s) s

/-- Requests fail with a kind, those from outside at a granule. -/
def State.failAll (s : State) (rs : List (Nat × Req)) (kind key granule : Nat) : State :=
  s.failWith rs kind 0 key granule (fun r => [s.reqRecord r r.access kind (if r.outside then granule else r.ia / 4096) 0])

/-- Requests are lost with their peer, each at the part that it has come to (R402). -/
def State.failLost (s : State) (rs : List (Nat × Req)) : State :=
  s.failWith rs 0x09 0 0 0 (fun r => [s.reqRecord r r.access 0x09 ((r.ia + r.done) / 4096) 0])

/-- Poisoned sectors under requests: those that meet one alike make one record (R354, R357). -/
def State.failPoison (s : State) (rs : List (Nat × Req)) (access : Req → Nat) (granule : Nat) (pas : List Nat) : State :=
  match rs with
  | [] => s
  | (_, r) :: _ =>
    s.failWith rs 0x08 (s.ownerOf r.part (pas.headD 0)) 0 granule (fun r => pas.map (s.poisonRecord r (access r)))

/-! ## Atomics at the slice (Table 6.4) -/

/-- The new value of a w-bit word. -/
def atomNew (op : AOp) (w m x c : Nat) : Nat :=
  match op with
  | .add => (m + x) % 2 ^ w
  | .min => if sgn w m ≤ sgn w x then m else x
  | .max => if sgn w m ≤ sgn w x then x else m
  | .minn => min m x
  | .maxn => max m x
  | .and => m &&& x
  | .or => m ||| x
  | .xor => m ^^^ x
  | .xchg => x
  | .cas => if m = c then x else m
  | .fadd32 => addRn m x
  | .incw => if x ≤ m then 0 else m + 1
  | .bf16x2add | .fp16x2add => m

/-- Lanes' operands one at a time: the old values, and what is left. -/
def atomFold (op : AOp) (w : Nat) : List (Nat × Nat) → Nat → List Nat × Nat
  | [], m => ([], m)
  | (x, c) :: rest, m =>
    let (vs, m') := atomFold op w rest (atomNew op w m (x % 2 ^ w) (c % 2 ^ w))
    (m :: vs, m')

/-- The format of a pair operation. -/
def pairFmt : AOp → Option Fmt
  | .bf16x2add => some .bf16
  | .fp16x2add => some .fp16
  | .add | .min | .max | .minn | .maxn | .and | .or | .xor | .xchg | .cas | .fadd32 | .incw => none

/-- One half of a pair: m_e + x_e rounded to nearest even (R341). -/
def pairNew (f : Fmt) (m x : Nat) : Nat := (f.round .rn false false (FVal.sum .rn [f.value m, Fmt.fp32.value x]).1).1

/-- The recorded answer of a duplicate (R305) (DEDUCED, log 19). -/
def State.duplicate (s : State) (r : Req) (gid : Nat) : Option Filter :=
  s.filter.find? (fun f => f.slice == r.home && f.gid == gid && f.postmark == r.postmark
    && decide ((f.last - r.seq).toNat < 2 ^ 15))

/-- Keep an atomic's answer, unless a later one of its group has been kept. -/
def State.remember (s : State) (r : Req) (gid : Nat) (vals : List Nat) (tag : Nat) : State :=
  if (s.duplicate r gid).isSome then s
  else
    let e : Filter := { slice := r.home, gid := gid, postmark := r.postmark, last := r.seq, vals := vals, tag := tag }
    { s with filter := e :: s.filter.filter (fun f => !(f.slice == r.home && f.gid == gid && f.postmark == r.postmark)) }

/-- The sample of a completed request: its service time since it arrived, a miss when its stack was asked (R315). -/
def State.sampleService (s : State) (r : Req) : State :=
  s.gaugeSlice r.home (if r.fed.isEmpty then 0x11 else 0x12) (s.netClock - r.since)

/-- An atomic is done: its old values go back (R147). -/
def State.atomDone (s : State) (rid : Nat) (r : Req) (pa : Nat) (vals : List Nat) : State :=
  let (tag, s) := (s.sampleService r).nextTag pa
  let s := match r.atomicOf with
    | some gid => s.remember r gid vals tag
    | none => s
  s.sendBack rid r (.values tag vals)

/-- Under what a request is performed. -/
def Req.via (r : Req) (keyid : Nat) : Via := { part := r.part, slice := r.home, keyid := keyid, tensor := r.tensor }

/-- One half of a pair atomic: the old half (R341). -/
def State.pairHalf (s : State) (r : Req) (f : Fmt) (x pa keyid : Nat) (high : Bool) : Nat × State :=
  let off := if high then 2 else 0
  let (m, s) := s.getLine (r.via keyid) (r.ia + off) (pa + off) 2
  (m, s.putLine (r.via keyid) (r.ia + off) (pa + off) 2 (pairNew f m (if high then x / 2 ^ 32 % 2 ^ 32 else x % 2 ^ 32)))

/-- Perform an atomic, or the next half of a pair. -/
def State.performAtomic (s : State) (rid : Nat) (r : Req) (op : AOp) (n : Nat) (xs : List (Nat × Nat))
    (pa keyid : Nat) (high : Bool) : State :=
  let x := (xs.headD (0, 0)).1
  match pairFmt op, r.st with
  | none, _ =>
    let (m, s) := s.getLine (r.via keyid) r.ia pa n
    let (vals, m') := atomFold op (8 * n) xs m
    (s.putLine (r.via keyid) r.ia pa n m').atomDone rid r pa vals
  | some f, .half done old pa keyid =>
    let (m, s) := s.pairHalf r f x pa keyid (!done)
    s.atomDone rid r pa [if done then m + 65536 * old else old + 65536 * m]
  | some f, _ =>
    let (m, s) := s.pairHalf r f x pa keyid high
    s.setReq rid { r with st := .half high m pa keyid }

/-! ## Reads -/

/-- A younger write of the core to the line is under way, by its bytes within the line (R323). -/
def State.youngerBytes (s : State) (rid : Nat) (r : Req) : Nat :=
  s.reqs.foldl (fun m e =>
    if rid < e.1 && e.2.pending && e.2.ofCore && e.2.core == r.core && e.2.part == r.part && e.2.ia / 128 == r.ia / 128 then
      match e.2.ask with
      | .write n _ _ => m ||| byteMask (e.2.ia % 128) n
      | .atomic _ _ _ _ => 2 ^ 128 - 1
      | .read | .readBytes _ | .prefetch | .discard _ => m
    else m) 0

/-- The core keeps a fill of the bytes read, in place of older ones (R323): not where a younger write of its own is under way,
not poisoned sectors, and nothing while an atomic of its own on the line is under way (R324, R331). -/
def State.fillL1 (s : State) (rid : Nat) (r : Req) (pa data : Nat) : State :=
  let young := s.youngerBytes rid r
  let atom := s.reqs.any (fun e => e.2.pending && e.2.core == r.core && e.2.part == r.part && e.2.ia / 128 == r.ia / 128
    && match e.2.ask with
      | .atomic _ _ _ _ => true
      | .read | .readBytes _ | .prefetch | .write _ _ _ | .discard _ => false)
  if atom || !s.current r then s
  else (wordPieces r.ia r.ask.covers).foldl (fun s e =>
    if s.poisonAt r.part e.1 (wordPa r.ia pa e.1) then s
    else
      let c := s.core r.core
      let (m, d) := (AMap.find (l1Key r.part e.1) c.l1).getD (0, 0)
      let take := e.2 &&& notBits 16 ((young / 2 ^ (e.1 % 128)) % 2 ^ 16)
      if take = 0 then s
      else
        let x := mixBytes 16 take (data * 2 ^ (8 * (r.ia % 16)) / 2 ^ (8 * (e.1 - r.ia / 16 * 16)) % 2 ^ 128) d
        s.setCore r.core { c with l1 := AMap.put (l1Key r.part e.1) (m ||| take, x) c.l1 }) s

/-- A read whose bytes its core keeps: one of a group's lanes, or of a unit of the core that loads for a group; not a fetch. -/
def Req.fills (r : Req) : Bool :=
  match r.src, r.ask with
  | .group _ _ _, .read => true
  | .engine _ op, .readBytes _ => op != 0 && r.ofCore
  | _, _ => false

/-- What a request needs of the leaf (R350): a fetch needs X. -/
def Req.need (r : Req) : Need :=
  match r.src, r.ask with
  | .engine _ 0, _ => ⟨false, false, true⟩
  | _, .read | _, .readBytes _ | _, .prefetch => ⟨true, false, false⟩
  | _, .discard _ => ⟨false, false, false⟩
  | _, .write _ _ _ => ⟨false, true, false⟩
  | _, .atomic _ _ _ _ => ⟨true, true, false⟩

/-- The poisoned sectors that a read meets: of a line's, those that its lanes need (R357, DEDUCED, log 55). -/
def State.meetsPoison (s : State) (r : Req) (pa : Nat) : List Nat :=
  match r.ask with
  | .read => ((s.served r).flatMap (fun e =>
      s.badSectors r.part e.2.2.2.1.ia (pa + e.2.2.2.1.ia % 128) e.2.2.1.size)).eraseDups
  | .readBytes _ | .atomic _ _ _ _ => s.badSectors r.part r.ia pa r.ask.covers
  | .prefetch | .write _ _ _ | .discard _ => []

/-- Perform a read (R324, R357, R388): a core keeps the fill of what a group reads. -/
def State.performRead (s : State) (rid : Nat) (r : Req) (pa keyid : Nat) : State :=
  let (x, s) := (s.sampleService r).getLine (r.via keyid) r.ia pa r.ask.covers
  (if r.fills then s.fillL1 rid r pa x else s).sendBack rid r (.line x)

/-! ## Peer memory (R393, R395, R397, R402) -/

/-- Bytes of the part of a request that a peer takes next, at its address: all of a line or an atomic, else what lies in one
64-byte granule (Table 22.1, DESIGN CHOICE, log 83). -/
def Req.peerLen (r : Req) (pa : Nat) : Nat :=
  match r.ask with
  | .readBytes n | .write n _ _ => min (64 - pa % 64) (n - r.done)
  | .read | .prefetch | .atomic _ _ _ _ | .discard _ => r.ask.covers

/-- A request whose next part stands at a peer's address x touches, with what is left of it, a 64-byte granule that n bytes at a
peer's address touch. -/
def Req.meets (r : Req) (x pa n : Nat) : Bool :=
  decide (x / 64 ≤ (pa + n - 1) / 64) && decide (pa / 64 ≤ (x + (r.ask.covers - r.done) - 1) / 64)

/-- An atomic that the fabric carries (Table 22.1, R393). -/
def Ask.carried : Ask → Bool
  | .atomic op _ _ _ =>
    match op with
    | .fadd32 | .bf16x2add | .fp16x2add | .incw => false
    | .add | .min | .max | .minn | .maxn | .and | .or | .xor | .xchg | .cas => true
  | .read | .readBytes _ | .prefetch | .write _ _ _ | .discard _ => true

/-- The 64-byte flits of the transaction layer that a request takes at a port: one, and its data (R398, DESIGN CHOICE,
log 84). -/
def tlFlits (n : Nat) : Nat := 1 + (n + 63) / 64

/-- Bytes of data that the next part of a request carries to a peer. -/
def Req.peerData (r : Req) (pa : Nat) : Nat :=
  match r.ask with
  | .write _ _ _ => r.peerLen pa
  | .read | .readBytes _ | .prefetch | .atomic _ _ _ _ | .discard _ => r.ask.dataBytes

/-- The port that serves an accelerator (R395). -/
def portTo (d : Nat) : LinkId := .port (Config.routePort d).val

/-- The next part of a request takes its place at the port of its destination: behind what stands there, or, once the part before it
is done, where that stood (R395). -/
def State.atPort (s : State) (rid : Nat) (r : Req) (pa : Nat) (next : Bool) : State :=
  let d := bits pa 49 40
  let s := s.setReq rid { r with st := .atPeer d pa (Sparse.get 0#8 (s.part r.part).epochs d) none }
  let l := s.link (portTo d)
  let e := (rid, tlFlits (r.peerData pa))
  s.setLink (portTo d) { l with ready := if next then e :: l.ready else l.ready ++ [e] }

/-- A message of the device joins the queue of an accelerator's port, in a partition's slots and a class (R300, R398). -/
def State.post (s : State) (d : Nat) (r : Req) (n : Nat) : State :=
  let rid := s.nextId
  let s : State := { s with nextId := rid + 1, reqs := AMap.put rid { r with hops := [portTo d], ppm := (s.part r.part).ppm } s.reqs }
  let l := s.link (portTo d)
  s.setLink (portTo d) { l with ready := l.ready ++ [(rid, tlFlits n)] }

/-- A PA of a peer that the partition has quarantined. -/
def State.lostPeer (s : State) (part pa : Nat) : Bool :=
  ofPeerMem pa && Sparse.get false (s.part part).quarantined (bits pa 49 40)

/-- A request reaches peer memory: it goes to the port of its destination, or fails; its core keeps no line of it (R393, R395,
R402). -/
def State.toPeer (s : State) (rid : Nat) (r : Req) (pa : Nat) : State :=
  let s := if r.ofCore then s.dropLine r.core r.part r.ia else s
  if r.ask == .prefetch then s.dropReq rid
  else if !r.ask.carried then s.failAll [(rid, r)] 0x0A 0 (r.ia / 4096)
  else if s.lostPeer r.part pa then s.failLost [(rid, r)]
  else s.atPort rid r pa false

/-! ## Units that act for a group (R135, R255, R258, R316) -/

/-- Who acts: the group, its operation or 0 for its fetch, what its requests carry, and the station that sends them. -/
structure Actor where
  gid : Nat
  op : Nat
  part : Nat
  core : Nat
  block : Nat
  mark : BitVec 8
  stamp : Nat
  cls : Cls
  tensor : Nat
  at_ : Station
  deriving DecidableEq, Repr

/-- The unit's request at an IA, to a home slice. -/
def Actor.req (u : Actor) (ia home : Nat) (ask : Ask) : Req :=
  { ask := ask, src := .engine u.gid u.op, part := u.part, ppm := 0#8, ia := ia, home := home, cls := u.cls, stamp := u.stamp,
    tensor := u.tensor, block := u.block, postmark := u.mark, seq := 0#16, core := u.core, hops := [], st := .transit, since := 0,
    arrival := 0, from_ := u.at_ }

/-- A unit's requests, with their ids. -/
def State.unitReqs (s : State) (gid op : Nat) : List (Nat × Req) := s.reqs.filter (fun e => e.2.src == .engine gid op)

/-- The unit's request for n bytes at an IA. -/
def State.unitRead (s : State) (gid op ia n : Nat) : Option Req :=
  ((s.unitReqs gid op).find? (fun e => e.2.ask == .readBytes n && e.2.ia == ia)).map Prod.snd

/-- A unit reads n bytes at an IA: it asks once, with the bytes that its block's buffer then holds, and has them when the answer
stands at the unit. -/
def State.unitAsk (s : State) (u : Actor) (ia home n : Nat) (laid : Nat × Nat) : Option Nat × State :=
  match s.unitRead u.gid u.op ia n with
  | none => (none, s.send { u.req ia home (.readBytes n) with laid := laid })
  | some r =>
    match r.st with
    | .unitData x => (some (mixBytes n r.laid.1 r.laid.2 x), s)
    | .transit | .arrived | .walking _ | .half _ _ _ _ | .heldWrite _ | .atPeer _ _ _ _ | .back _ => (none, s)

/-- A unit keeps n bytes that it has found at its core for an operation. -/
def State.unitKeep (s : State) (u : Actor) (ia home n x : Nat) : State :=
  { s with reqs := AMap.put s.nextId { u.req ia home (.readBytes n) with st := .unitData x } s.reqs, nextId := s.nextId + 1 }

/-- Every write of an operation has been performed and acknowledged (R318, R397). -/
def State.writesDone (s : State) (gid op : Nat) : Bool := (s.unitReqs gid op).all (fun e => !e.2.ask.isWrite)

/-- The data of reads that a unit has used, or will not use. -/
def State.dropReads (s : State) (gid op : Nat) : State :=
  { s with reqs := s.reqs.filter (fun e => e.2.src != .engine gid op || match e.2.st with
      | .unitData _ => false
      | .transit | .arrived | .walking _ | .half _ _ _ _ | .heldWrite _ | .atPeer _ _ _ _ | .back _ => true) }

/-! ## Performing -/

/-- The frame of a slice's port stands in a slot of the partition (R306). -/
def State.inSlot (s : State) (id : LinkId) (p : Nat) : Bool := (s.part p).valid && bitAt (s.part p).slots (s.link id).slot

/-- A request at its slice needs its stack for n bytes at an IA: bytes that the cache lacks, and a write that passes it by; not
what the stack has given it already (R309, R313, R345). -/
def State.needsStack (s : State) (r : Req) (ia pa n : Nat) : Bool :=
  !bitAt pa 51 && !r.fed.contains (pa / 128) && s.misses r.part ia pa n
    && (r.need.r || r.need.x || s.bypass r.part)

/-- It asks the stack for a line, or sends it its bytes from `off` on as a masked write, once. -/
def State.askStack (s : State) (rid : Nat) (r : Req) (slice pa off n : Nat) : State :=
  if s.reqs.any (fun e => e.2.src == .stack rid && e.2.ia / 128 == pa / 128) then s
  else s.toStack r.part slice pa r.cls rid (match r.ask with
    | .write _ data _ => .write n (data / 2 ^ (8 * off) % 2 ^ (8 * n)) true
    | .read | .readBytes _ | .prefetch | .atomic _ _ _ _ | .discard _ => .read)

/-- A write of a request takes the next sequence tag of each of its lines, and keeps the last; what the device itself writes takes none
(R310, DEDUCED, log 71). -/
def State.tagLines (s : State) (r : Req) (pa : Nat) : Nat × State :=
  if r.ofDevice then (0, s)
  else (linePieces r.ia r.ask.covers).foldl (fun acc q => acc.2.nextTag (pa + q.2.1)) (0, s)

/-- One slice drops a partition's blocks tagged with the id, without write-back (R312). -/
def State.discardAt (s : State) (part slice t : Nat) : State :=
  { s with l2 := s.l2.filter (fun e => !(e.1 / 2 ^ 52 == part && e.2.slice == slice && e.2.tensor == t)) }

/-- Perform a request at memory of the device or the host; the second half of a pair atomic completes it, and a duplicate of one
that has been performed gets its answer, but not one that is itself performed in half (R305, R341). -/
def State.performHere (s : State) (rid : Nat) (r : Req) (pa keyid : Nat) (high : Bool) : State :=
  match r.ask with
  | .read | .readBytes _ => s.performRead rid r pa keyid
  | .prefetch => ((s.sampleService r).getLine (r.via keyid) r.ia pa 128).2.dropReq rid
  | .write n data _ =>
    let (tag, s) := (s.sampleService r).tagLines r pa
    (s.putLine (r.via keyid) r.ia pa n data).sendBack rid r (.values tag [])
  | .discard t => ((s.sampleService r).discardAt r.part r.home t).sendBack rid r (.values 0 [])
  | .atomic op n xs _ =>
    match if r.queued then r.atomicOf.bind (s.duplicate r) else none with
    | some f => s.sendBack rid r (.values f.tag f.vals)
    | none => s.performAtomic rid r op n xs pa keyid high

/-- A request is performed at a translated address, a burst's lines together, or goes to a peer, or asks its stack for the lines that
it lacks (R309, R395), or fails at a poisoned sector (R357). -/
def State.perform (s : State) (rid : Nat) (r : Req) (pa keyid : Nat) (high : Bool) : State :=
  if ofPeerMem pa then s.toPeer rid r pa
  else match (linePieces r.ia r.ask.covers).filter (fun q => s.needsStack r q.1 (pa + q.2.1) q.2.2) with
    | [] =>
      match s.meetsPoison r pa with
      | [] => s.performHere rid r pa keyid high
      | bad => s.failPoison [(rid, r)] Req.access (r.ia / 4096) bad
    | far => far.foldl (fun s q => s.askStack rid r r.home (pa + q.2.1) q.2.1 q.2.2) s

/-- It stands in its slice's order of arrival, not yet performed: one from outside while a peer has a part of it, too. -/
def Req.stands (r : Req) : Bool :=
  r.queued || (r.outside && match r.st with
    | .atPeer _ _ _ _ => true
    | .transit | .arrived | .walking _ | .half _ _ _ _ | .heldWrite _ | .unitData _ | .back _ => false)

/-- A request that stands before another at a line: it arrived before it (R309, R416). -/
def standsBefore (rid : Nat) (r : Req) (e : Nat × Req) : Bool :=
  e.1 != rid && e.2.part == r.part && e.2.stands && decide (e.2.arrival < r.arrival) && e.2.linesMeet r

/-- Two requests touch a byte alike. -/
def Req.overlaps (x r : Req) : Bool := decide (x.ia < r.ia + r.ask.covers) && decide (r.ia < x.ia + x.ask.covers)

/-- An earlier request of its own, not yet performed, that this one may not pass: but between the halves of a pair atomic others
may be (R341), all but its own group's at the same place (R149, R330), and what stands at a port holds back only its own granule
(R397, R400), but for a completion record (R381). -/
def Req.holdsBack (x r : Req) : Bool :=
  x.comesBefore r && match x.st with
    | .transit | .arrived | .walking _ | .heldWrite _ => true
    | .half _ _ _ _ => x.atomicOf.isSome && x.atomicOf == r.atomicOf && x.overlaps r
    | .atPeer _ _ _ _ => x.isRecord
    | .unitData _ | .back _ => false

/-- An earlier request that this one may not pass: to its line, one that arrived before it (R309, R416), or one that it comes
behind in its order of issue (R305, R322, R323, R330) (DEDUCED, log 19). The walker's accesses are a path of their own (R349). -/
def State.mustWait (s : State) (rid : Nat) (r : Req) : Bool :=
  match r.src with
  | .walk _ => false
  | .group _ _ _ | .commit | .host _ | .peer _ _ | .engine _ _ | .stack _ | .device _ | .message _ _ _ =>
    s.reqs.any (fun e => standsBefore rid r e || (decide (e.1 < rid) && e.2.holdsBack r))

/-! ## Walks (R349, R350, R352) -/

/-- The walker's own packet, to the home slice of an entry's PA (R349). -/
def State.walkAsk (s : State) (wid : Nat) (w : Walk) (pa : Nat) (ask : Ask) : State :=
  s.send
    { ask := ask, src := .walk wid, part := w.part, ppm := 0#8, ia := pa, home := s.home w.part 0xFF pa, cls := w.cls, stamp := 0,
      tensor := 0, block := 0, postmark := 0#8, seq := 0#16, core := noCore, hops := [], st := .transit, since := 0, arrival := 0,
      from_ := memStation w.quad }

def State.setWalk (s : State) (wid : Nat) (w : Walk) : State := { s with walks := AMap.put wid w s.walks }

/-- A walk goes on with the entries that it has read: it asks for the next, or has found what it looks for. -/
def State.walkOn (s : State) (wid : Nat) (w : Walk) (seen : List (Nat × Answer)) : State :=
  match s.walkFrom (fun pa => (seen.find? (fun e => e.1 == pa)).map Prod.snd) w.part w.quad w.ia with
  | .inl pa => (s.setWalk wid { w with st := .reading seen }).walkAsk wid w pa (.readBytes 8)
  | .inr res => s.setWalk wid { w with st := .found res }

/-- A TLB miss at an IA asks the quadrant's walker: it joins the walk of its granule, or starts one of the 16 (R350). -/
def State.askWalk (s : State) (rid : Nat) (r : Req) (ia slice : Nat) : State :=
  let quad := quadOf slice
  match s.walks.find? (fun e => e.2.quad == quad && e.2.part == r.part && e.2.ia / 4096 == ia / 4096) with
  | some e => s.setReq rid { r with st := .walking e.1 }
  | none =>
    if 16 ≤ (s.walks.filter (fun e => e.2.quad == quad)).length then s
    else
      let wid := s.nextId
      let w : Walk := { quad := quad, slice := slice, part := r.part, ia := ia, cls := r.cls, gen := Sparse.get 0 s.gens quad,
                        started := s.netClock, restarts := 0, st := .reading [] }
      (({ s with nextId := wid + 1 }).setReq rid { r with st := .walking wid }).walkOn wid w []

/-- It needs no translation: the walker's own go to their entry's PA, and a DISCARD names no memory. -/
def Req.untranslated (r : Req) : Bool :=
  match r.src, r.ask with
  | .walk _, _ | _, .discard _ => true
  | _, .read | _, .readBytes _ | _, .prefetch | _, .write _ _ _ | _, .atomic _ _ _ _ => false

/-- A request that its slice translates is performed, or waits for its walk. One that stood
before the slice arrives when what it came behind is gone. -/
def State.coreRequest (s : State) (rid : Nat) (r : Req) (high : Bool) : State :=
  match r.st with
  | .half _ _ pa keyid => s.perform rid r pa keyid high
  | .arrived =>
    if s.mustWait rid r then s
    else if r.untranslated then s.perform rid r r.ia 0 high
    else match s.tlbHit r.part r.home r.ia r.stamp r.need with
      | some e => (s.tlbPull r.home e).perform rid r (e.addr r.ia) e.keyid high
      | none => s.askWalk rid r r.ia r.home
  | .transit => if r.atDoor then s.takeIn rid r else s
  | .walking _ | .heldWrite _ | .atPeer _ _ _ _ | .unitData _ | .back _ => s

/-! ## Requests of the host and of peers (R370, R371, R396) -/

/-- Answer the outside (R371, R404): the host reads it; a peer's completion goes through its port, in the slots of the partition that
it asked and in its request's class (R300, R398), and where no such partition exists the port answers itself (DESIGN CHOICE, log 84). -/
def State.reply (s : State) (r : Req) (data : List Byte) (abort : Bool) : State :=
  let say (peer : Option Nat) (tag : Nat) : State :=
    { s with replies := s.replies ++ [{ toPeer := peer, tag := tag, data := data, abort := abort, cls := r.cls }] }
  match r.src with
  | .host tag => say none tag
  | .peer a tag =>
    if (s.part r.part).valid then
      s.post a { r with st := .back (if abort then .fault 0 0 else if data.isEmpty then .values 0 [] else .line (leVal data)) } data.length
    else say (some a) tag
  | .commit | .group _ _ _ | .engine _ _ | .walk _ | .stack _ | .device _ | .message _ _ _ => s

/-- A request that nobody awaits an answer of: a posted write of the host. -/
def Req.posted (r : Req) : Bool :=
  match r.src, r.ask with
  | .host _, .write _ _ _ => true
  | _, _ => false

/-- The request comes from a peer. -/
def Req.ofPeer (r : Req) : Bool :=
  match r.src with
  | .peer _ _ => true
  | .host _ | .group _ _ _ | .commit | .engine _ _ | .walk _ | .stack _ | .device _ | .message _ _ _ => false

/-- A peer reaches only what the partition owns (R396). -/
def State.peerMayReach (s : State) (part pa : Nat) : Bool := bitAt pa 51 || (s.part part).owns (rangeOf pa)

/-- A part of an outside request, within one line, where it lies. -/
structure Piece where
  ia : Nat
  /-- bytes of the request before it -/
  off : Nat
  len : Nat
  pa : Nat
  keyid : Nat
  deriving DecidableEq, Repr

/-- An outside request answered with an abort, or discarded when posted (R371, R404). -/
def State.abort (s : State) (rid : Nat) (r : Req) : State :=
  let s := s.dropReq rid
  if r.posted then s else s.reply r [] true

/-- Translate each part of an outside request through the TLBs: where those that do not fail lie, or the first that has to ask the
walker. -/
def State.placePieces (s : State) (r : Req) : List (Nat × Nat × Nat) → Sum Nat (List Piece)
  | [] => .inr []
  | (a, off, n) :: rest =>
    match s.placePieces r rest with
    | .inl x => .inl x
    | .inr l =>
      if r.bads.any (fun e => e.1 == a / 4096) then .inr l
      else match s.tlbHit r.part (s.home r.part 0xFF a) a 0 r.need with
        | some e => .inr ({ ia := a, off := off, len := n, pa := e.addr a, keyid := e.keyid } :: l)
        | none => .inl a

/-- The records of an outside request at the places of its parts: memory that a peer may not reach, and poisoned sectors, those
under a posted write too (R371, R396). -/
def State.badPlaces (s : State) (r : Req) (l : List Piece) : List FaultRec :=
  l.flatMap (fun q =>
    if r.ofPeer && !s.peerMayReach r.part q.pa then [s.reqRecord r r.access 0x0C (q.ia / 4096) 0]
    else (s.badSectors r.part q.ia q.pa q.len).map (s.poisonRecord r r.access))

/-- A duplicate of a Larua peer's atomic (R399). -/
def State.peerDuplicate (s : State) (r : Req) : Option Filter := if r.ofPeer && r.block ≠ 0 then s.duplicate r r.block else none

/-- Write a part of an outside request, under its byte mask if it has one. -/
def State.writePiece (s : State) (r : Req) (v : Via) (data : Nat) (q : Piece) : State :=
  let s := (s.nextTag q.pa).2
  if r.mask.isEmpty then s.putLine v q.ia q.pa q.len (data / 2 ^ (8 * q.off) % 2 ^ (8 * q.len))
  else (List.range q.len).foldl (fun s i =>
    if r.mask.getD (q.off + i) false then s.putLine v (q.ia + i) (q.pa + i) 1 (data / 2 ^ (8 * (q.off + i)) % 256) else s) s

/-- How an outside request reaches a part: at the part's own home, with tensor id 0 (DESIGN CHOICE, log 91). -/
def State.pieceVia (s : State) (r : Req) (q : Piece) : Via :=
  { part := r.part, slice := s.home r.part 0xFF q.ia, keyid := q.keyid, tensor := 0 }

/-- An outside request performs what it asks at the places of its parts that lie in the device's or the host's memory; `r.got` is what a
peer has given of the others. -/
def State.outsideNow (s : State) (r : Req) (found : List Piece) : State :=
  let s := s.sampleService r
  match r.ask with
  | .read | .readBytes _ | .prefetch | .discard _ =>
    let (x, s) := found.foldl (fun (acc : Nat × State) q =>
      let (v, s) := acc.2.getLine (acc.2.pieceVia r q) q.ia q.pa q.len
      (acc.1 + v * 2 ^ (8 * q.off), s)) (r.got, s)
    s.reply r (leBytes r.ask.covers x) false
  | .write _ data _ =>
    let s := found.foldl (fun s q => s.writePiece r (s.pieceVia r q) data q) s
    if r.posted then s else s.reply r [] false
  | .atomic op n xs _ =>
    match found with
    | [] => s.reply r (leBytes n r.got) false
    | q :: _ =>
      let v := s.pieceVia r q
      let (m, s) := s.getLine v q.ia q.pa n
      let (vals, m') := atomFold op (8 * n) xs m
      let (tag, s) := s.nextTag q.pa
      let s := s.putLine v q.ia q.pa n m'
      let s := if r.ofPeer && r.block ≠ 0 then s.remember r r.block vals tag else s
      s.reply r (leBytes n (vals.headD 0)) false

/-- The part of an outside request that has next to go to a peer (R367, R370, R395). -/
def Req.nextPeer (r : Req) (l : List Piece) : Option Piece :=
  l.find? (fun q => ofPeerMem q.pa && decide (r.done < q.off + q.len))

/-- An outside request is performed whole or not at all (R371), once every part is translated: parts in peer memory go to their ports
first, one after another (DESIGN CHOICE, log 35). -/
def State.outsidePlaced (s : State) (rid : Nat) (r : Req) (l : List Piece) : State :=
  let bad := r.bads.map Prod.snd ++ s.badPlaces r l
  let far := l.filter (fun q => s.needsStack r q.ia q.pa q.len)
  if !bad.isEmpty then (s.recordAll bad).abort rid r
  else match r.nextPeer l with
    | some q =>
      let d := max r.done q.off
      s.toPeer rid { r with done := d } (q.pa + (d - q.off))
    | none =>
      if far.isEmpty then (s.dropReq rid).outsideNow r (l.filter (fun q => !ofPeerMem q.pa))
      else far.foldl (fun s q => s.askStack rid r (s.home r.part 0xFF q.ia) q.pa q.off q.len) s

/-- An outside request at its slice, behind what stands before it at its lines; a duplicate of a peer's atomic is answered as the
first was (R399). -/
def State.outsideRequest (s : State) (rid : Nat) (r : Req) : State :=
  let pieces := linePieces r.ia r.ask.covers
  if r.st != .arrived || s.reqs.any (standsBefore rid r) then s
  else match s.peerDuplicate r with
    | some f => (s.dropReq rid).reply r (leBytes r.ask.covers (f.vals.headD 0)) false
    | none =>
      match s.placePieces r pieces with
      | .inl a => s.askWalk rid r a (s.home r.part 0xFF a)
      | .inr l => s.outsidePlaced rid r l

/-- The faults that an outside request would meet now at one of its parts (R371). -/
def State.faultsNow (s : State) (r : Req) (ia n : Nat) : List FaultRec :=
  match s.physNow r.part ia 0 r.need with
  | .fault k => [s.reqRecord r r.access k (ia / 4096) 0]
  | .poisoned pa => [s.poisonRecord r 6 pa]
  | .ok pa _ => s.badPlaces r [{ ia := ia, off := 0, len := n, pa := pa, keyid := 0 }]

/-- The kind of the held write behind which an outside request waits at a line (R416). -/
def State.heldKind (s : State) (rid : Nat) (r : Req) (line : Nat) : Option Nat :=
  (s.reqs.find? (fun e => standsBefore rid r e && e.2.onLine line && match e.2.st with
    | .heldWrite _ => true
    | .transit | .arrived | .walking _ | .half _ _ _ _ | .atPeer _ _ _ _ | .unitData _ | .back _ => false)).map (fun e => e.2.kind)

/-- The records of an outside request that is given up behind a held write: the faults that it meets itself, and where it meets none
the held write's kind, at its line's page (R371, R416, DEDUCED, log 49). -/
def State.heldRecords (s : State) (rid : Nat) (r : Req) : List FaultRec :=
  let l := linePieces r.ia r.ask.covers
  if !l.any (fun q => (s.heldKind rid r (q.1 / 128)).isSome) then []
  else (l.flatMap (fun q =>
    match s.heldKind rid r (q.1 / 128), s.faultsNow r q.1 q.2.2 with
    | some k, [] => [s.reqRecord r r.access k (q.1 / 4096) 0]
    | _, bad => bad)).eraseDups

/-! ## Invalidations (R348, R352) -/

/-- The translations that a TLBICMD value covers: all, those of IA granules from ADDR on, those built from guest granules from
ADDR on; CMD 3 covers none. ADDR has bits 51–12, so that IAs alike in them are covered alike (DESIGN CHOICE, log 92). -/
def tlbiCovers (v : Nat) (e : TlbEntry) : Bool :=
  let a := bits v 51 12
  let n := bits v 11 4 + 1
  match v % 4 with
  | 0 => true
  | 1 => decide (a ≤ e.gran % 2 ^ 40) && decide (e.gran % 2 ^ 40 < a + n)
  | 2 => e.guests.any (fun g => decide (a ≤ g) && decide (g < a + n))
  | _ => false

/-- The quadrants in which a partition has slices. -/
def State.quadsOf (s : State) (p : Nat) : List Nat :=
  (List.range 32).filter (fun q => (List.range 20).any (fun k => s.hasSlice p (20 * q + k)))

/-- A walk on its fifth start holds the quadrant's increments back (R352). -/
def State.holdsBack (s : State) (quad : Nat) : Bool := s.walks.any (fun e => e.2.quad == quad && decide (4 ≤ e.2.restarts))

/-- The increment of one quadrant for an invalidation: the covered translations go, and every walk there that is older is awaited. -/
def State.invalQuad (s : State) (p cmd quad : Nat) : List (Nat × Nat) × State :=
  ((s.walks.filter (fun e => e.2.quad == quad)).map (fun e => (e.1, e.2.gen)),
   { s with tlb := s.tlb.filter (fun e => !(e.part == p && e.quad == quad && tlbiCovers cmd e)),
            gens := Sparse.set 0 s.gens quad (Sparse.get 0 s.gens quad + 1) })

/-- The increments of some quadrants. -/
def State.invalQuads (p cmd : Nat) : List Nat → State → List (Nat × Nat) × State
  | [], s => ([], s)
  | q :: rest, s =>
    let (l, s) := s.invalQuad p cmd q
    let (m, s) := State.invalQuads p cmd rest s
    (l ++ m, s)

/-- An invalidation reaches the partition's quadrants, but for those that hold it back; one behind another that is held back
there waits too (R352). A write of a translation register has no serial, and nothing waits for its end (R348). -/
def State.invalidate (s : State) (p cmd : Nat) (serial : Option (BitVec 32)) : State :=
  let behind (q : Nat) : Bool := (s.part p).invals.any (fun i => i.held.contains q)
  let quads := s.quadsOf p
  let held := quads.filter (fun q => s.holdsBack q || behind q)
  let (waits, s) := State.invalQuads p cmd (quads.filter (fun q => !held.contains q)) s
  if serial.isNone && held.isEmpty then s
  else
    let q := s.part p
    s.setPart p { q with invals := q.invals ++ [{ serial := serial, cmd := cmd, held := held, waits := waits }] }

/-- The invalidations of a partition that were held back in a quadrant reach it, in their order. -/
def State.releaseInvals (p quad : Nat) : List Inval → State → List Inval × State
  | [], s => ([], s)
  | i :: rest, s =>
    let (i, s) :=
      if i.held.contains quad then
        let (l, s) := s.invalQuad p i.cmd quad
        ({ i with held := i.held.filter (fun q => q != quad), waits := i.waits ++ l }, s)
      else (i, s)
    let (l, s) := State.releaseInvals p quad rest s
    (i :: l, s)

def State.releaseHeld (s : State) (quad : Nat) : State :=
  if s.holdsBack quad then s
  else (List.range 8).foldl (fun s p =>
    let l := (s.part p).invals
    if l.any (fun i => i.held.contains quad) then
      let (l, s) := State.releaseInvals p quad l s
      s.setPart p { s.part p with invals := l }
    else s) s

/-- It has reached every quadrant, and the walks that it waits for have ended or started again. -/
def State.invalMet (s : State) (i : Inval) : Bool :=
  i.held.isEmpty && i.waits.all (fun w => match AMap.find w.1 s.walks with
    | none => true
    | some k => decide (w.2 < k.gen))

/-! ## The end of a walk -/

/-- The requests that wait for a walk. -/
def State.walkers (s : State) (wid : Nat) : List (Nat × Req) := s.reqs.filter (fun e => e.2.st == .walking wid)

/-- A walk is over; increments that it held back come now (R352). -/
def State.endWalk (s : State) (wid quad : Nat) : State := ({ s with walks := AMap.del wid s.walks }).releaseHeld quad

/-- A walk starts again from TTB1 (R350, R352). -/
def State.restartWalk (s : State) (wid : Nat) (w : Walk) : State :=
  s.walkOn wid { w with gen := Sparse.get 0 s.gens w.quad, restarts := w.restarts + 1 } []

/-- The waiting requests return to their slices, where the translation now stands. -/
def State.wake (s : State) (wid : Nat) (e : TlbEntry) (w : Walk) : State :=
  let s := (s.tlbFill w.slice e).endWalk wid w.quad
  { s with reqs := s.reqs.map (fun x => if x.2.st == .walking wid then (x.1, { x.2 with st := .arrived }) else x) }

/-- A write under a key being revoked is discarded and counted where it arrives (R363, R364): its acknowledgement carries a free
tag (DESIGN CHOICE, log 42). -/
def State.discard (s : State) (rid : Nat) (r : Req) : State :=
  if r.outside then
    let s := (s.countKeydrop r.home).dropReq rid
    if r.posted then s else s.reply r [] false
  else s.keyDrop rid r

/-- The waiting requests that a walk's end does not allow fail, each by its own verdict; a write under a key whose sweep
runs is discarded (R350, R363, R364). -/
def State.turnAway (s : State) (e : TlbEntry) (e1 : Nat) (ws : List (Nat × Req)) : State :=
  let judged (k : Nat) := ws.filter (fun x => s.verdict e e1 x.2.stamp x.2.need == some k)
  let gone (x : Nat × Req) : Bool := s.sweepingKey e.keyid && x.2.ask.isWrite && !x.2.need.r
  let s' := [0x04, 0x06, 0x0C].foldl (fun s' k => s'.failAll (judged k) k 0 e.gran) s
  ((judged 0x0B).filter gone).foldl (fun s x => s.discard x.1 x.2)
    (s'.failAll ((judged 0x0B).filter (fun x => !gone x)) 0x0B e.keyid e.gran)

/-- Its leaves have their bits: a result of an older generation is discarded and the walk starts again, but on its fifth start it
completes (R350, R352). -/
def State.walkSwapped (s : State) (wid : Nat) (w : Walk) (e : TlbEntry) : State :=
  if Sparse.get 0 s.gens w.quad ≠ w.gen && w.restarts < 4 then s.restartWalk wid w
  else if ofHostMem e.pa then s.setWalk wid { w with st := .found (.host e) }
  else s.wake wid e w

/-- Set A, and D for a write, in the leaves that lack them, one after another by a swap at the leaf's home slice; a leaf that the
partition may only read fails (R345, R349, R350). -/
def State.walkSwap (s : State) (wid : Nat) (w : Walk) (e : TlbEntry) (e1 : Nat) (write : Bool)
    (leaves : List (Nat × Nat × Bool)) : State :=
  match nextSwap write leaves with
  | [] => s.walkSwapped wid w { e with d := e.d || write }
  | l :: rest =>
    if !(s.part w.part).paOk l.1 true then (s.failAll (s.walkers wid) 0x0C 0 (w.ia / 4096)).endWalk wid w.quad
    else (s.setWalk wid { w with st := .swapping e e1 (l :: rest) write }).walkAsk wid w l.1
      (.atomic .cas 8 [(leafWant write l, l.2.1)] false)

/-- A walk ends at an entry that fails, or at a leaf: requests that it does not serve fail, and its swaps begin (R350, R354). -/
def State.finishWalk (s : State) (wid : Nat) (w : Walk) (res : WalkRes) : State :=
  let ws := s.walkers wid
  match res with
  | .fault k => (s.failAll ws k 0 (w.ia / 4096)).endWalk wid w.quad
  | .poisoned pa => (s.failPoison ws (fun _ => 6) (w.ia / 4096) [pa]).endWalk wid w.quad
  | .host _ => s
  | .leaf e e1 leaves =>
    let good := ws.filter (fun x => (s.verdict e e1 x.2.stamp x.2.need).isNone)
    let s := s.turnAway e e1 ws
    if good.isEmpty then s.endWalk wid w.quad else s.walkSwap wid w e e1 (good.any (fun x => x.2.need.w)) leaves

/-- An answer to the walker: an entry that it reads, or a swap. A swap that finds another value has the walk start again, but on
its fifth start it goes on (R350, R352, DEDUCED, log 88). -/
def State.walkAnswer (s : State) (wid pa : Nat) (a : Answer) : State :=
  match AMap.find wid s.walks with
  | none => s
  | some w =>
    match w.st with
    | .reading seen => s.walkOn wid w (seen ++ [(pa, a)])
    | .found _ => s
    | .swapping _ _ [] _ => s
    | .swapping e e1 (l :: rest) write =>
      match a with
      | .fault k _ => s.finishWalk wid w (if k = 0x08 then .poisoned l.1 else .fault k)
      | .line _ | .values _ _ =>
        let old := match a with
          | .values _ v => v.headD 0
          | .line x => x
          | .fault _ _ => 0
        if old = l.2.1 || 4 ≤ w.restarts then s.walkSwap wid w e e1 write rest else s.restartWalk wid w

/-- WALK_COMPLETE (R350, R352): what a walk has found takes effect; the walker may read the entries again first. -/
def execWalkComplete (wid : Nat) (fresh : Bool) (s : State) : Res :=
  .next (match AMap.find wid s.walks with
  | none => s
  | some w =>
    match w.st with
    | .found (.host _) | .reading _ | .swapping _ _ _ _ => s
    | .found res => if fresh then s.walkOn wid w [] else s.finishWalk wid w res)

/-- ATS_COMPLETION (R370): the host's answer for a walk that ended at host memory; one of an older generation is discarded
(R352); a refusal sends a page request and parks the lanes with kind 0x03. -/
def execAtsCompletion (wid : Nat) (hostPa : Option Nat) (s : State) : Res :=
  .next (match AMap.find wid s.walks with
  | none => s
  | some w =>
    match w.st with
    | .found (.host e) =>
      if Sparse.get 0 s.gens w.quad ≠ w.gen && w.restarts < 4 then s.restartWalk wid w
      else match hostPa with
        | some h => s.wake wid { e with pa := 2 ^ 51 + h % 2 ^ 50 / 4096 * 4096 } w
        | none => (State.failAll { s with pri := s.pri ++ [(w.part, w.ia / 4096)] } (s.walkers wid) 0x03 0 (w.ia / 4096)).endWalk
            wid w.quad
    | .found _ | .reading _ | .swapping _ _ _ _ => s)

end Sys2Proof.Machine
end

