-- ==== Sys2Proof/Machine/Land.lean ====
section
/-! DEFINITION. What comes back to a core: LOAD_DATA_ARRIVAL, STORE_ACK, ATOMIC_RESPONSE (R137–R147, R222, R272),
releases and buffer room (R205, R326, R336, R380), seals and WAITC (R34, R221), parking, its course and its replay
(R268–R272, R356, R358). -/

namespace Sys2Proof.Machine

/-- The group's block is in the save area. -/
def State.isSaved (s : State) (g : Group) : Bool :=
  match s.blockOf g with
  | some b => b.mode == .saved
  | none => false

/-- A group's event: nothing happens when there is no such group, or when its block is saved. -/
def onGroup (s : State) (gid : Nat) (f : Group → State) : Res :=
  .next (match AMap.find gid s.groups with
  | none => s
  | some g => if s.isSaved g then s else f g)

/-- An operation's event. -/
def onOp (s : State) (gid op : Nat) (f : Group → Op → State) : Res :=
  onGroup s gid (fun g =>
    match g.findOp op with
    | none => s
    | some o => f g o)

/-- The clock of a group's core. -/
def State.clkOf (s : State) (g : Group) : Nat :=
  match s.blockOf g with
  | some b => (s.core b.core).clk
  | none => 0

/-- A group stops waiting: in the pending set it is ready from now on (R218). -/
def State.wakeGroup (s : State) (gid : Nat) (f : Group → Group) : State :=
  match AMap.find gid s.groups with
  | none => s
  | some g =>
    let t := s.clkOf g
    s.setGroup gid { f g with since := if g.inActive then g.since else t }

/-! ## Loads -/

/-- An earlier acquire of the group has not completed (R327). -/
def Group.acquireBefore (g : Group) (id : Nat) : Bool := g.ops.any (fun p => decide (p.id < id) && p.acq != 0 && !p.complete)

/-- Registers of a result of n bytes. -/
def regsOf (n : Nat) : Nat := (n + 3) / 4

/-- The window bytes a lane reads. -/
def Block.scratchRead (b : Block) (g : Group) (j off n : Nat) : Nat :=
  bytesAt b.scratch (b.node.scratch * b.window (g.stampOf j) + off) n

/-- A unit of the core that acts for an operation of a group: its requests leave the cluster's station (R297). -/
def Group.actor (g : Group) (b : Block) (gid op : Nat) (stamp : Nat) (cls : Cls) (tensor : Nat) : Actor :=
  { gid := gid, op := op, part := b.part, core := b.core, block := g.block, mark := b.postmark, stamp := stamp, cls := cls,
    tensor := tensor, at_ := clusterStation b.core }

/-- Mark lanes of an operation written. -/
def Op.finish (o : Op) (ls : List Nat) : Op :=
  { o with lanes := o.lanes.map (fun r => if ls.contains r.lane && r.st == .answered then { r with st := .done } else r) }

/-- Write what has come into the destination of each chosen lane. -/
def State.landLoads (s : State) (gid : Nat) (o : Op) (ls : List Nat) : State :=
  let rs := o.lanes.filter (fun r => r.st == .answered && ls.contains r.lane)
  match AMap.find gid s.groups with
  | none => s
  | some g =>
    match o.kind, s.blockOf g with
    | .load true d, _ => rs.foldl (fun s r => s.adjGroup gid (fun g => g.setS d r.val)) s
    | .load false d, _ | .slotLoad d, _ => rs.foldl (fun s r => s.adjGroup gid (fun g => g.putRegs r.lane (regsOf o.size) d r.val)) s
    | .scratchLoad d, some b =>
      rs.foldl (fun s r => s.adjGroup gid (fun g =>
        g.putRegs r.lane (regsOf o.size) d (b.scratchRead g r.lane r.va o.size))) s
    | .constLoad d, some b =>
      rs.foldl (fun s r =>
        match s.unitAsk (g.actor b gid o.id 0 o.cls o.tensor) r.ia (s.home b.part 0xFF r.ia) o.size (0, 0) with
        | (some x, s) => (s.dropReads gid o.id).adjGroup gid (fun g => (g.setS d x).adjOp o.id (fun o => o.finish ls))
        | (none, s) => s) s
    | _, _ => s

/-- Lanes whose values have been written: an SLDC's once its bytes have come (R145). -/
def OpKind.landed (k : OpKind) (ls : List Nat) : List Nat :=
  match k with
  | .constLoad _ => []
  | _ => ls

/-- The lane numbers of a 96-bit set. -/
def laneSet (m : BitVec 96) : List Nat := setBits 96 0 m.toNat

/-- A loading operation. -/
def OpKind.loads : OpKind → Bool
  | .load _ _ | .scratchLoad _ | .constLoad _ | .slotLoad _ => true
  | .store _ _ _ | .scratchStore | .slotStore | .emit | .atomic _ _ _ _ | .copy .. | .discard .. | .coll .. | .acpy ..
  | .grid | .ldsc _ | .xput .. | .cbar _ => false

/-- LOAD_DATA_ARRIVAL (R153, R222, R272): any of the answered lanes, each whole; none while a lane is unfinished
(DESIGN CHOICE, log 50). -/
def execLoadDataArrival (gid op : Nat) (lanes : BitVec 96) (s : State) : Res :=
  onOp s gid op (fun g o =>
    let local_ := match o.kind with
      | .scratchLoad _ | .constLoad _ => true
      | _ => false
    if !o.kind.loads || o.unfinished || (local_ && g.acquireBefore op) then s
    else
      let ls := laneSet lanes
      (((s.landLoads gid o ls).adjGroup gid (fun g => g.adjOp op (fun o => o.finish (o.kind.landed ls)))).closeOp gid op).startReady gid)

/-! ## Stores and atomics -/

/-- An earlier scratch access of the group to the same bytes has not landed (R142, R321). -/
def Group.scratchBehind (g : Group) (o : Op) : Bool :=
  g.ops.any (fun p => decide (p.id < o.id) && !p.complete && match p.kind with
    | .scratchStore | .scratchLoad _ =>
      p.lanes.any (fun r => r.st != .done && o.lanes.any (fun q => decide (r.ia < q.ia + o.size) && decide (q.ia < r.ia + p.size)))
    | _ => false)

/-- Every answered lane's effect at the core. -/
def State.landStores (s : State) (gid : Nat) (o : Op) : State :=
  let rs := o.lanes.filter (fun r => r.st == .answered)
  match AMap.find gid s.groups with
  | none => s
  | some g =>
    match o.kind with
    | .store sc d true =>
      rs.foldl (fun s r => s.adjGroup gid (fun g => if sc then g.setS d r.tag else g.setV r.lane d r.tag)) s
    | .scratchStore =>
      rs.foldl (fun s r => s.adjBlock g.block (fun b =>
        { b with scratch := putBytes b.scratch (b.node.scratch * b.window (g.stampOf r.lane) + r.va) o.size r.data })) s
    | .slotStore => rs.foldl (fun s r => s.adjGroup gid (fun g => g.slotWrite r.lane r.va o.size r.data)) s
    | _ => s

/-- A store that completes by an answer. -/
def OpKind.acked : OpKind → Bool
  | .store _ _ _ | .scratchStore | .slotStore => true
  | .load _ _ | .scratchLoad _ | .constLoad _ | .slotLoad _ | .emit | .atomic _ _ _ _ | .copy .. | .discard .. | .coll ..
  | .acpy .. | .grid | .ldsc _ | .xput .. | .cbar _ => false

/-- STORE_ACK (R138, R139): tags are written once no lane is unfinished; a window store lands here. -/
def execStoreAck (gid op : Nat) (s : State) : Res :=
  onOp s gid op (fun g o =>
    let late := o.kind == .scratchStore && (g.acquireBefore op || g.scratchBehind o)
    if !o.kind.acked || o.unfinished || late then s
    else
      (((s.landStores gid o).adjGroup gid (fun g => g.adjOp op (fun o => o.finish (o.lanes.map LaneReq.lane)))).closeOp gid op).startReady
        gid)

/-- One lane's old value and tag (R147). -/
def Group.landAtomic (g : Group) (scalar : Bool) (d : Nat) (tagTo : Option Nat) (n : Nat) (r : LaneReq) : Group :=
  let g := if scalar then g.setS d r.val else g.putRegs r.lane n d r.val
  match tagTo with
  | none => g
  | some t => if scalar then g.setS t r.tag else g.setV r.lane t r.tag

/-- ATOMIC_RESPONSE (R147, R272): the answered lanes' old values and tags land together, as a store's tags do at STORE_ACK; R222 lets
them land lane by lane (DESIGN CHOICE, log 104). -/
def execAtomicResponse (gid op : Nat) (s : State) : Res :=
  onOp s gid op (fun _ o =>
    match o.kind with
    | .atomic sc d _ tagTo =>
      if o.unfinished then s
      else
        let rs := o.lanes.filter (fun r => r.st == .answered)
        let s := s.adjGroup gid (fun g => rs.foldl (fun g r => g.landAtomic sc d tagTo (o.size / 4) r) g)
        ((s.adjGroup gid (fun g => g.adjOp op (fun o => o.finish (o.lanes.map LaneReq.lane)))).closeOp gid op).startReady gid
    | _ => s)

/-! ## Releases (R326, R336) -/

/-- Records that reach a sack (R375, R380). -/
def sackSize : Nat := 4096

/-- Place one record in a node's sack, or count why not: true when the sack was full. -/
def State.placeRecord (s : State) (part graph node : Nat) (r : Rec) : Bool × State :=
  let p := s.part part
  match AMap.find graph p.graphs with
  | none => (false, s)
  | some gr =>
    let l := (AMap.find node gr.sacks).getD []
    if sackSize ≤ l.length then (true, s)
    else (false, s.setPart part { p with graphs := AMap.put graph { gr with sacks := AMap.put node (l ++ [r]) gr.sacks } p.graphs })

/-- A stamp's registered class. -/
def State.classOf (s : State) (part stamp : Nat) : Cls :=
  match AMap.find stamp (s.part part).stamps with
  | some r => r.cls
  | none => 0

/-- The records of an EMIT, lane by lane and edge by edge (R380, R417). -/
def State.placeEmit (s : State) (gid : Nat) (o : Op) : State :=
  o.lanes.foldl (fun s r =>
    match AMap.find gid s.groups with
    | none => s
    | some g =>
      match s.graphOf g with
      | none => s
      | some (part, graph, gr) =>
        let stamp := g.stampOf r.lane
        let rec_ : Rec := { stamp := stamp, payload := leBytes o.size r.data, bound := 0, solo := false,
                            cls := s.classOf part stamp, arrival := s.netClock }
        (s.edgesOf g r.va).foldl (fun s e =>
          if gr.unloading then s.emitLost g 1
          else
            match s.placeRecord part graph e.dst rec_ with
            | (true, s) => s.adjGroup gid (fun g => { g with efull := Sparse.set 0 g.efull stamp (Sparse.get 0 g.efull stamp + 1) })
            | (false, s) => s) s) s

/-- A write packet of a commit that is not yet performed towards observers of a scope: at .pod a peer's line counts once
its completer has answered, at .coh and .dev once its port holds it (R320, R329). -/
def Req.outTo (r : Req) (scope : Nat) : Bool :=
  r.src == .commit && r.ask.isWrite && match r.st with
    | .atPeer _ _ _ _ => decide (5 ≤ scope)
    | .transit | .arrived | .walking _ | .half _ _ _ _ | .heldWrite _ => true
    | .unitData _ | .back _ => false

/-- A core has such a packet. -/
def State.unperformed (s : State) (core scope : Nat) : Bool := s.reqs.any (fun e => e.2.core == core && e.2.outTo scope)

/-- Every earlier load, store and atomic of the group has completed; records under way carry no memory. -/
def Group.releaseReady (g : Group) (id : Nat) : Bool :=
  !g.ops.any (fun p => decide (p.id < id) && !p.complete && p.kind != .emit && (p.path == .ld || p.path == .st || p.path == .at))

/-- RELEASE_PERFORM (R326, R328): past the block, what the group may have read stands at its home first; the conditions
look at the whole core (DEDUCED, log 14). -/
def execReleasePerform (gid op : Nat) (s : State) : Res :=
  onOp s gid op (fun g o =>
    match s.blockOf g with
    | none => s
    | some b =>
      if o.rel = 0 || !o.lanes.any (fun r => r.st == .waiting) || !g.mayStart o || s.behindUnit gid g o || !g.releaseReady op then s
      else if 2 ≤ o.rel && !b.buffer.isEmpty then s.commit g.block
      else if 3 ≤ o.rel && s.unperformed b.core o.rel then s
      else match o.kind with
        | .store _ _ ack => ((s.startStore gid o ack).closeOp gid op).startReady gid
        | .atomic _ _ a _ => s.startAtomic gid o a
        | .emit =>
          let s := (s.placeEmit gid o).adjGroup gid (fun g => g.adjOp op (fun o =>
            { o with lanes := o.lanes.map (fun r => { r with st := .done }) }))
          s.closeOp gid op
        | _ => s)

/-- COMMIT_BUFFER_ROOM (R205): the commit has freed room, and the waiting store goes in. -/
def execCommitBufferRoom (gid : Nat) (s : State) : Res :=
  onGroup s gid (fun g =>
    match g.wait with
    | .bufferFull op =>
      match s.blockOf g, g.findOp op with
      | some b, some o =>
        let need := o.size * (o.lanes.filter (fun r => r.st == .waiting)).length
        if b.bufUsed + need ≤ bufSize || b.buffer.isEmpty then
          (((s.wakeGroup gid (fun g => { g with wait := .ready })).bufferStore gid o).closeOp gid op).startReady gid
        else s.commit g.block
      | _, _ => s.wakeGroup gid (fun g => { g with wait := .ready })
    | _ => s)

/-! ## Seals and WAITC -/

/-- SEAL_RELEASE (R34): all six path counters are zero. -/
def execSealRelease (gid : Nat) (s : State) : Res :=
  onGroup s gid (fun g => if g.sealDue && g.ops.isEmpty then s.wakeGroup gid (fun g => { g with sealDue := false }) else s)

/-- WAITC_RESUME (R221). -/
def execWaitcResume (gid : Nat) (s : State) : Res :=
  onGroup s gid (fun g =>
    match g.wait with
    | .waitc p t => if g.count p ≤ t then s.wakeGroup gid (fun g => { g with wait := .ready }) else s
    | _ => s)

/-! ## Parking -/

/-- PARKING_EVENT (R268): the core parks what an operation's faults name. -/
def execParkingEvent (gid op : Nat) (s : State) : Res := onOp s gid op (fun g _ => s.setGroup gid (g.park op))

/-- A group at a word boundary: it issues, or waits in a way that a word boundary bounds (R270). A SHRINK waits for writes that a
parked lane may still owe: the other lanes do not wait for it. -/
def Group.atBoundary (g : Group) : Bool :=
  g.latch.isNone && g.copying.isNone && match g.wait with
    | .ready | .waitc _ _ | .bwait _ _ | .fence _ _ | .tfence _ | .shrink _ | .ending => true
    | .grow _ | .modeM | .modeV _ | .bufferFull _ => false

/-- Granules: 2,048 KiB less the L1 floor (R205). -/
def coreGranules : Nat := 960

/-- The granules charged on a core: its blocks' and their groups'. -/
def State.chargedOn (s : State) (core : Nat) : List Nat :=
  (s.blocks.filter (fun e => e.2.core == core && e.2.mode != .saved)).flatMap (fun e => e.2.grans ++ e.2.spare)
    ++ (s.groupsOn core).flatMap (fun e => e.2.grans.map Prod.fst)

def State.charged (s : State) (core : Nat) : Nat := (s.chargedOn core).length

/-- The first n granules from g on that are not in use, looking at no more than `fuel` (DESIGN CHOICE, log 73). -/
def unusedFrom (used : List Nat) : Nat → Nat → Nat → List Nat
  | 0, _, _ => []
  | fuel + 1, g, n =>
    if n = 0 then [] else if used.contains g then unusedFrom used fuel (g + 1) n else g :: unusedFrom used fuel (g + 1) (n - 1)

/-- n granules of a core that are not charged: they leave L1 (R208). -/
def State.takeGrans (s : State) (core n : Nat) : List Nat := unusedFrom (s.chargedOn core) 1024 0 n

/-- n granules fit above the L1 floor (R205). -/
def State.room (s : State) (core n : Nat) : Bool := decide (s.charged core + n ≤ coreGranules)

/-- The growth reserve of a block, in granules (Table 9.1). -/
def Node.reserve (n : Node) : Nat := ((256 - n.regs) * 384 + 2047) / 2048

/-- A free resident place of a core (R205). -/
def State.freePlace (s : State) (core : Nat) : Option Nat :=
  (List.range 32).find? (fun p => !(s.groupsOn core).any (fun e => e.2.place == p))

/-- How many of `need` granules come from the block's reserve, when the group may draw on it, and how many from above the
L1 floor (R213, R271). -/
def Block.draw (b : Block) (may : Bool) (need : Nat) : Nat × Nat :=
  let own := if may then min need b.spare.length else 0
  (own, need - own)

/-- What a split of an allocation draws: the reserve serves it while the token is free (R271). -/
def splitDraw (b : Block) (alloc : Nat) : Nat × Nat := b.draw b.token.isNone (3 * alloc)

/-- The granules drawn, those of the reserve first. -/
def State.drawn (s : State) (b : Block) (d : Nat × Nat) : List (Nat × Bool) :=
  (b.spare.take d.1).map (fun x => (x, true)) ++ (s.takeGrans b.core d.2).map (fun x => (x, false))

/-- The reserve after a draw, and after granules come back that were drawn from it. -/
def Block.drew (b : Block) (d : Nat × Nat) : Block := { b with spare := b.spare.drop d.1 }

def Block.gaveBack (b : Block) (l : List (Nat × Bool)) : Block :=
  { b with spare := b.spare ++ (l.filter Prod.snd).map Prod.fst }

/-- The part of an operation that serves some lanes (R151, R271). An access made for the group is made once: it goes
with `access`, and the other part is a share that completes with it. -/
def Op.part (o : Op) (keep : Nat → Bool) (access : Bool) : Op :=
  let p := { o with serves := o.serves.filter keep }
  if o.kind.whole then (if access then p else { p with lanes := [] })
  else { p with lanes := o.lanes.filter (fun r => keep r.lane) }

/-- An operation serves some of the lanes. -/
def Op.servesAny (o : Op) (m : List Nat) : Bool := o.serves.any m.contains

/-- What moves to the new group, which waits for it, and what stays: a part with no lane left to serve is complete, and is sent
no more. An access made for the group moves when it serves no lane that stays. -/
def movedOps (m : List Nat) (ops : List Op) : List Op :=
  (ops.filter (fun o => o.servesAny m)).map (fun o => { o.part m.contains (o.serves.all m.contains) with wasParked := true })

def stayingOps (m : List Nat) (ops : List Op) : List Op :=
  ops.map (fun o =>
    if !o.servesAny m then o
    else
      let p := o.part (fun j => !m.contains j) true
      if p.serves.isEmpty then { p with complete := true, lanes := [] } else p)

/-- Entries of a lane-keyed map that belong to the lanes. -/
def laneKeys {α : Type} (w : Nat) (keep : Nat → Bool) (l : List (Nat × α)) : List (Nat × α) := l.filter (fun e => keep (e.1 / w))

/-- A unit's operation goes on for another group: its requests and its collective go with it (R271). -/
def State.handOver (s : State) (gid op heir : Nat) : State :=
  let run (c : Collective) : Collective := if c.gid = gid && c.op = op then { c with gid := heir } else c
  { s with
    reqs := s.reqs.map (fun e => if e.2.src = .engine gid op then (e.1, { e.2 with src := .engine heir op }) else e),
    parts := s.parts.map (fun e => (e.1, { e.2 with colls := e.2.colls.map (fun c => (c.1, run c.2)) })) }

/-- The operations that one lane makes for the group and that move with the lanes M: those that serve no lane that stays. -/
def Group.movedWhole (g : Group) (m : List Nat) : List Nat :=
  (g.ops.filter (fun o => o.kind.whole && !o.lanes.isEmpty && o.servesAny m && o.serves.all m.contains)).map Op.id

/-- Split (R271): the lanes M of the parked stamps S leave `g` for a fresh group. -/
def State.split (s : State) (gid : Nat) (g : Group) (b : Block) (place : Nat) (ss m : List Nat) : State :=
  let hid := s.nextId
  let inM := m.contains
  let h : Group :=
    { g with
      lanes := (g.lanes.filter (fun e => inM e.1)).map (fun e => (e.1, { e.2 with parked := true })),
      v := laneKeys 256 inM g.v, q := laneKeys 8 inM g.q,
      sdov := false, sdz := false, split := true, grid := false, mtx := false,
      reccnt := ((g.lanes.filter (fun e => inM e.1 && !e.2.help)).length), ops := movedOps m g.ops, arrivals := [],
      efull := g.efull.filter (fun e => ss.contains e.1), courses := [], parkedWhole := true, copying := some hid,
      place := place, inActive := false, passCount := 0, promoted := false, since := s.clkOf g,
      grans := s.drawn b (splitDraw b g.alloc), fetchPark := none }
  let h := ((h.setS 61 (g.getS 61)).setS 62 (g.getS 62)).setS 63 (g.getS 63)
  let g' : Group :=
    { g with
      lanes := g.lanes.filter (fun e => !inM e.1), v := laneKeys 256 (fun j => !inM j) g.v,
      q := laneKeys 8 (fun j => !inM j) g.q, ops := stayingOps m g.ops,
      efull := g.efull.filter (fun e => !ss.contains e.1), courses := g.courses.drop 1, copying := some hid }
  let g' := ((g'.setS 61 (g.getS 61)).setS 62 (g.getS 62)).setS 63 (g.getS 63)
  let s := (s.setGroup gid g'.retire.settle).setGroup hid h
  let s := s.setBlock g.block { b.drew (splitDraw b g.alloc) with
    token := if b.token.isNone then some hid else b.token, tokenKept := b.tokenKept || b.token.isNone }
  (g.movedWhole m).foldl (fun s op => s.handOver gid op hid) { s with nextId := hid + 1 }

/-- Every lane of the group parks (R270). -/
def Group.parkWhole (g : Group) : Group :=
  { g with parkedWhole := true, courses := g.courses.drop 1, lanes := g.lanes.map (fun e => (e.1, { e.2 with parked := true })) }

/-- A fetch that fails parks the whole group; its record has been made (R56, R353). -/
def State.parkFetch (s : State) (gid : Nat) (g : Group) (owner : Nat) : State :=
  s.setGroup gid { g.parkWhole with courses := g.courses, fetchPark := some owner }

/-- PARK_COURSE (R270): the oldest course due, at a word boundary. -/
def execParkCourse (gid : Nat) (s : State) : Res :=
  onGroup s gid (fun g =>
    match g.courses, s.blockOf g with
    | ss :: rest, some b =>
      if !g.atBoundary then s
      else
        let m := g.roster.filter (fun j => ss.contains (g.xs j))
        if m.isEmpty then s.setGroup gid { g with courses := rest }
        else if m.length = g.roster.length || g.split || g.grid then s.setGroup gid g.parkWhole.settle
        else match s.freePlace b.core with
          | none => s.setGroup gid g.parkWhole.settle
          | some place =>
            if s.room b.core (splitDraw b g.alloc).2 then s.split gid g b place ss m
            else s.setGroup gid g.parkWhole.settle
    | _, _ => s)

/-! ## The partition's function (R369, R385) -/

/-- The partition's function takes accesses: FWSTAT is ready, the partition exists, its TDI runs. -/
def State.mayAccess (s : State) (p : Nat) : Bool :=
  s.fwstat.toNat % 256 == 5 && decide (p < 8) && (s.part p).valid && (s.part p).tdiRun

/-- An access of the host to a partition's function; otherwise it ends as an Unsupported Request and changes nothing. -/
def onHost (s : State) (p : Nat) (f : Partition → State) : Res := .next (if s.mayAccess p then f (s.part p) else s)

/-! ## REPLAY (R272, R356, R358, R387, R416) -/

/-- This lane's access is re-sent by a REPLAY of partition p: its own partition's, or that of its poisoned page's owner. -/
def LaneReq.replays (own : Bool) (p : Nat) (r : LaneReq) : Bool :=
  match r.st with
  | .parked k => own || (k == 8 && r.val == p)
  | .held => own
  | .waiting | .sent | .answered | .faulted _ | .done => false

/-- The lane is parked in some operation by a fault that the REPLAY of p does not send again. -/
def Group.staysParked (g : Group) (own : Bool) (p : Nat) (j : Nat) : Bool :=
  g.ops.any (fun o => o.lanes.any (fun r => r.lane == j && !r.replays own p && match r.st with
    | .parked _ => true
    | .waiting | .sent | .answered | .faulted _ | .held | .done => false))

/-- The lanes that a REPLAY of p frees: parked ones, none of whose faults stays. -/
def Group.freedLanes (g : Group) (own : Bool) (p : Nat) : List Nat :=
  ((g.ops.flatMap (fun o => (o.lanes.filter (LaneReq.replays own p)).map LaneReq.lane)).eraseDups).filter
    (fun j => !g.staysParked own p j)

/-- The parked accesses that the REPLAY sends again, and those held behind them, wait to be sent (R269, R358). -/
def Op.unpark (own : Bool) (p : Nat) (freed : List Nat) (o : Op) : Op :=
  { o with lanes := o.lanes.map (fun r =>
      if r.replays own p || (r.st == .held && freed.contains r.lane) then
        { r with st := .waiting, tag := if r.st == .parked 9 then r.tag else 0 } else r) }

/-- What a REPLAY of p makes of a group before anything is sent: faults that have come are parked at the point (R356),
and the parked accesses are to be sent again. -/
def Group.unpark (g : Group) (own : Bool) (p : Nat) : Group :=
  let g := (g.ops.map Op.id).foldl Group.park g
  { g with fetchPark := if own || g.fetchPark = some p then none else g.fetchPark,
           ops := g.ops.map (Op.unpark own p (g.freedLanes own p)) }

/-- Send what waits in a group again, in issue order: each lane translates anew (R272). -/
def State.sendAgain (s : State) (gid : Nat) (ids : List Nat) : State :=
  ((ids.foldl (fun s id => s.translateOp gid id) s).startReady gid).adjGroup gid Group.settle

/-- The unfinished operations that have lanes to send. -/
def Group.unsent (g : Group) : List Nat :=
  (g.ops.filter (fun o => o.lanes.any (fun r => r.st == .waiting && r.unf))).map Op.id

/-- A REPLAY of p reaches one group. -/
def State.replayGroup (s : State) (gid p : Nat) (own : Bool) : State :=
  let s := s.adjGroup gid (fun g => g.unpark own p)
  match AMap.find gid s.groups with
  | none => s
  | some g => s.sendAgain gid g.unsent

/-- A held write translates again, in its place in the order of arrival (R416). -/
def Req.retry (p : Nat) (r : Req) : Req :=
  match r.st with
  | .heldWrite _ => if r.part = p then { r with st := .arrived } else r
  | .transit | .arrived | .walking _ | .half _ _ _ _ | .atPeer _ _ _ _ | .unitData _ | .back _ => r

def State.retryHeld (s : State) (p : Nat) : State := { s with reqs := s.reqs.map (fun e => (e.1, e.2.retry p)) }

/-- A fault that a request has met and whose answer is still on its way stands against its lanes at the point of the REPLAY
(R356, R358); a unit asks again, but where the fault ends its command (R402). -/
def State.recall (s : State) (p : Nat) : State :=
  s.reqs.foldl (fun s e =>
    match e.2.st with
    | .back (.fault k own) =>
      if e.2.part == p || (k == 8 && own == p) then
        match e.2.src with
        | .group _ _ _ => s.land e.1 e.2 (.fault k own)
        | .engine _ _ => if k = 0x09 && s.endsLost e.2 then s else s.dropReq e.1
        | .commit | .host _ | .peer _ _ | .walk _ | .stack _ | .device _ | .message _ _ _ => s
      else s
    | .back (.line _) | .back (.values _ _) | .transit | .arrived | .walking _ | .half _ _ _ _ | .heldWrite _ | .atPeer _ _ _ _
    | .unitData _ => s) s

/-- REPLAY (R356): the buffer empties, held writes translate again, every unfinished lane goes again; a saved block keeps
it for its resume (R275, R358). -/
def State.replay (s : State) (p : Nat) : State :=
  let q := s.part p
  let s : State := s.setPart p { q with faults := [], drops := 0, dropped := false }
  let later (b : Block) : Block := if b.part == p && b.mode == .saved then { b with replayDue := true } else b
  let s : State := { s with blocks := s.blocks.map (fun e => (e.1, later e.2)) }
  s.groups.foldl (fun s e =>
    match AMap.find e.2.block s.blocks with
    | none => s
    | some b =>
      if b.mode != .saved then s.replayGroup e.1 p (b.part == p)
      else if b.part == p then s else s.adjGroup e.1 (fun g => g.unpark false p)) ((s.recall p).retryHeld p)

/-- A split of the group runs, or comes before its next word (R281). -/
def Group.splitDue (g : Group) : Bool := g.copying.isSome || (!g.courses.isEmpty && g.atBoundary)

/-- A split runs or is due in the partition. -/
def State.splittingIn (s : State) (p : Nat) : Bool :=
  s.groups.any (fun e => e.2.splitDue && match s.blockOf e.2 with
    | some b => b.part == p && b.mode != .saved
    | none => false)

/-- A write that the partition's function posted before an id is still under way. -/
def State.postedBefore (s : State) (p upto : Nat) : Bool :=
  s.reqs.any (fun e => decide (e.1 < upto) && e.2.part == p && e.2.posted)

/-! ## Record ports (R382) -/

def portKey (stamp slot : Nat) : Nat := 32 * stamp + slot

def Partition.slot (p : Partition) (stamp slot : Nat) : PortSlot :=
  (AMap.find (portKey stamp slot) p.ports).getD { bytes := List.replicate 128 0#8, status := if slot = 31 then 5 else 0 }

def Partition.setSlotStatus (p : Partition) (stamp slot status : Nat) : Partition :=
  { p with ports := AMap.put (portKey stamp slot) { p.slot stamp slot with status := status } p.ports }

/-- The node that a submit word names, when the graph is loaded and takes records. -/
def Partition.target (p : Partition) (graph node : Nat) : Option Node :=
  match AMap.find graph p.graphs with
  | none => none
  | some gr => if gr.unloading then none else gr.nodes[node]?

/-- A submit word takes effect: the payload becomes a record of the port's stamp (Table 20.10), and the outcome stands in
the slot's status byte. -/
def State.submit (s : State) (p stamp slot w : Nat) (payload : List Byte) : State :=
  let q := s.part p
  if !q.tdiRun || (AMap.find stamp q.stamps).isNone then s.setPart p (q.setSlotStatus stamp slot 4)
  else match q.target (bits w 23 16) (bits w 15 0) with
    | none => s.setPart p (q.setSlotStatus stamp slot 3)
    | some nd =>
      let r : Rec :=
        { stamp := stamp, payload := payload.take nd.recSize, bound := bits w 63 48, solo := bitAt w 32,
          cls := s.classOf p stamp, arrival := s.netClock }
      match s.placeRecord p (bits w 23 16) (bits w 15 0) r with
      | (full, s) => s.setPart p ((s.part p).setSlotStatus stamp slot (if full then 2 else 0))

/-! ## Writes behind posted writes (R281, R382, R387) -/

/-- What a waiting write does when it is applied. -/
def State.applyWrite (s : State) (p : Nat) : HostWrite → State
  | .replay => s.replay p
  | .tlbi val serial => s.invalidate p val.toNat (some serial)
  | .submit stamp slot word payload => s.submit p stamp slot word payload

/-- A waiting write can be applied: the posted writes before it have been performed, and a REPLAY comes behind the splits. -/
def State.mayApply (s : State) (p : Nat) (e : Nat × HostWrite) : Bool :=
  !s.postedBefore p e.1 && !(e.2 == .replay && s.splittingIn p)

/-- The waiting writes are applied in their order, as far as they may (DEDUCED, log 54). -/
def State.applyBehind (p : Nat) : Nat → State → State
  | 0, s => s
  | n + 1, s =>
    match (s.part p).behind with
    | [] => s
    | e :: rest =>
      if s.mayApply p e then State.applyBehind p n ((s.setPart p { s.part p with behind := rest }).applyWrite p e.2) else s

def State.afterPosted (s : State) (p : Nat) : State := State.applyBehind p (s.part p).behind.length s

/-- The same for every partition. -/
def State.applyWaiting (s : State) : State :=
  ((s.parts.filter (fun e => !e.2.behind.isEmpty)).map Prod.fst).foldl State.afterPosted s

/-- A write joins those that wait, and is applied when it may be. -/
def State.postWrite (s : State) (p : Nat) (w : HostWrite) : State :=
  let q := s.part p
  (s.setPart p { q with behind := q.behind ++ [(s.nextId, w)] }).afterPosted p

/-- REPLAY (R356): a write of the partition's REPLAY register. -/
def execReplay (p : Nat) (s : State) : Res := onHost s p (fun _ => s.postWrite p .replay)

/-- SUBMIT_RECORD (R382): the slot reads busy while posted writes before it are under way, so that the group launched sees
them; a submit word for a busy slot is ignored (DESIGN CHOICE, log 77). -/
def execSubmitRecord (p stamp slot : Nat) (word : BitVec 64) (s : State) : Res :=
  let q := s.part p
  let busy := q.behind.any (fun e => match e.2 with
    | .submit x k _ _ => x == stamp && k == slot
    | .replay | .tlbi _ _ => false)
  .next (if 31 ≤ slot || busy then s
  else (s.setPart p (q.setSlotStatus stamp slot 1)).postWrite p (.submit stamp slot word.toNat (q.slot stamp slot).bytes))

/-- SLICE_REQUEST (R309): in a slot of its partition at the slice's port (R306), a request with an outdated partition postmark
is dropped (R307); a REPLAY written behind it applies (R387). -/
def execSliceRequest (rid : Nat) (high : Bool) (s : State) : Res :=
  .next (match AMap.find rid s.reqs with
  | none => s
  | some r =>
    if !s.inSlot (.slice r.home) r.part then s
    else if r.ppm ≠ (s.part r.part).ppm then s.dropReq rid
    else if r.outside then (s.outsideRequest rid r).afterPosted r.part
    else s.coreRequest rid r high)

/-- SPLIT_COPY_DONE (R271): both groups of the copy may issue again; a REPLAY that waited for it applies (R281). -/
def execSplitCopyDone (gid : Nat) (s : State) : Res :=
  onGroup s gid (fun g =>
    match g.copying with
    | none => s
    | some c =>
      let part := ((s.blockOf g).map Block.part).getD 0
      let s : State := { s with groups := s.groups.map (fun e =>
        if e.2.copying = some c then (e.1, { e.2 with copying := none }.settle) else e) }
      s.afterPosted part)

end Sys2Proof.Machine
end

