-- ==== Sys2Proof/Machine/Engine.lean ====
section
/-! DEFINITION. Engine commands (R316–R319, R333), the tensor id (R311), XPUT (R285–R288) and COLL up to its handshake
(R406–R411): CPY, CPYT, DISCARD, TTAG, XPUT_SEND, XPUT_READ, COLL, ENGINE_COMPLETE, XPUT_COMPLETE. -/

namespace Sys2Proof.Machine

/-! ## The accesses of a unit that acts for a group -/

/-- Range translation of one address under a unit's stamp (R131): the IA and its home slice, or the kind of its fault. -/
def State.reach (s : State) (u : Actor) (va : Nat) (write : Bool) : Sum Nat (Nat × Nat) × State :=
  let (t, s) := s.rangeTable u.core u.part u.stamp
  (match translate (descsOf t) (!write) write va with
    | .fault k => .inl k
    | .ok ia _ home => .inr (ia, s.home u.part home ia), s)

/-- COLL, whose writes are under way at progress 2. -/
def OpKind.collective : OpKind → Bool
  | .coll .. => true
  | .load .. | .store .. | .atomic .. | .scratchLoad _ | .scratchStore | .constLoad _ | .slotLoad _ | .slotStore | .emit
  | .copy .. | .discard .. | .acpy .. | .grid | .ldsc _ | .xput .. | .cbar _ => false

/-- An access of an operation that one lane makes for the group has met a fault: the core is to park the group's active lanes
(R268, R319); `own` owns a poisoned page. A copy's burst and a collective's writes that were under way are made again (R319). -/
def Op.meet (kind own : Nat) (o : Op) : Op :=
  let again := match o.kind with
    | .copy .. => true
    | .load .. | .store .. | .atomic .. | .scratchLoad _ | .scratchStore | .constLoad _ | .slotLoad _ | .slotStore | .emit
    | .discard .. | .coll .. | .acpy .. | .grid | .ldsc _ | .xput .. | .cbar _ => false
  { o with
    progress := if o.kind.collective && o.progress = 2 then 1 else o.progress,
    lanes := o.lanes.map (fun r => if r.st == .waiting then
      { r with st := .faulted kind, val := own, data := if again then 0 else r.data } else r) }

def State.meetFault (s : State) (gid op kind own : Nat) : State :=
  s.adjGroup gid (fun g => g.adjOp op (fun o => o.meet kind own))

/-- A unit's address fails range translation: a record of the leading lane's stamp, and the fault (R134). PAGE has bits 56–12 of
the address. -/
def State.failRange (s : State) (gid op access va kind : Nat) : State :=
  match AMap.find gid s.groups with
  | none => s
  | some g =>
    match g.findOp op, s.blockOf g with
    | some o, some b => (s.record (s.recordFor g b o.stamp access kind (va / 4096 % 2 ^ 45) 0 0)).meetFault gid op kind 0
    | _, _ => s

/-- What reading some parts of memory gives. -/
inductive Gathered where
  | got (x : Nat)
  | waits
  /-- range translation turns an address away -/
  | fails (va kind : Nat)
  deriving DecidableEq, Repr

/-- A run of bytes that one packet carries: bytes before it, its length, IA and home slice. -/
structure Run where
  off : Nat
  len : Nat
  ia : Nat
  home : Nat
  deriving DecidableEq, Repr

/-- Where some parts lie, or the first that range translation turns away, with the kind of its fault. -/
def State.reachAll (u : Actor) (write : Bool) : List (Nat × Nat × Nat) → State → Sum (Nat × Nat) (List Run) × State
  | [], s => (.inr [], s)
  | (va, off, n) :: rest, s =>
    match s.reach u va write with
    | (.inl k, s) => (.inl (va, k), s)
    | (.inr (ia, home), s) =>
      match State.reachAll u write rest s with
      | (.inr l, s) => (.inr ({ off := off, len := n, ia := ia, home := home } :: l), s)
      | r => r

/-- Two runs go in one packet: one after the other within 1 KiB, at one home slice (R299, R316, DESIGN CHOICE, log 83). -/
def Run.joins (a b : Run) : Bool :=
  a.home == b.home && a.ia + a.len == b.ia && a.off + a.len == b.off && a.ia / 1024 == b.ia / 1024

/-- The packets that carry some runs. -/
def packRuns : List Run → List Run
  | [] => []
  | a :: rest =>
    match packRuns rest with
    | [] => [a]
    | b :: l => if a.joins b then { a with len := a.len + b.len } :: l else a :: b :: l

/-- The parts of n bytes from an address on that a unit reaches one by one: each within a line, which has one home (R308). -/
def lineParts (va n : Nat) : List (Nat × Nat × Nat) := partsWithin 128 va n

/-- Ask for the bytes of some packets, each once; the bytes are there once all have come. -/
def State.askAll (u : Actor) : List Run → State → Option Nat × State
  | [], s => (some 0, s)
  | e :: rest, s =>
    let (x, s) := s.unitAsk u e.ia e.home e.len (0, 0)
    match State.askAll u rest s, x with
    | (some y, s), some x => (some (x * 2 ^ (8 * e.off) + y), s)
    | (_, s), _ => (none, s)

/-- Read the parts of a piece of memory for a unit. -/
def State.gatherParts (u : Actor) (l : List (Nat × Nat × Nat)) (s : State) : Gathered × State :=
  match State.reachAll u false l s with
  | (.inl (va, k), s) => (.fails va k, s)
  | (.inr l, s) =>
    match State.askAll u (packRuns l) s with
    | (some x, s) => (.got x, s)
    | (none, s) => (.waits, s)

/-- A unit's writes of runs of a value. -/
def Actor.writes (u : Actor) (x : Nat) (l : List Run) : List Req :=
  (packRuns l).map (fun e => u.req e.ia e.home (.write e.len (x / 2 ^ (8 * e.off) % 2 ^ (8 * e.len)) true))

/-- A write packet that a block made before an id is not yet performed (R333, R411). -/
def State.unperformedBefore (s : State) (block id : Nat) : Bool :=
  s.reqs.any (fun e => decide (e.1 < id) && e.2.block == block && e.2.outTo 4)

/-! ## Commands at issue -/

/-- Codes 0x01 and 0x02 of Table 15.7. -/
def Group.ownerCode (g : Group) : Nat :=
  match g.leading with
  | none => 0x02
  | some lead => if (g.stranger lead (g.active.filter (fun j => !g.help j))).isSome then 0x01 else 0x00

/-- A command that one lane makes for the group. -/
def Group.engineOp (g : Group) (path : Path) (kind : OpKind) (cls : Nat) : Op :=
  { Op.make path kind [LaneReq.make g.lead 0] g.active with stamp := g.stampOf g.lead, cls := cls, size := 16 }

/-- A command joins its path; one that is not refused commits the block first: what the buffer holds (R318, R322, DESIGN CHOICE,
log 68). -/
def State.issueEngine (s : State) (gid : Nat) (g : Group) (o : Op) (code : Nat) : State :=
  let s := s.setGroup gid g.advance
  (if code = 0 then s.commit g.block else s).newOp gid o

/-- CPY (R318). -/
def execCpy (x : FR) (s : State) : Res :=
  runWord (.cpy x) [] s (fun gid g =>
    let c := s.ctx g
    let a := g.srcU c x.a
    let b := g.srcU c x.b
    let n := g.srcU c x.c
    let code := if g.ownerCode ≠ 0 then g.ownerCode
      else if a % 16 ≠ 0 || b % 16 ≠ 0 || n % 16 ≠ 0 then 0x03
      else if 2 ^ 32 < n then 0x04 else 0
    s.issueEngine gid g (g.engineOp .cp (.copy (regNum x.d) a b n 1 0 0 code) (bits x.md.toNat 1 0)) code)

/-- CPYT (R318). -/
def execCpyt (x : FR) (s : State) : Res :=
  runWord (.cpyt x) [] s (fun gid g =>
    let c := s.ctx g
    let a := g.srcU c x.a
    let b := g.srcU c x.b
    let r := regNum x.c
    let w := g.getS r % 2 ^ 32
    let n := g.getS r / 2 ^ 32
    let sp := g.getS (r + 1)
    let dp := g.getS (r + 2)
    let code := if g.ownerCode ≠ 0 then g.ownerCode
      else if [a, b, w, sp, dp].any (fun k => k % 16 != 0) then 0x03
      else if n = 0 || w = 0 || 2 ^ 32 - 16 < w then 0x04 else 0
    s.issueEngine gid g (g.engineOp .cp (.copy (regNum x.d) a b w n sp dp code) (bits x.md.toNat 1 0)) code)

/-- DISCARD (R312, R318). -/
def execDiscard (x : FR) (s : State) : Res :=
  runWord (.discard x) [] s (fun gid g =>
    let t := g.srcU (s.ctx g) x.a % 2 ^ 12
    s.issueEngine gid g (g.engineOp .cp (.discard (regNum x.d) t g.ownerCode) 0) g.ownerCode)

/-- TTAG (R318). -/
def execTtag (x : FR) (s : State) : Res :=
  runLocal (.ttag x) [] s (fun c g => .ok { g with tensor := g.srcU c x.a % 2 ^ 12 } [])

/-! ## XPUT -/

/-- X of the block's kernel. -/
def State.bankOf (s : State) (g : Group) : Nat :=
  match s.blockOf g with
  | some b => b.node.xbank
  | none => 0

/-- The number of blocks of a group's cohort. -/
def State.cohortSize (s : State) (g : Group) : Nat :=
  match s.blockOf g with
  | none => 1
  | some b =>
    match AMap.find b.cohort s.cohorts with
    | some c => max 1 c.blocks.length
    | none => 1

/-- A bank offset, wrapped and aligned down (R287). -/
def bankOffset (x o size : Nat) : Nat := o % x - o % x % size

/-- A commit buffer with no room for so many bytes more commits first (R205). -/
def State.roomFor (s : State) (bid bytes : Nat) : State :=
  match AMap.find bid s.blocks with
  | some b => if bufSize < b.bufUsed + bytes then s.commit bid else s
  | none => s

/-- Place entries in the commit buffer; a full one commits first (R205, R287). -/
def State.bufferSends (s : State) (bid : Nat) (es : List BufEntry) (bytes : Nat) : State :=
  (s.roomFor bid bytes).adjBlock bid (fun b => { b with buffer := b.buffer ++ es, bufUsed := b.bufUsed + bytes })

/-- XPUT send (R287). -/
def execXputSend (x : FR) (s : State) : Res :=
  runWord (.xputSend x) (x.spans (xputRegs x) 1 1) s (fun gid g =>
    let c := s.ctx g
    let bank := s.bankOf g
    let n := xputRegs x
    let ls := if bank = 0 then [] else g.working x.g
    let dst := g.srcU c x.a % s.cohortSize g
    let s := (s.setGroup gid g.advance).roomFor g.block (4 * n * ls.length)
    let es := ls.map (fun j =>
      BufEntry.send dst (bankOffset bank (g.src c j x.b) (4 * n)) (4 * n) (g.regsFrom j n (regNum x.d)) gid s.nextId)
    (s.bufferSends g.block es (4 * n * es.length)).newOp gid
      { Op.make .xc (.xput false 0) [] (g.parts x.g.toNat) with size := 4 * n })

/-- The key of a bank's byte. -/
def Block.bankKey (b : Block) (bank o : Nat) : Nat := b.node.xbank * bank + o

/-- XPUT read (R287): the front bank of the phase in which it issues. -/
def execXputRead (x : FR) (s : State) : Res :=
  runWord (.xputRead x) (x.spans (xputRegs x) 1 1) s (fun gid g =>
    let c := s.ctx g
    let n := xputRegs x
    let val (j : Nat) : Nat := match s.blockOf g with
      | none => 0
      | some b =>
        if b.node.xbank = 0 || g.help j then 0
        else bytesAt b.banks (b.bankKey b.front (bankOffset b.node.xbank (g.src c j x.b) (4 * n))) (4 * n)
    let ls := g.parts x.g.toNat
    (s.setGroup gid g.advance).newOp gid
      { Op.make .xc (.xput true (regNum x.d)) (ls.map (fun j => { LaneReq.make j 0 with val := val j, st := .answered })) ls with
        size := 4 * n })

/-- XPUT_COMPLETE (R287). -/
def execXputComplete (gid op : Nat) (s : State) : Res :=
  onOp s gid op (fun _ o =>
    match o.kind with
    | .xput _ d =>
      let rs := o.lanes.filter (fun r => r.st == .answered)
      let s := s.adjGroup gid (fun g => rs.foldl (fun g r => g.putRegs r.lane (regsOf o.size) d r.val) g)
      (s.adjGroup gid (fun g => g.adjOp op (fun o => o.finish (o.lanes.map LaneReq.lane)))).closeOp gid op
    | _ => s)

/-! ## Copies at the engine -/

/-- The address of word k of one side of a copy: rows of w bytes. -/
def copyAddr (base w pitch k : Nat) : Nat := base + k / (w / 16) * pitch + 16 * (k % (w / 16))

/-- A destination word lies in the source: its bytes are unspecified (R318) (DESIGN CHOICE, log 38). -/
def inSource (src w rows pitch a : Nat) : Bool :=
  (List.range rows).any (fun r => decide (src + r * pitch ≤ a) && decide (a < src + r * pitch + w))

/-- A copy: who makes it, and its shape. -/
structure CopyJob where
  u : Actor
  dst : Nat
  src : Nat
  w : Nat
  rows : Nat
  sp : Nat
  dp : Nat

def CopyJob.words (j : CopyJob) : Nat := j.rows * (j.w / 16)

/-- Words of a burst: 1 KiB (R316). -/
def burstWords : Nat := 64

/-- The first word of the burst of n words behind k: a copy goes downward when the destination lies above (DESIGN CHOICE, log
38). -/
def CopyJob.first (j : CopyJob) (k n : Nat) : Nat := if j.src < j.dst then j.words - k - n else k

/-- n words of one side from word i on, row by row: address, bytes before it, its length. -/
def rowRuns (base w pitch : Nat) : Nat → Nat → Nat → Nat → List (Nat × Nat × Nat)
  | 0, _, _, _ => []
  | fuel + 1, i, off, n =>
    if n = 0 then []
    else
      let m := min n (w / 16 - i % (w / 16))
      (copyAddr base w pitch i, 16 * off, 16 * m) :: rowRuns base w pitch fuel (i + m) (off + m) (n - m)

/-- The parts of one side of a burst, each within a line. -/
def sideParts (base w pitch i n : Nat) : List (Nat × Nat × Nat) :=
  (rowRuns base w pitch n i 0 n).flatMap (fun e => (lineParts e.1 e.2.2).map (fun p => (p.1, e.2.1 + p.2.1, p.2.2)))

/-- The words from word i on that land in the source get free values (R318). -/
def State.spoilOverlap (j : CopyJob) : Nat → Nat → Nat → State → Nat × State
  | _, 0, _, s => (0, s)
  | i, n + 1, x, s =>
    let (y, s) := State.spoilOverlap j (i + 1) n (x / 2 ^ 128) s
    if inSource j.src j.w j.rows j.sp (copyAddr j.dst j.w j.dp i) then
      let (f, s) := s.fresh
      ((Config.freeWord f).toNat + 2 ^ 128 * y, s)
    else (x % 2 ^ 128 + 2 ^ 128 * y, s)

/-- The partition's engines on a die, in order of number (R316). -/
def State.enginesOn (s : State) (p d : Nat) : List Nat := ((List.range 6).map (· + 6 * d)).filter (s.hasEngine p)

/-- The engine that a core's commands go to: e mod E of its die, e the core's index among the partition's there (R316). -/
def State.engineOf (s : State) (p core : Nat) : Nat :=
  let d := core / 4 / 12
  let e := ((List.range (core - 48 * d)).filter (fun i => s.hasCore p (48 * d + i))).length
  let l := s.enginesOn p d
  l.getD (e % max 1 l.length) (6 * d)

/-- An engine that acts for an operation of a group: its requests leave the engine's station (R316). -/
def State.engineActor (s : State) (g : Group) (b : Block) (gid : Nat) (o : Op) : Actor :=
  { g.actor b gid o.id o.stamp o.cls o.tensor with at_ := engineStation (s.engineOf b.part b.core) }

/-- A command that its engine has still to serve. -/
def Op.atEngine (o : Op) : Bool :=
  o.lanes.any (fun r => r.st == .waiting) && match o.kind with
    | .copy _ _ _ _ _ _ _ code => code == 0
    | .discard _ _ code => code == 0
    | _ => false

/-- The engine that serves the host's copies: the partition's first (DESIGN CHOICE, log 83). -/
def State.hostEngine (s : State) (p : Nat) : Nat := ((List.range 48).find? (s.hasEngine p)).getD 0

/-- No command that arrived before an id stands at a partition's engine, of a group or of a channel: it serves them in arrival order
(R316, R319, DEDUCED, log 83). -/
def State.turnAt (s : State) (p engine id : Nat) : Bool :=
  !s.groups.any (fun e => !s.isSaved e.2 && match s.blockOf e.2 with
    | some b => b.part == p && s.engineOf p b.core == engine && e.2.ops.any (fun o => decide (o.id < id) && o.atEngine)
    | none => false)
    && !(engine == s.hostEngine p && (s.part p).channels.any (fun e => e.2.cmds.any (fun c => decide (c.id < id))))

/-- The same for a command of a core. -/
def State.engineTurn (s : State) (p core op : Nat) : Bool := s.turnAt p (s.engineOf p core) op

/-- Words of a copy whose writes are under way. -/
def Op.inFlight (o : Op) : Nat := (o.lanes.map LaneReq.data).headD 0

def Op.setFlight (n : Nat) (o : Op) : Op := { o with lanes := o.lanes.map (fun r => { r with data := n }) }

/-- The burst of a copy behind k words: its reads are asked for; once their bytes have come, its writes leave, under the quota of the
engine's station (R303, R316). -/
def State.burst (s : State) (j : CopyJob) (k : Nat) : State :=
  let n := min burstWords (j.words - k)
  let i := j.first k n
  match State.gatherParts j.u (sideParts j.src j.w j.sp i n) s with
  | (.fails va kind, s) => s.failRange j.u.gid j.u.op 3 va kind
  | (.waits, s) => s
  | (.got x, s) =>
    match State.reachAll j.u true (sideParts j.dst j.w j.dp i n) s with
    | (.inl (va, kind), s) => s.failRange j.u.gid j.u.op 4 va kind
    | (.inr l, s) =>
      let (x, s) := State.spoilOverlap j i n x s
      (((j.u.writes x l).foldl State.send s).dropReads j.u.gid j.u.op).adjGroup j.u.gid (fun g => g.adjOp j.u.op (Op.setFlight n))

/-- A copy goes on as far as it can: a burst whose writes are acknowledged is done (R318), and the next begins. True when every
word is written. -/
def State.copyOn (s : State) (j : CopyJob) (o : Op) : Bool × State :=
  if !s.writesDone j.u.gid o.id then (false, s)
  else
    let k := o.progress + o.inFlight
    let s := s.adjGroup j.u.gid (fun g => g.adjOp o.id (fun o => Op.setFlight 0 { o with progress := k }))
    if j.words ≤ k then (true, s) else (false, s.burst j k)

/-- The status word (Table 15.7): BYTES stops at its maximum. -/
def statusWord (bytes code : Nat) : Nat := min bytes (2 ^ 56 - 1) * 256 + code

/-- A command ends: its status is written and it is complete. -/
def State.endCommand (s : State) (gid op d status : Nat) : State :=
  let s := (s.dropReads gid op).adjGroup gid (fun g => (g.setS d status).adjOp op (fun o =>
    { o with lanes := o.lanes.map (fun r => { r with st := .done, unf := false }) }))
  s.closeOp gid op

/-- Every slice of the partition is sent a packet that has it drop the id's blocks: it does so where the packet is performed in its
request order (R312, DESIGN CHOICE, log 109). DISCARD of id 0 has no effect. -/
def State.discardTensor (s : State) (u : Actor) (t : Nat) : State :=
  if t = 0 then s
  else ((List.range 640).filter (s.hasSlice u.part)).foldl (fun s k => s.send (u.req 0 k (.discard t))) s

/-! ## COLL (R406–R411) -/

/-- The digest of a set: over the list and the context id (R407). -/
def setDigest (stations : List Nat) (context : Nat) : List Byte := shake256 (stations.flatMap (leBytes 4) ++ leBytes 4 context)

/-- A collective's descriptor (Table 22.3). -/
structure CollDesc where
  src : Nat
  dst : Nat
  cnt : Nat
  op : Nat
  ty : Nat
  set_ : Nat
  root : Nat
  zero : Bool
  deriving DecidableEq, Repr

def collDesc (x : Nat) : CollDesc :=
  { src := bits x 63 0, dst := bits x 127 64, cnt := bits x 159 128, op := bits x 167 160, ty := bits x 175 168,
    set_ := bits x 223 192, root := bits x 255 224, zero := bits x 191 176 == 0 && bits x 511 256 == 0 }

/-- A field outside Table 22.3. -/
def CollDesc.bad (c : CollDesc) : Bool := c.cnt == 0 || decide (2 ^ 26 < c.cnt) || decide (3 < c.op) || decide (3 < c.ty) || !c.zero

/-- Bytes of an element: FP32 and INT32 four, BF16 two. -/
def collWidth (ty : Nat) : Nat := if ty = 1 then 2 else 4

def collKey (set_ tag : Nat) : Nat := 2 ^ 32 * set_ + tag

/-- A member of a set is an accelerator that the partition has quarantined (R402, R410). -/
def State.lostMember (s : State) (p : Nat) (stations : List Nat) : Bool :=
  stations.any (fun x => x != s.station.toNat && Sparse.get false (s.part p).quarantined (x % 1024))

/-- The code of a descriptor (R409). -/
def State.collCode (s : State) (p tag : Nat) (c : CollDesc) : Nat :=
  let q := s.part p
  if c.bad then 0x04
  else match AMap.find c.set_ q.sets with
    | none => 0x06
    | some (members, _) =>
      if c.op = 1 && c.cnt % members.length ≠ 0 then 0x04
      else if c.op = 3 && members.length ≤ c.root then 0x04
      else if (AMap.find (collKey c.set_ tag) q.colls).isSome then 0x08 else 0

/-- A collective is under way: READY goes to every other member of its set through that member's port, with the set's digest and the
tag, in the partition's slots and the command's class (R300, R408, DESIGN CHOICE, log 84). -/
def State.sendReady (s : State) (u : Actor) (members : List Nat) (ctx tag : Nat) : State :=
  let data := setDigest members ctx ++ leBytes 4 tag
  (members.filter (· ≠ s.station.toNat)).foldl (fun s x =>
    s.post (x % 1024) { u.req 0 0 (.readBytes 0) with src := .message (x % 1024) tag data } data.length) s

/-- COLL begins: the descriptor is read and checked; a good one commits the block, whose packets the collective waits for, and
the handshake starts (R408, R409, R411). One with a member already lost ends with 0x05 (R410). -/
def State.startColl (s : State) (gid op : Nat) : State :=
  match AMap.find gid s.groups with
  | none => s
  | some g =>
    match g.findOp op, s.blockOf g with
    | some o, some b =>
      match o.kind with
      | .coll d desc tag _ =>
        match State.gatherParts (s.engineActor g b gid o) (lineParts desc 64) s with
        | (.waits, s) => s
        | (.fails va kind, s) => s.failRange gid op 3 va kind
        | (.got v, s) =>
          let c := collDesc v
          let code := s.collCode b.part tag c
          if code ≠ 0 then s.endCommand gid op d (statusWord 0 code)
          else
            let (members, ctx) := (AMap.find c.set_ (s.part b.part).sets).getD ([], 0)
            let s := (s.dropReads gid op).commit g.block
            if s.lostMember b.part members then s.endCommand gid op d (statusWord 0 0x05)
            else
              let q := s.part b.part
              let run : Collective := { gid := gid, op := op, started := s.netClock, desc := v }
              let s := (s.setPart b.part { q with colls := AMap.put (collKey c.set_ tag) run q.colls }).sendReady (s.engineActor g b gid o)
                members ctx tag
              s.adjGroup gid (fun g => g.adjOp op (fun o =>
                { o with progress := 1, lanes := o.lanes.map (fun r => { r with data := s.nextId }) }))
      | _ => s
    | _, _ => s

/-- COLL (R406, R409). -/
def execColl (x : FR) (s : State) : Res :=
  runWord (.coll x) [] s (fun gid g =>
    let c := s.ctx g
    let a := g.srcU c x.a
    let tag := g.srcU c x.b % 2 ^ 32
    let code := if g.ownerCode ≠ 0 then g.ownerCode else if a % 16 ≠ 0 then 0x03 else 0
    let id := s.nextId
    let s := (s.setGroup gid g.advance).newOp gid (g.engineOp .xc (.coll (regNum x.d) a tag code) (bits x.md.toNat 1 0))
    if code = 0 then s.startColl gid id else s)

/-- The copy that an operation makes. -/
def Op.job (o : Op) (u : Actor) : Option CopyJob :=
  match o.kind with
  | .copy _ dst src w rows sp dp _ => some { u := u, dst := dst, src := src, w := w, rows := rows, sp := sp, dp := dp }
  | _ => none

/-- An engine serves the next burst of its oldest command, once the stores of the command's commit stand at their homes
(R316, R333): the copy that it makes, and whether every word is written. -/
def State.serveCopy (s : State) (gid : Nat) (g : Group) (b : Block) (o : Op) : Bool × State :=
  if !o.atEngine || !s.engineTurn b.part b.core o.id || s.unperformedBefore g.block o.id then (false, s)
  else match o.job (s.engineActor g b gid o) with
    | some j => s.copyOn j o
    | none => (false, s)

def State.engineBurst (s : State) (gid op : Nat) : State :=
  match AMap.find gid s.groups with
  | none => s
  | some g =>
    match g.findOp op, s.blockOf g with
    | some o, some b => if s.isSaved g then s else (s.serveCopy gid g b o).2
    | _, _ => s

/-- A copy that depends on a lost peer ends: the bytes written, and a code that Table 15.7 does not give, a free one (R402,
DESIGN CHOICE, log 37). Its writes at other peers stay until they complete (R397). -/
def State.copyLost (s : State) (gid op d words : Nat) : State :=
  let (k, s) := s.fresh
  s.endCommand gid op d (statusWord (16 * words) ((Config.freeWord k).toNat % 256))

/-- ENGINE_COMPLETE (R312, R316, R318, R319, R333): a copy goes on with its bursts, and ends once its writes are acknowledged; a DISCARD
reaches the slices, and ends once all have applied it. A refused command writes its code. A COLL goes on with its descriptor. -/
def execEngineComplete (gid op : Nat) (s : State) : Res :=
  onOp s gid op (fun g o =>
    if !o.lanes.any (fun r => r.st == .waiting) then s
    else match s.blockOf g with
      | none => s
      | some b =>
        match o.kind with
        | .copy d _ _ w rows _ _ code =>
          if code ≠ 0 then s.endCommand gid op d (statusWord 0 code)
          else match s.serveCopy gid g b o with
            | (true, s) => s.endCommand gid op d (statusWord (16 * (rows * (w / 16))) 0)
            | (false, s) => s
        | .discard d t code =>
          if code ≠ 0 then s.endCommand gid op d (statusWord 0 code)
          else if !s.engineTurn b.part b.core op then s
          else if o.progress = 0 then
            (s.discardTensor (s.engineActor g b gid o) t).adjGroup gid (fun g => g.adjOp op (fun o => { o with progress := 1 }))
          else if s.writesDone gid op then s.endCommand gid op d (statusWord 0 0) else s
        | .coll d _ _ code =>
          if code ≠ 0 then s.endCommand gid op d (statusWord 0 code) else if o.progress = 0 then s.startColl gid op else s
        | _ => s)

end Sys2Proof.Machine
end

