-- ==== Sys2Proof/Machine/Sync.lean ====
section
/-! DEFINITION. Fences, commits, rendezvous points and the cohort barrier (R224–R230, R289–R291, R329, R334, R335), and
the ends of GROW and SHRINK (R211–R213). -/

namespace Sys2Proof.Machine

/-! ## FENCE, TFENCE, CMT -/

/-- SCOPE of a fence's modifier byte (Table 16.2). -/
def fenceScope (md : Nat) : Nat := bits md 6 4
def fenceStores (md : Nat) : Bool := bitAt md 3 || bitAt md 2
def fenceLoads (md : Nat) : Bool := bitAt md 1 || bitAt md 0
def fenceLaterLoads (md : Nat) : Bool := bitAt md 0 || bitAt md 3

/-- FENCE (R329): a delivery point; the group waits for FENCE_DONE. -/
def execFence (x : FR) (s : State) : Res :=
  runWord (.fence x) [] s (fun gid g =>
    let md := x.md.toNat
    let s := s.setGroup gid g.deliver.advance
    let stores := fenceStores md && decide (2 ≤ fenceScope md)
    let s := if stores then s.commit g.block else s
    s.adjGroup gid (fun g => { g with wait := .fence md s.nextId, commitTo := if stores then s.nextId else g.commitTo }))

/-- A write packet is not yet performed towards observers of a scope that the group's block has made before `upto`, or that the
group has read from another block's group (R326, R329, R334). -/
def State.storesOut (s : State) (g : Group) (scope upto : Nat) : Bool :=
  s.reqs.any (fun e => ((e.2.block == g.block && decide (e.1 < upto)) || g.seen.contains e.1) && e.2.outTo scope)

/-- What FENCE waits for (R329). -/
def State.fenceMet (s : State) (g : Group) (md upto : Nat) : Bool :=
  (!fenceLoads md || g.clearOf [.ld, .at] upto)
    && (!fenceStores md || (g.clearOf [.st, .at] upto && (decide (fenceScope md < 3) || !s.storesOut g (fenceScope md) upto)))

/-- FENCE_DONE (R329): with LL or SL past the core, L1 is invalidated. -/
def execFenceDone (gid : Nat) (s : State) : Res :=
  onGroup s gid (fun g =>
    match g.wait, s.blockOf g with
    | .fence md upto, some b =>
      if !s.fenceMet g md upto then s
      else
        let s := s.wakeGroup gid (fun g => { g with wait := .ready })
        if fenceLaterLoads md && decide (3 ≤ fenceScope md) then s.setCore b.core (s.core b.core).l1Clear else s
    | _, _ => s)

/-- TFENCE (R334). -/
def execTfence (x : FR) (s : State) : Res :=
  runWord (.tfence x) [] s (fun gid g =>
    let s := (s.setGroup gid g.advance).commit g.block
    s.adjGroup gid (fun g => { g with wait := .tfence s.nextId }))

/-- TFENCE_DONE (R334). -/
def execTfenceDone (gid : Nat) (s : State) : Res :=
  onGroup s gid (fun g =>
    match g.wait with
    | .tfence upto =>
      if s.storesOut { g with seen := [] } 4 upto then s else s.wakeGroup gid (fun g => { g with wait := .ready })
    | _ => s)

/-- CMT (R335): it commits what the buffer holds; a store of the group that still waits at the core stands in no buffer and is not
committed (DESIGN CHOICE, log 68). -/
def execCmt (x : FR) (s : State) : Res :=
  runWord (.cmt x) [] s (fun gid g => (s.setGroup gid g.advance).commit g.block)

/-! ## Rendezvous points (R224–R230) -/

/-- A point's number from an operand. -/
def pointOf (a : Nat) : Nat := a % 24

def Block.point (b : Block) (p : Nat) : Point := (AMap.find p b.points).getD { phase := 0, expect := 1, count := 0 }

/-- A phase whose count has reached what is expected completes (R226). -/
def Point.settle (p : Point) : Point :=
  if p.expect ≤ p.count then { p with phase := (p.phase + 1) % 2 ^ 32, count := 0 } else p

def Block.setPoint (b : Block) (p : Nat) (x : Point) : Block := { b with points := AMap.put p x b.points }

/-- The phase of token t has completed (R227). -/
def tokenDone (phase t : Nat) : Bool :=
  let d := (phase + 2 ^ 32 - t % 2 ^ 32) % 2 ^ 32
  decide (1 ≤ d) && decide (d ≤ 2 ^ 31)

/-- BINIT (R228). -/
def execBinit (x : FR) (s : State) : Res :=
  runWord (.binit x) [] s (fun gid g =>
    let c := s.ctx g
    let p := pointOf (g.srcU c x.a)
    let n := g.srcU c x.b % 2 ^ 32
    (s.setGroup gid g.advance).adjBlock g.block (fun b =>
      let e := if 1 ≤ n && n ≤ 16 then n else max 1 b.counted
      b.setPoint p { b.point p with expect := e }.settle))

/-- An arrival at a point (R226): the token, and the arrival waiting to be registered; a split group's never is
(R230). -/
def Group.arrive (g : Group) (p upto : Nat) : Nat × Group :=
  let t := Sparse.get 0 g.arrNum p
  (t, { g with arrNum := Sparse.set 0 g.arrNum p ((t + 1) % 2 ^ 32),
               arrivals := if g.split then g.arrivals else g.arrivals ++ [(p, t, upto)] })

/-- BARV (R226). -/
def execBarv (x : FR) (s : State) : Res :=
  runWord (.barv x) [] s (fun gid g =>
    let (t, g) := g.deliver.arrive (pointOf (g.srcU (s.ctx g) x.a)) s.nextId
    s.setGroup gid (g.setS (regNum x.d) t).advance)

/-- Wait for a token's phase, when it has not completed (R227). -/
def State.waitToken (s : State) (gid : Nat) (g : Group) (p t : Nat) : State :=
  let phase := match s.blockOf g with
    | some b => (b.point p).phase
    | none => 0
  s.setGroup gid (if tokenDone phase t then g else { g with wait := .bwait p t })

/-- BWAIT (R227). -/
def execBwait (x : FR) (s : State) : Res :=
  runWord (.bwait x) [] s (fun gid g =>
    let c := s.ctx g
    s.waitToken gid g.deliver.advance (pointOf (g.srcU c x.a)) (g.srcU c x.b % 2 ^ 32))

/-- BSYNC (R227). -/
def execBsync (x : FR) (s : State) : Res :=
  runWord (.bsync x) [] s (fun gid g =>
    let p := pointOf (g.srcU (s.ctx g) x.a)
    let (t, g) := g.deliver.arrive p s.nextId
    s.waitToken gid g.advance p t)

/-- BARV_REGISTER (R226): the group's oldest arrival at the point. -/
def execBarvRegister (gid point : Nat) (s : State) : Res :=
  onGroup s gid (fun g =>
    match g.arrivals.find? (fun a => a.1 == point), s.blockOf g with
    | some (p, t, upto), some b =>
      let x := b.point p
      if x.phase ≠ t || !g.clearOf [.ld, .st, .at] upto then s
      else
        let s := s.setGroup gid { g with arrivals := g.arrivals.filter (fun a => a != (p, t, upto)) }
        s.setBlock g.block (b.setPoint p { x with count := x.count + 1 }.settle)
    | _, _ => s)

/-- BWAIT_RESUME (R227). -/
def execBwaitResume (gid : Nat) (s : State) : Res :=
  onGroup s gid (fun g =>
    match g.wait, s.blockOf g with
    | .bwait p t, some b => if tokenDone (b.point p).phase t then s.wakeGroup gid (fun g => { g with wait := .ready }) else s
    | _, _ => s)

/-! ## The cohort barrier (R289–R291) -/

/-- CBAR (R289). -/
def execCbar (x : FR) (s : State) : Res :=
  runWord (.cbar x) [] s (fun gid g =>
    let t := g.cohNum
    let s := (s.setGroup gid { g.deliver.advance with cohNum := (t + 1) % 2 ^ 32, commitTo := s.nextId }).commit g.block
    s.newOp gid (Op.make .xc (.cbar t) [] []))

/-- A CBAR of a token is complete in one group. -/
def Group.endCbar (g : Group) (t : Nat) : Group :=
  ({ g with ops := g.ops.map (fun (o : Op) => if o.kind = OpKind.cbar t then { o with complete := true } else o) }).retire

/-- The L1s of the cores of some blocks are invalidated. -/
def State.clearL1s (s : State) (blocks : List Nat) : State :=
  (s.blocks.filter (fun e => blocks.contains e.1 && e.2.mode != .saved)).foldl
    (fun s e => s.setCore e.2.core (s.core e.2.core).l1Clear) s

/-- The cohort's phase completes when the registered arrivals reach what is expected: banks swap, Pc rises, and every
CBAR of the phase is complete; what the phase covers is visible to the cohort, so its cores keep no older lines (R290,
R336). -/
def State.settleCohort (s : State) (cid : Nat) : State :=
  match AMap.find cid s.cohorts with
  | none => s
  | some c =>
    if c.count < c.expect then s
    else
      let s := (s.setCohort cid { c with phase := (c.phase + 1) % 2 ^ 32, count := 0 }).clearL1s c.blocks
      let swap (b : Block) : Block := if b.cohort = cid then { b with front := 1 - b.front } else b
      let mine (g : Group) : Bool := c.blocks.contains g.block
      let done (g : Group) : Group := if mine g then g.endCbar c.phase else g
      { s with blocks := s.blocks.map (fun e => (e.1, swap e.2)), groups := s.groups.map (fun e => (e.1, done e.2)) }

/-- A send of the block by an XPUT before an id is still on its way to a shadow bank (R287, R290). -/
def State.sendsOut (s : State) (b : Block) (upto : Nat) : Bool :=
  (AMap.find b.cohort s.cohorts).any (fun c => c.sends.any (fun x => x.1 == b.idx && decide (x.2.2.2.2.2 < upto)))

/-- Every older operation that a cohort arrival waits for has completed: stores, atomics and the XC path's (R290). -/
def Group.cbarReady (g : Group) (id : Nat) : Bool := g.clearOf [.st, .at, .xc] id

/-- CBAR_REGISTER (R290, R291). -/
def execCbarRegister (gid : Nat) (s : State) : Res :=
  onGroup s gid (fun g =>
    let open_ := g.ops.find? (fun o => !o.complete && decide (o.progress = 0) && match o.kind with
      | .cbar _ => true
      | _ => false)
    match open_, s.blockOf g with
    | some o, some b =>
      match o.kind, AMap.find b.cohort s.cohorts with
      | .cbar t, some c =>
        if g.split then (if tokenDone c.phase t then s.setGroup gid (g.endCbar t) else s)
        else if c.phase ≠ t || !g.cbarReady o.id || s.sendsOut b o.id || s.storesOut g 3 o.id then s
        else
          let s := s.setGroup gid (g.adjOp o.id (fun o => { o with progress := 1 }))
          (s.setCohort b.cohort { c with count := c.count + 1 }).settleCohort b.cohort
      | _, _ => s
    | _, _ => s)

/-- The oldest send of an XPUT on a link, and the others. -/
def takeSend (op : Nat) : List (Nat × Nat × Nat × Nat × Nat × Nat) →
    Option ((Nat × Nat × Nat × Nat × Nat × Nat) × List (Nat × Nat × Nat × Nat × Nat × Nat))
  | [] => none
  | x :: rest => if x.2.2.2.2.2 = op then some (x, rest) else (takeSend op rest).map (fun e => (e.1, x :: e.2))

/-- A send lands in its destination's shadow bank (R287): any XPUT's next, since the order among those of different
groups and words is unspecified; within one XPUT they land in lane order (DESIGN CHOICE, log 51). -/
def State.landSend (s : State) (cid n : Nat) : State :=
  match AMap.find cid s.cohorts with
  | none => s
  | some c =>
    match (c.sends[n]?).bind (fun x => takeSend x.2.2.2.2.2 c.sends) with
    | none => s
    | some ((_, dst, off, size, data, _), rest) =>
      let s := s.setCohort cid { c with sends := rest }
      match c.blocks[dst]? with
      | none => s
      | some bid => s.adjBlock bid (fun b => { b with banks := putBytes b.banks (b.bankKey (1 - b.front) off) size data })

/-! ## GROW and SHRINK (R211–R213) -/

/-- Registers outside 0 to n − 1 read 0 again. -/
def dropRegs (n : Nat) (v : Sparse (BitVec 32)) : Sparse (BitVec 32) := v.filter (fun e => decide (e.1 % 256 < n))

/-- The group draws on the reserve: it holds the token, or takes the free one by growing past `.regs` (R213). -/
def Block.serves (b : Block) (gid n : Nat) : Bool := b.token == some gid || (b.token.isNone && decide (b.node.regs < n))

/-- What a growth to n registers draws beyond the granules that the group holds already (R211, R213). -/
def growDraw (b : Block) (gid : Nat) (g : Group) (n : Nat) : Nat × Nat := b.draw (b.serves gid n) (3 * (n / 16) - g.grans.length)

/-- An older group of the block waits to grow past `.regs` (R213). -/
def State.olderGrower (s : State) (b : Block) (gid : Nat) (g : Group) : Bool :=
  s.groups.any (fun e => e.1 != gid && e.2.block == g.block && decide (e.2.age < g.age) && match e.2.wait with
    | .grow n => decide (b.node.regs < n)
    | _ => false)

/-- The group grows past `.regs` without the block's token: behind the older groups of its block that do so too, one of which takes
the token when it is free (R213, DEDUCED, log 101). -/
def State.growsBehind (s : State) (b : Block) (gid : Nat) (g : Group) (n : Nat) : Bool :=
  b.token != some gid && decide (b.node.regs < n) && s.olderGrower b gid g

/-- GROW_DONE (R211, R213). -/
def execGrowDone (gid : Nat) (s : State) : Res :=
  onGroup s gid (fun g =>
    match g.wait, s.blockOf g with
    | .grow n, some b =>
      let d := growDraw b gid g n
      if (decide (0 < d.2) && !s.room b.core d.2) || s.growsBehind b gid g n then s
      else
        let more := s.drawn b d
        let takes := decide (b.node.regs < n) && b.token.isNone
        let s := s.setBlock g.block { b.drew d with
          token := if takes then some gid else b.token, tokenKept := b.tokenKept && !takes }
        s.wakeGroup gid (fun g =>
          { g with wait := .ready, alloc := n / 16, v := dropRegs (16 * g.alloc) g.v, grans := g.grans ++ more })
    | _, _ => s)

/-- One past the highest register that an operation still writes in some lane, 0 for none. -/
def Op.topReg (o : Op) : Nat :=
  if o.complete then 0
  else match o.kind with
    | .load false d | .scratchLoad d | .slotLoad d | .xput true d => d + regsOf o.size
    | .store false d true => d + 1
    | .atomic false d _ tagTo =>
      match tagTo with
      | some t => t + 1
      | none => d + o.size / 4
    | .slotStore => o.lanes.foldl (fun m r => max m ((r.va + o.size + 3) / 4)) 0
    | .ldsc d => d + 1
    | .load true _ | .constLoad _ | .store _ _ _ | .scratchStore | .emit | .atomic true _ _ _ | .copy .. | .discard ..
    | .coll .. | .acpy .. | .grid | .xput false _ | .cbar _ => 0

/-- How many granules a group keeps that shrinks to n registers: those up to `.regs` stay charged to it (R212). -/
def Block.keeps (b : Block) (n : Nat) : Nat := 3 * (max n b.node.regs / 16)

/-- SHRINK_DONE (R212, R213): granules above `.regs` return as they came, and the token is free again at or below `.regs`,
but for one that a split took (R271). -/
def execShrinkDone (gid : Nat) (s : State) : Res :=
  onGroup s gid (fun g =>
    match g.wait, s.blockOf g with
    | .shrink n, some b =>
      if g.ops.any (fun o => decide (n < o.topReg)) || g.copying.isSome then s
      else
        let free := decide (n ≤ b.node.regs) && b.token == some gid && !b.tokenKept
        let back := g.grans.drop (b.keeps n)
        let s := s.setBlock g.block { b.gaveBack back with token := if free then none else b.token }
        s.wakeGroup gid (fun g =>
          { g with wait := .ready, alloc := n / 16, v := dropRegs n g.v, grans := g.grans.take (b.keeps n) })
    | _, _ => s)

end Sys2Proof.Machine
end

