-- ==== Sys2Proof/Machine/Matrix.lean ====
section
/-! DEFINITION. The grid and the accumulator store (ch. 11): MRES, MREL, MODE, MZERO, ALD, AST, AACC, ACPY, LDSC, MOPA,
and MODE_M_ENTER, MODE_V_DRAINED, MX_COMPLETE, ACPY_COMPLETE. -/

namespace Sys2Proof.Machine

/-! ## Cells (R241) -/

/-- Cell (i, j) is lane j of v(160 + i). -/
def Group.cell (g : Group) (i j : Nat) : Nat := (Sparse.get 0#32 g.v (256 * j + 160 + i)).toNat

/-- Replace every cell. -/
def Group.setCells (g : Group) (f : Nat → Nat → Nat) : Group :=
  { g with v := (List.range 96).flatMap (fun j =>
      g.v.filter (fun e => e.1 / 256 == j && decide (e.1 % 256 < 160))
        ++ (List.range 96).filterMap (fun i =>
          let x := BitVec.ofNat 32 (f i j)
          if x = 0#32 then none else some (256 * j + 160 + i, x))) }

/-- Cells of lanes outside the roster do not outlast the mode (R240). -/
def Group.rosterCells (g : Group) : Group :=
  { g with v := g.v.filter (fun e => decide (e.1 % 256 < 160) || g.roster.contains (e.1 / 256)) }

/-! ## The accumulator store (R237, R256) -/

def accKey (row col : Nat) : Nat := 1152 * row + col
def tileKey (row col : Nat) : Nat := 36 * (row / 32) + col / 32

def Core.accRead (c : Core) (row col : Nat) : Nat :=
  if Sparse.get false c.valid (tileKey row col) then (Sparse.get 0#32 c.acc (accKey row col)).toNat else 0

/-- A write to a tile whose valid bit is clear first fills the rest of it with zeros. -/
def Core.accWrite (c : Core) (row col x : Nat) : Core :=
  let t := tileKey row col
  let c := if Sparse.get false c.valid t then c
    else { c with valid := Sparse.set false c.valid t true,
                  acc := c.acc.filter (fun e => tileKey (e.1 / 1152) (e.1 % 1152) != t) }
  { c with acc := Sparse.set 0#32 c.acc (accKey row col) (BitVec.ofNat 32 x) }

/-- The rows and columns of a window, in ascending order. -/
def windowCells : List (Nat × Nat) := (List.range 96).flatMap (fun i => (List.range 96).map (fun j => (i, j)))

/-- An origin that R256 admits. -/
def originOk (r c : Nat) : Bool := r % 32 == 0 && decide (r ≤ 1056) && c % 32 == 0 && decide (c ≤ 1056)

/-- The core's grid is busy for n clocks from now (R261). -/
def State.useGrid (s : State) (core n : Nat) : State :=
  let c := s.core core
  s.setCore core { c with gridFree := c.clk + n }

def aqClosed : AqGroup := { isOpen := false, fw := 0, n := 0, acc := [], col := [] }

def State.closeAq (s : State) (core : Nat) : State := s.setCore core { s.core core with aq := aqClosed }

/-! ## The reservation (R235–R238) -/

/-- An ACPY .ld whose reservation is released: what still comes for it reaches no store (R237) (DEDUCED, log 66). -/
def Op.ungrant (o : Op) : Op :=
  match o.kind with
  | .acpy true _ _ _ _ _ _ _ => { o with lanes := o.lanes.map (fun r => { r with cmp := 1 }) }
  | .acpy false .. | .load .. | .store .. | .atomic .. | .scratchLoad _ | .scratchStore | .constLoad _ | .slotLoad _ | .slotStore
  | .emit | .copy .. | .discard .. | .coll .. | .grid | .ldsc _ | .xput .. | .cbar _ => o

/-- The reservation under which it was issued stands. -/
def Op.granted (o : Op) : Bool := o.lanes.all (fun r => r.cmp == 0)

/-- Release the reservation; a group of a saved block holds no grid any more (R238). -/
def State.release (s : State) (gid : Nat) : State :=
  match AMap.find gid s.groups with
  | none => s
  | some g =>
    if !g.grid then s
    else
      let s := s.setGroup gid ({ g with grid := false, mtx := false, ops := g.ops.map Op.ungrant }.rosterCells)
      match s.blockOf g with
      | some b =>
        if (s.core b.core).holder = some gid then s.setCore b.core { s.core b.core with holder := none, aq := aqClosed } else s
      | none => s

/-- MRES (R236, R237): the owner checks come first, also for a kernel without `.grid` and for a group that holds the grid (R236 gives
no order, DESIGN CHOICE, log 103). -/
def execMres (x : FR) (s : State) : Res :=
  runWord (.mres x) [] s (fun gid g =>
    match g.rosterCheck, s.blockOf g with
    | some info, _ => s.enterTrap gid g 0x03 info g.pc
    | none, some b =>
      let c := s.core b.core
      let d := regNum x.d
      if g.grid then s.setGroup gid (g.setS d 1).advance
      else if c.holder.isSome || !b.node.grid then s.setGroup gid (g.setS d 0).advance
      else
        (s.setGroup gid { (g.setS d 1).advance with grid := true }).setCore b.core
          { c with holder := some gid, valid := [], acc := [], aq := aqClosed }
    | none, none => s.setGroup gid (g.setS (regNum x.d) 0).advance)

/-- MREL (R238). -/
def execMrel (x : FR) (s : State) : Res :=
  runWord (.mrel x) [] s (fun gid g =>
    if g.mtx then s.setGroup gid { g.advance with wait := .modeV true }
    else (s.setGroup gid g.advance).release gid)

/-! ## The mode (R239, R240) -/

/-- MODE.M (R239). -/
def execModeM (x : FR) (s : State) : Res :=
  runWord (.modeM x) [] s (fun gid g =>
    if !g.grid then s.enterTrap gid g 0x07 0x71 g.pc
    else if g.alloc < 16 then s.enterTrap gid g 0x06 0x63 g.pc
    else match g.rosterCheck with
      | some info => s.enterTrap gid g 0x03 info g.pc
      | none => s.setGroup gid (if g.mtx then g.advance else { g.advance with wait := .modeM }))

/-- MODE.V (R240). -/
def execModeV (x : FR) (s : State) : Res :=
  runWord (.modeV x) [] s (fun gid g => s.setGroup gid (if g.mtx then { g.advance with wait := .modeV false } else g.advance))

/-- MODE_M_ENTER (R239): no long-latency write to v160–v255 is outstanding. -/
def execModeMEnter (gid : Nat) (s : State) : Res :=
  onGroup s gid (fun g =>
    match g.wait with
    | .modeM =>
      if g.ops.any (fun o => decide (160 < o.topReg)) then s
      else s.wakeGroup gid (fun g => { g.rosterCells with wait := .ready, mtx := true, notBefore := s.clkOf g + 12 })
    | _ => s)

/-- The grid is drained (R240). -/
def Group.drained (g : Group) : Bool := !g.ops.any (fun o => o.kind == .grid && !o.complete)

/-- MODE_V_DRAINED (R238, R240); END drains, leaves the mode and releases first (R176). -/
def execModeVDrained (gid : Nat) (s : State) : Res :=
  onGroup s gid (fun g =>
    match g.wait, s.blockOf g with
    | .modeV rel, some b =>
      if !g.drained then s
      else
        let s := s.wakeGroup gid (fun g => { g.rosterCells with wait := .ready, mtx := false, notBefore := s.clkOf g + 12 })
        let s := s.closeAq b.core
        if rel then s.release gid else s
    | .ending, some _ => if g.drained then s.release gid else s
    | _, _ => s)

/-! ## Grid and store (R257) -/

/-- A word between the grid and the store: it needs matrix mode and an origin, acts at issue in issue order (R260), and
counts on MX until MX_COMPLETE (DEDUCED, log 52). -/
def gridWord (i : Instr) (s : State) (clocks : Nat) (origin : Option (Operand × Operand))
    (f : Nat → Group → Block → Nat → Nat → State) : Res :=
  runWord i [] s (fun gid g =>
    match s.blockOf g with
    | none => s.setGroup gid g.advance
    | some b =>
      let c := s.ctx g
      let (r, k) : Nat × Nat := match origin with
        | some (a, b) => (g.srcU c a, g.srcU c b)
        | none => (0, 0)
      if !g.mtx then s.enterTrap gid g 0x07 0x72 g.pc
      else if !originOk r k then s.enterTrap gid g 0x08 0x36 g.pc
      else (((f gid g.advance b r k).newOp gid (Op.make .mx .grid [] [])).useGrid b.core clocks))

/-- MZERO (R257). -/
def execMzero (x : FR) (s : State) : Res :=
  gridWord (.mzero x) s 1 none (fun gid g b _ _ => (s.setGroup gid (g.setCells (fun _ _ => 0))).closeAq b.core)

/-- ALD (R257). -/
def execAld (x : FR) (s : State) : Res :=
  gridWord (.ald x) s 12 (some (x.a, x.b)) (fun gid g b r k =>
    s.setGroup gid (g.setCells (fun i j => (s.core b.core).accRead (r + i) (k + j))))

/-- AST (R257). -/
def execAst (x : FR) (s : State) : Res :=
  gridWord (.ast x) s 12 (some (x.a, x.b)) (fun gid g b r k =>
    (s.setGroup gid g).setCore b.core
      (windowCells.foldl (fun c e => c.accWrite (r + e.1) (k + e.2) (g.cell e.1 e.2)) (s.core b.core)))

/-- One sum of AACC.f32. -/
def aaccResult (a b : Nat) : FRes :=
  let va := Fmt.fp32.value a
  let vb := Fmt.fp32.value b
  let (v, fl) := FVal.sum .rn [va, vb]
  Fmt.fp32.result .rn false false v fl (va.isNaN || vb.isNaN) (va.isInf || vb.isInf)

/-- AACC (R257): the FP32 sums feed the counters. -/
def execAacc (x : FR) (s : State) : Res :=
  gridWord (.aacc x) s 12 (some (x.a, x.b)) (fun gid g b r k =>
    let int := bitAt x.md.toNat 0
    let (c, counts) := windowCells.foldl (fun (acc : Core × List Nat) e =>
      let old := acc.1.accRead (r + e.1) (k + e.2)
      let x := g.cell e.1 e.2
      if int then (acc.1.accWrite (r + e.1) (k + e.2) ((old + x) % 2 ^ 32), acc.2)
      else
        let y := aaccResult old x
        (acc.1.accWrite (r + e.1) (k + e.2) y.code, y.counts .fp32 ++ acc.2)) (s.core b.core, [])
    ((s.setGroup gid g).setCore b.core c).count g counts)

/-! ## MOPA (R244–R253) -/

/-- Element width and K-width of a format code (R245, R246). -/
def elemWidth (f : Nat) : Nat :=
  if f ≤ 1 then 16 else if f = 6 || f = 7 then 6 else if f = 8 || f = 12 || f = 13 then 4 else 8

def kWidth (f : Nat) : Nat := if f ≤ 1 then 8 else if elemWidth f = 4 then 32 else 16

/-- The classes of Table 11.2. -/
inductive PairClass where
  | half | fp8 | mx | mxInt | int | aq
  deriving DecidableEq, Repr

def pairClass (a b : Nat) : Option PairClass :=
  if a ≤ 1 && b = a then some .half
  else if (a = 2 || a = 3) && (b = 2 || b = 3) then some .fp8
  else if 4 ≤ a && a ≤ 8 && 4 ≤ b && b ≤ 8 then some .mx
  else if a = 9 && b = 9 then some .mxInt
  else if (a = 10 || a = 13) && (b = 10 || b = 13) then some .int
  else if (a = 11 || a = 12) && (b = 10 || b = 13) then some .aq
  else none

def PairClass.scaled : PairClass → Bool
  | .mx | .mxInt | .aq => true
  | .half | .fp8 | .int => false

/-- The format word's fields (Table 11.1). -/
def fwA (fw : Nat) : Nat := bits fw 4 0
def fwB (fw : Nat) : Nat := bits fw 9 5
def fwGrp (fw : Nat) : Nat := bits fw 11 10

/-- Checks 4 to 6 of Table 11.5: the reason of the first that fails. -/
def fwCheck (fw : Nat) : Option Nat :=
  if bits fw 31 24 ≠ 0xA5 || bits fw 23 14 ≠ 0 then some 0x52
  else match pairClass (fwA fw) (fwB fw) with
    | none => some 0x53
    | some .aq => if fwGrp fw = 3 then some 0x54 else none
    | some _ => if fwGrp fw = 3 then none else some 0x54

/-- The K of a word, and its register counts (Table 11.3). -/
def fwK (fw : Nat) : Nat := max (kWidth (fwA fw)) (kWidth (fwB fw))
def fwRegs (fw : Nat) (f : Nat) : Nat := fwK fw * elemWidth f / 32

/-- The vote (R249): the word, or the lane that disagrees. -/
def Group.vote (g : Group) : Operand → Sum Nat Nat
  | .s n => .inr (g.getS n.toNat % 2 ^ 32)
  | .v n =>
    match g.active with
    | [] => .inl 0
    | j :: rest =>
      match rest.find? (fun k => g.getV k n.toNat != g.getV j n.toNat) with
      | some k => .inl k
      | none => .inr (g.getV j n.toNat)
  | .q _ | .sp _ | .imm _ | .reserved _ => .inl 0

/-- A register of an operand lies in v160–v255. -/
def inCells (o : Operand) (n : Nat) : Bool :=
  match o with
  | .v r => decide (160 < r.toNat + n)
  | .s _ | .q _ | .sp _ | .imm _ | .reserved _ => false

/-- The registers MOPA names, for check 16 (R249). -/
def mopaSpans (x : FX) (na nb : Nat) : List (Nat × Nat) :=
  x.f.span 1 ++ x.a.span na ++ x.b.span nb ++ x.sa.span 1 ++ x.sb.span 1

/-- No scale register: a field of 0x000 (R247). -/
def noScale (o : Operand) : Bool := o == .v 0#8

/-- The value of an element of a floating format, or of MXINT8 (R66, R68, R69). -/
def elemValue (f code : Nat) : FVal :=
  match f with
  | 0 => Fmt.bf16.value code
  | 1 => Fmt.fp16.value code
  | 2 | 4 => Fmt.e4m3.value code
  | 3 | 5 => Fmt.e5m2.value code
  | 6 => Fmt.e2m3.value code
  | 7 => Fmt.e3m2.value code
  | 8 => Fmt.e2m1.value code
  | _ => .fin (decide (sgn 8 code < 0)) (sgn 8 code).natAbs (-6)

/-- The integer of an element of the integer and AQ formats (R69, R71). -/
def elemInt (f code : Nat) : Int :=
  match f with
  | 11 | 12 => (code : Int)
  | 13 => sgn 4 code
  | _ => sgn 8 code

/-- The codes of one lane's operand: K elements across its registers (R70, R248). A lane outside the roster gives 0. -/
def Group.elems (g : Group) (fw f j r : Nat) : List Nat :=
  let x := if g.roster.contains j then g.regsFrom j (fwRegs fw f) r else 0
  let w := elemWidth f
  (List.range (fwK fw)).map (fun k => x / 2 ^ (w * k) % 2 ^ w)

/-- Register r of lane j, 0 outside the roster. -/
def Group.rowWord (g : Group) (j r : Nat) : Nat := if g.roster.contains j then g.getV j r else 0

/-- One cell's result of the floating classes (R250). `ea`, `eb`: the MX scales, or 1. -/
def floatCell (neg acc sat : Bool) (as bs : List FVal) (ea eb : FVal) (old : Nat) : FRes :=
  let prods := (as.zip bs).map (fun e =>
    let t := ((e.1.mul e.2).1.mul (ea.mul eb).1).1
    if neg then t.neg else t)
  let nv := ((as.zip bs).any (fun e => (e.1.mul e.2).2 != 0#5))
  let cell := Fmt.fp32.value old
  let terms := if acc then prods ++ [cell] else prods
  let (v, fl) := FVal.sum .rn terms
  let ops := ea :: eb :: (if acc then cell :: as ++ bs else as ++ bs)
  Fmt.fp32.result .rn false sat v (if nv then fl ||| flagNV else fl) (ops.any FVal.isNaN) (ops.any FVal.isInf)

/-- One cell's result of the plain integer class (R251). -/
def intCell (neg acc sat : Bool) (as bs : List Int) (old : Nat) : Nat :=
  let p := ((as.zip bs).map (fun e => e.1 * e.2)).foldl (· + ·) 0
  let s := (if neg then -p else p) + (if acc then sgn 32 old else 0)
  if sat then low 32 (max (-(2 ^ 31)) (min (2 ^ 31 - 1) s)) else low 32 s

/-- One cell's result on the GE word of an AQ group (R252). -/
def aqCell (neg acc sat : Bool) (i c : Int) (ea eb old : Nat) : FRes :=
  let s0 := i - (bits ea 23 16 : Int) * c
  let sa := Fmt.fp16.value (ea % 2 ^ 16)
  let sb := Fmt.fp16.value (eb % 2 ^ 16)
  let (ab, f1) := sa.mul sb
  let (t, f2) := ab.mul (FVal.ofInt (if neg then -s0 else s0))
  let cell := Fmt.fp32.value old
  let (v, fl) := FVal.sum .rn (if acc then [t, cell] else [t])
  let ops := if acc then [sa, sb, cell] else [sa, sb]
  Fmt.fp32.result .rn false sat v (fl ||| f1 ||| f2) (ops.any FVal.isNaN) (ops.any FVal.isInf)

/-- Values by position, 96 of them. -/
def byLane {α : Type} (f : Nat → α) : List α := (List.range 96).map f

/-- MOPA's effect on the cells of the floating and integer classes. -/
def State.mopaCells (s : State) (gid : Nat) (g : Group) (x : FX) (fw : Nat) (cl : PairClass) : State :=
  let neg := bitAt fw 12 != x.np
  let sat := bitAt fw 13
  let fa := fwA fw
  let fb := fwB fw
  let ca := byLane (fun i => g.elems fw fa i (regNum x.a))
  let cb := byLane (fun j => g.elems fw fb j (regNum x.b))
  if cl = .int then
    let ia := ca.map (fun l => l.map (elemInt fa))
    let ib := cb.map (fun l => l.map (elemInt fb))
    s.setGroup gid (g.setCells (fun i j => intCell neg x.acc sat (ia.getD i []) (ib.getD j []) (g.cell i j)))
  else
    let va := ca.map (fun l => l.map (elemValue fa))
    let vb := cb.map (fun l => l.map (elemValue fb))
    let one : FVal := .fin false 1 0
    let ea := byLane (fun i => if cl.scaled then e8m0Value (g.rowWord i (regNum x.sa) % 256) else one)
    let eb := byLane (fun j => if cl.scaled then e8m0Value (g.rowWord j (regNum x.sb) % 256) else one)
    let res := byLane (fun i => byLane (fun j =>
      floatCell neg x.acc sat (va.getD i []) (vb.getD j []) (ea.getD i one) (eb.getD j one) (g.cell i j)))
    let counts := res.flatMap (fun l => l.flatMap (FRes.counts .fp32))
    (s.setGroup gid (g.setCells (fun i j => ((res.getD i []).map FRes.code).getD j 0))).count g counts

/-- The open AQ group as a word finds it. The format word must stay the same throughout a group, and the spec gives no result where
it does not: the sums are then free values (R5, R252, DESIGN CHOICE, log 95). -/
def State.aqFor (s : State) (aq : AqGroup) (fw : Nat) : AqGroup × State :=
  if !aq.isOpen || aq.fw = fw then (aq, s)
  else
    let free (i : Nat) : Int := sgn 128 (Config.freeWord (s.freeTick + i)).toNat
    ({ aq with acc := (List.range 9216).map (fun i => (i, free i)), col := (List.range 96).map (fun j => (j, free (9216 + j))) },
     { s with freeTick := s.freeTick + 9312 })

/-- MOPA's effect on an AQ group (R252). -/
def State.mopaAq (s : State) (gid : Nat) (g : Group) (b : Block) (x : FX) (fw : Nat) : State :=
  let neg := bitAt fw 12 != x.np
  let sat := bitAt fw 13
  let c := s.core b.core
  let fa := fwA fw
  let fb := fwB fw
  let ia := byLane (fun i => (g.elems fw fa i (regNum x.a)).map (elemInt fa))
  let ib := byLane (fun j => (g.elems fw fb j (regNum x.b)).map (elemInt fb))
  let (old, s) := if x.gs then (aqClosed, s) else s.aqFor c.aq fw
  let dot (as bs : List Int) : Int := ((as.zip bs).map (fun e => e.1 * e.2)).foldl (· + ·) 0
  let acc : Sparse Int := (List.range 96).flatMap (fun i => (List.range 96).filterMap (fun j =>
    let v := Sparse.get 0 old.acc (96 * i + j) + dot (ia.getD i []) (ib.getD j [])
    if v = 0 then none else some (96 * i + j, v)))
  let col : Sparse Int := (List.range 96).filterMap (fun j =>
    let v := Sparse.get 0 old.col j + (ib.getD j []).foldl (· + ·) 0
    if v = 0 then none else some (j, v))
  let aq : AqGroup := { isOpen := !x.ge, fw := fw, n := if x.ge then 0 else old.n + fwK fw, acc := acc, col := col }
  if x.ge then
    let res := byLane (fun i => byLane (fun j =>
      aqCell neg x.acc sat (Sparse.get 0 acc (96 * i + j)) (Sparse.get 0 col j) (g.rowWord i (regNum x.sa))
        (g.rowWord j (regNum x.sb)) (g.cell i j)))
    let counts := res.flatMap (fun l => l.flatMap (FRes.counts .fp32))
    ((s.setGroup gid (g.setCells (fun i j => ((res.getD i []).map FRes.code).getD j 0))).setCore b.core
      { c with aq := aqClosed }).count g counts
  else (s.setGroup gid g).setCore b.core { c with aq := aq }

/-- Group sizes of Table 11.1. -/
def grpSize (fw : Nat) : Nat := 32 * 2 ^ fwGrp fw

/-- Check 9 of Table 11.5: the group flags against the open group and the word's own group size (R252). -/
def groupFlags (x : FX) (fw : Nat) (cl : PairClass) (aq : AqGroup) : Bool :=
  if cl ≠ .aq then !x.gs && !x.ge
  else
    let n := if x.gs then 0 else aq.n
    if !x.gs && !aq.isOpen then false
    else if x.gs && aq.isOpen then false
    else x.ge == decide (n + fwK fw = grpSize fw)

/-- MOPA (R247–R253): check 16 under the word's register counts, then Table 11.5. -/
def execMopa (x : FX) (s : State) : Res :=
  runWord (.mopa x) [] s (fun gid g =>
    match s.blockOf g with
    | none => s.setGroup gid g.advance
    | some b =>
      let v := g.vote x.f
      let legal := match v with
        | .inr fw => (fwCheck fw).isNone
        | .inl _ => false
      let fw := match v with
        | .inr fw => fw
        | .inl _ => 0
      let na := if legal then fwRegs fw (fwA fw) else 4
      let nb := if legal then fwRegs fw (fwB fw) else 4
      if !spansOk (16 * g.alloc) (mopaSpans x na nb) then s.enterTrap gid g 0x09 0x21 g.pc
      else if !g.mtx then s.enterTrap gid g 0x07 0x72 g.pc
      else if inCells x.f 1 then s.enterTrap gid g 0x06 0x62 g.pc
      else match v with
        | .inl j => s.enterTrap gid g 0x04 (0x51 + 256 * j) g.pc
        | .inr fw =>
          match fwCheck fw, pairClass (fwA fw) (fwB fw) with
          | some r, _ => s.enterTrap gid g 0x04 r g.pc
          | none, none => s.enterTrap gid g 0x04 0x53 g.pc
          | none, some cl =>
            if (if cl.scaled then noScale x.sa || noScale x.sb else !(noScale x.sa && noScale x.sb)) then
              s.enterTrap gid g 0x04 0x55 g.pc
            else if inCells x.a na || inCells x.b nb || inCells x.sa 1 || inCells x.sb 1 then s.enterTrap gid g 0x06 0x62 g.pc
            else if !groupFlags x fw cl (s.core b.core).aq then s.enterTrap gid g 0x04 0x56 g.pc
            else
              let s := if cl = .aq then s.mopaAq gid g.advance b x fw else s.mopaCells gid g.advance x fw cl
              (s.newOp gid (Op.make .mx .grid [] [])).useGrid b.core (3 * ((max na nb + 3) / 4)))

/-! ## Plain loads of a unit (R255, R258) -/

/-- Up to 16 bytes of a plain load made for a group: the commit buffer's, then L1's, then the home slice's (R324), which is asked
with the bytes that the buffer then holds. What it has once it keeps; what an earlier access of the group keeps it from, it does not
ask for yet (R321, R331). -/
def State.loadPart (s : State) (u : Actor) (g : Group) (b : Block) (va n : Nat) : Sum Nat (Option Nat) × State :=
  match s.reach u va false with
  | (.inl k, s) => (.inl k, s)
  | (.inr (ia, home), s) =>
    let (m, x) := bufRead b.buffer ia n
    let ask (s : State) : Sum Nat (Option Nat) × State :=
      let (y, s) := s.unitAsk u ia home n (m, x)
      (.inr y, s)
    if s.unitAsked u.gid u.op ia n then ask s
    else if g.keepsUnit u.op ia n false then (.inr none, s)
    else if m = 2 ^ n - 1 then (.inr (some x), s.unitKeep u ia home n x)
    else match (s.core u.core).l1Read u.part ia n m with
      | some d =>
        let x := mixBytes n m x d
        (.inr (some x), (s.unitKeep u ia home n x).readEarly u.gid g b n [ia])
      | none => ask s

/-- Load the parts of a piece of memory: all are asked for, and the bytes are there once all have come. -/
def State.loadParts (u : Actor) (g : Group) (b : Block) : List (Nat × Nat × Nat) → State → Gathered × State
  | [], s => (.got 0, s)
  | (va, off, n) :: rest, s =>
    match s.loadPart u g b va n with
    | (.inl k, s) => (.fails va k, s)
    | (.inr x, s) =>
      match State.loadParts u g b rest s, x with
      | (.got y, s), some x => (.got (x * 2 ^ (8 * off) + y), s)
      | (.got _, s), none => (.waits, s)
      | r, _ => r

/-! ## LDSC (R254, R255) -/

/-- LDSC. -/
def execLdsc (x : FR) (s : State) : Res :=
  runWord (.ldsc x) (x.spans 1 1 1) s (fun gid g =>
    let c := s.ctx g
    let a := g.srcU c x.a
    let n := g.srcU c x.b
    let bound := g.srcU c x.c
    match g.ownerCheck with
    | some info => s.enterTrap gid g 0x03 info g.pc
    | none =>
      if g.mtx && inCells x.d 1 then s.enterTrap gid g 0x06 0x62 g.pc
      else if 3 < n then s.enterTrap gid g 0x05 0x83 g.pc
      else if a % 256 ≠ 0 then s.enterTrap gid g 0x05 0x81 g.pc
      else if bound < a + 1536 then s.enterTrap gid g 0x05 0x82 g.pc
      else
        let o := { g.engineOp .mx (.ldsc (regNum x.d)) (bits x.md.toNat 1 0) with
          size := 4, lanes := [LaneReq.make g.lead (low 64 ((a + 384 * n : Nat) : Int))] }
        (s.setGroup gid g.advance).newOp gid o)

/-- The byte of entry (i, g) within its column (R254). -/
def scaleByte (i : Nat) : Nat := 16 * (i % 24) + 4 * (i / 24)

/-- MX_COMPLETE (R255, R261). -/
def execMxComplete (gid op : Nat) (s : State) : Res :=
  onOp s gid op (fun g o =>
    match o.kind, s.blockOf g with
    | .grid, _ => s.closeOp gid op
    | .ldsc d, some b =>
      match o.lanes with
      | [r] =>
        if r.st != .waiting then s
        else match State.loadParts (g.actor b gid op o.stamp o.cls o.tensor) g b (partsWithin 16 r.va 384) s with
          | (.got col, s) =>
            let give (x : Group) : Group := match x.findOp op with
              | some p => if x.block = g.block then p.serves.foldl (fun x j => x.setV j d (col / 2 ^ (8 * scaleByte j) % 2 ^ 32)) x else x
              | none => x
            let s : State := { s with groups := s.groups.map (fun e => (e.1, give e.2)) }
            let s := s.adjGroup gid (fun g => g.adjOp op (fun o =>
              { o with lanes := o.lanes.map (fun r => { r with st := .done, unf := false }) }))
            ((s.dropReads gid op).closeOp gid op).startReady gid
          | (.fails va k, s) => s.failRange gid op 0 va k
          | (.waits, s) => s.startReady gid
      | _ => s
    | _, _ => s)

/-! ## ACPY (R258) -/

/-- The memory format of CV. -/
def acpyFmt (cv : Nat) : Fmt := if cv = 0 then .fp32 else if cv = 1 then .bf16 else if cv = 2 then .fp16 else .e4m3

/-- One element of a store: the cell, scaled under RS and rounded once; what it feeds: narrowed elements alone do (R258)
(DEDUCED, log 65). -/
def acpyElem (cv : Nat) (sat rs : Bool) (x scale : Nat) : Nat × List Nat :=
  if cv = 0 && !rs then (x, [])
  else
    let v := Fmt.fp32.value x
    let w := Fmt.fp32.value scale
    let (p, fl) := if rs then v.mul w else (v, 0#5)
    let ops := if rs then [v, w] else [v]
    let r := (acpyFmt cv).result .rn false sat p fl (ops.any FVal.isNaN) (ops.any FVal.isInf)
    (r.code, if cv = 0 then [] else r.counts (acpyFmt cv))

/-- The checks of R258 after Table 2.12, in order: kind and detail of the trap. -/
def Group.acpyCheck (g : Group) (x : FR) (a r c p e w : Nat) : Option (Nat × Nat) :=
  if !g.grid then some (0x07, 0x71)
  else match g.ownerCheck with
    | some info => some (0x03, info)
    | none =>
      let md := x.md.toNat
      if !originOk r c then some (0x08, 0x36)
      else if bitAt md 4 && g.mtx && inCells x.d 1 then some (0x06, 0x62)
      else if a % e ≠ 0 || p % e ≠ 0 then some (0x08, 0x31)
      else if bitAt md 3 && decide (w < a + 95 * p + 96 * e) then some (0x08, 0x32)
      else none

/-- ACPY: a store's elements are read from the accumulator store here, in issue order (R260). -/
def execAcpy (x : FR) (s : State) : Res :=
  runWord (.acpy x) (if bitAt x.md.toNat 4 then x.d.span 1 else []) s (fun gid g =>
    match s.blockOf g with
    | none => s.setGroup gid g.advance
    | some b =>
      let ctx := s.ctx g
      let md := x.md.toNat
      let a := g.srcU ctx x.a
      let o := g.srcU ctx x.b
      let p := g.srcU ctx x.c
      let r := bits o 10 0
      let c := bits o 26 16
      let cv := bits md 1 0
      let e := acpyBytes cv
      match g.acpyCheck x a r c p e b.node.scratch with
      | some (k, info) => s.enterTrap gid g k info g.pc
      | none =>
        let ld := bitAt md 2
        let els := if ld then [] else windowCells.map (fun q =>
          acpyElem cv (bitAt md 5) (bitAt md 4) ((s.core b.core).accRead (r + q.1) (c + q.2)) (g.rowWord q.1 (regNum x.d)))
        let op := { g.engineOp .cp (.acpy ld a r c p cv (bitAt md 3) (els.map Prod.fst)) 0 with size := e }
        let s := ((s.setGroup gid g.advance).newOp gid op).count g (els.flatMap Prod.snd)
        let k := s.core b.core
        s.setCore b.core { k with portFree := k.clk + 12 })

/-- What an ACPY moves: the window's first row and column, the memory's base and pitch, its format, and an element's bytes. -/
structure AcpyJob where
  base : Nat
  row : Nat
  col : Nat
  pitch : Nat
  cv : Nat

/-- The address of element k; sums past 2^64 do not wrap (DESIGN CHOICE, log 93). -/
def AcpyJob.addr (j : AcpyJob) (k : Nat) : Nat := j.base + k / 96 * j.pitch + k % 96 * acpyBytes j.cv

/-- Elements reach the store, from element k of the window on: exactly their FP32 values. -/
def Core.acpyTake (j : AcpyJob) : Nat → Nat → Nat → Core → Core
  | 0, _, _, c => c
  | n + 1, k, x, c =>
    let e := acpyBytes j.cv
    let y := x % 2 ^ (8 * e)
    let v := if j.cv = 0 then y else (Fmt.fp32.round .rn false false ((acpyFmt j.cv).value y)).1
    Core.acpyTake j n (k + 1) (x / 2 ^ (8 * e)) (c.accWrite (j.row + k / 96) (j.col + k % 96) v)

/-- The same at the group's core, unless the reservation was released meanwhile (R237). -/
def State.acpyTake (s : State) (core : Nat) (o : Op) (j : AcpyJob) (k n x : Nat) : State :=
  if o.granted then s.setCore core (Core.acpyTake j n k x (s.core core)) else s

/-- VLDS. -/
def OpKind.scratchReads : OpKind → Bool
  | .scratchLoad _ => true
  | .load .. | .store .. | .atomic .. | .scratchStore | .constLoad _ | .slotLoad _ | .slotStore | .emit | .copy .. | .discard ..
  | .coll .. | .acpy .. | .grid | .ldsc _ | .xput .. | .cbar _ => false

/-- ACPY is over; END commits what its group still stores (R176, R322, DEDUCED, log 68). -/
def State.acpyEnd (s : State) (gid op : Nat) (store : Bool) : State :=
  let s := match AMap.find gid s.groups with
    | some (g : Group) => if store && decide (g.wait = Wait.ending) then s.commit g.block else s
    | none => s
  (((s.dropReads gid op).adjGroup gid (fun g => g.adjOp op (fun o =>
    { o with lanes := o.lanes.map (fun q => { q with st := .done, unf := false }) }))).closeOp gid op).startReady gid

def State.acpyAt (s : State) (gid op k : Nat) : State := s.adjGroup gid (fun g => g.adjOp op (fun o => { o with progress := k }))

/-- A .ld from memory, row by row from row i on: what is there is taken, and the next row is asked for. -/
def State.acpyLoad (u : Actor) (g : Group) (b : Block) (o : Op) (j : AcpyJob) : Nat → Nat → State → State
  | 0, _, s => s.acpyEnd u.gid u.op false
  | n + 1, i, s =>
    match State.loadParts u g b (partsWithin 16 (j.addr (96 * i)) (96 * acpyBytes j.cv)) s with
    | (.waits, s) => s.startReady u.gid
    | (.fails va k, s) => s.failRange u.gid u.op 0 va k
    | (.got x, s) =>
      State.acpyLoad u g b o j n (i + 1) (((s.acpyTake u.core o j (96 * i) 96 x).dropReads u.gid u.op).acpyAt u.gid u.op (96 * (i + 1)))

/-- A .st to memory, element by element from element k on, into the commit buffer; it stops at one that range translation turns
away, and at one that an earlier access of the group keeps back (R321, R330). -/
def State.acpyStore (u : Actor) (g : Group) (j : AcpyJob) (els : List Nat) : Nat → Nat → State → State
  | 0, _, s => s.acpyEnd u.gid u.op true
  | n + 1, k, s =>
    let e := acpyBytes j.cv
    match s.reach u (j.addr k) true with
    | (.inl kind, s) => (s.acpyAt u.gid u.op k).failRange u.gid u.op 1 (j.addr k) kind
    | (.inr (ia, home), s) =>
      if g.keepsUnit u.op ia e true then s.acpyAt u.gid u.op k
      else
        let entry := BufEntry.store ia e (els.getD k 0) 0 home u.tensor u.stamp u.gid u.op
        State.acpyStore u g j els n (k + 1) (s.bufferSends u.block [entry] e)

/-- Between the store and the leading stamp's scratch window, whose bytes start at `win`. -/
def State.acpyScratch (s : State) (u : Actor) (bid : Nat) (b : Block) (o : Op) (ld : Bool) (j : AcpyJob) (win : Nat) (els : List Nat) :
    State :=
  let e := acpyBytes j.cv
  let s := (List.range (96 * 96)).foldl (fun s k =>
    if ld then s.acpyTake u.core o j k 1 (bytesAt b.scratch (win + j.addr k) e)
    else s.adjBlock bid (fun b => { b with scratch := putBytes b.scratch (win + j.addr k) e (els.getD k 0) })) s
  s.acpyEnd u.gid u.op false

/-- An earlier scratch access of the group that has not landed touches the window's elements: stores under a .ld, any under a .st
(R142, R321). -/
def Group.scratchBefore (g : Group) (o : Op) (ld : Bool) (j : AcpyJob) : Bool :=
  let rows := (List.range 96).map (fun i => scratchIa o.stamp (j.addr (96 * i) : Nat))
  g.ops.any (fun p => decide (p.id < o.id) && !p.complete && (p.kind == .scratchStore || (!ld && p.kind.scratchReads)) &&
    p.lanes.any (fun r => r.st != .done && rows.any (fun ia =>
      decide (r.ia < ia + 96 * acpyBytes j.cv) && decide (ia < r.ia + p.size))))

/-- ACPY_COMPLETE (R258): from the first element not yet moved. -/
def execAcpyComplete (gid op : Nat) (s : State) : Res :=
  onOp s gid op (fun g o =>
    match o.kind, s.blockOf g with
    | .acpy ld base r c p cv scr els, some b =>
      let j : AcpyJob := { base := base, row := r, col := c, pitch := p, cv := cv }
      let u := g.actor b gid op o.stamp 0 o.tensor
      if !o.lanes.any (fun q => q.st == .waiting) || g.acquireBefore op || (scr && g.scratchBefore o ld j) then s
      else if scr then s.acpyScratch u g.block b o ld j (b.node.scratch * b.window o.stamp) els
      else if ld then State.acpyLoad u g b o j (96 - o.progress / 96) (o.progress / 96) s
      else State.acpyStore u g j els (96 * 96 - o.progress) o.progress s
    | _, _ => s)

end Sys2Proof.Machine
end

