-- ==== Sys2Proof/Machine/Sched.lean ====
section
/-! DEFINITION. Choosing a word (R215–R220): the active set, pass counts, promotion and slot times, and when a word can
be accepted: pipes (R102, R124, R199, R415), path counters (R220), the grid and the store port (R257–R261), XPUT behind
a CBAR (R288). The rows ACTIVE_SLOT_TIMEOUT, PENDING_PROMOTION and SHADOW_LATCH_REPLAY. -/

namespace Sys2Proof.Machine

/-! ## What a word needs, from its bits -/

/-- The lane-class families (Table 2.9); of CTL and ENG, EMIT and XPUT. -/
def wordLaneClass (w : Nat) : Bool :=
  match wordMaj w with
  | 0x08 | 0x09 | 0x0A | 0x10 | 0x11 | 0x12 | 0x18 | 0x1C | 0x20 => true
  | 0x00 => fnR w == 9
  | 0x24 => fnR w == 4
  | _ => false

/-- A half is a vector half by its opcode (Table 2.11). -/
def vectorHalf (h : Nat) : Bool := decide (bits h 30 24 ≤ 0x19)

/-- The vector pipes a word takes (R52, R159). -/
def wordPipes (w : Nat) : Nat :=
  if bitAt w 62 then (vectorHalf (bits w 61 31)).toNat + (vectorHalf (bits w 30 0)).toNat
  else (wordLaneClass w).toNat

/-- Beats that are not skipped (R159). -/
def Group.beats (g : Group) : Nat := ([61, 62, 63].filter (fun r => g.getS r != 0)).length

/-- The clocks for which a word holds its pipe, by the beats it issues (R102, Table 5.8, Table 8.5, R415). -/
def wordClocks (w beats : Nat) : Nat :=
  if bitAt w 62 then beats
  else match wordMaj w with
    | 0x08 => if fnR w = 7 || fnR w = 8 then 12 * beats else beats
    | 0x10 => if fnR w = 12 || fnR w = 13 then 8 * beats else if 14 ≤ fnR w && fnR w ≤ 20 then 4 * beats else beats
    | 0x18 =>
      if fnR w = 5 || fnR w = 6 then beats
      else if 7 ≤ fnR w && fnR w ≤ 9 then (if bits w 6 3 ≤ 7 then 4 else 8)
      else 3
    | _ => beats

/-- A word of the grid, in issue order with ACPY (R260). -/
def wordGrid (w : Nat) : Bool := !bitAt w 62 && (wordMaj w == 0x2D || (wordMaj w == 0x2C && decide (3 ≤ fnR w) && decide (fnR w ≤ 6)))

def wordAcpy (w : Nat) : Bool := !bitAt w 62 && wordMaj w == 0x2C && fnR w == 7

def wordXput (w : Nat) : Bool := !bitAt w 62 && wordMaj w == 0x24 && fnR w == 4

/-- A word whose beats hand requests to the memory side (R415): VMEM, VAMO, XPUT and EMIT. -/
def wordMem (w : Nat) : Bool :=
  !bitAt w 62 && (wordMaj w == 0x1C || wordMaj w == 0x20 || (wordMaj w == 0x24 && fnR w == 4) || (wordMaj w == 0 && fnR w == 9))

/-- The vector registers of a half. -/
def halfSpans (h : Nat) : List (Nat × Nat) :=
  if vectorHalf h then (Half.ofBits h).d.full.span 1 ++ (Half.ofBits h).s.full.span 1 else []

/-- The registers of an access word from D (R136, R147). -/
def memRegs (w : Nat) : Nat :=
  if wordMaj w = 0x20 then vamoRegs (AOp.all.getD (fnM w) .add) (FM.ofWord w) else szRegs (FM.ofWord w).sz.toNat

/-- The vector registers that a lane word's fields name, ranges, triples and wide pairs with all their registers. -/
def wordSpans (w : Nat) : List (Nat × Nat) :=
  let r := FR.ofWord w
  let m := FM.ofWord w
  if bitAt w 62 then halfSpans (bits w 61 31) ++ halfSpans (bits w 30 0)
  else match wordMaj w with
    | 0x08 | 0x10 | 0x11 | 0x12 => r.spans 1 1 1
    | 0x09 => (FI.ofWord w).d.span 1 ++ (FI.ofWord w).a.span 1
    | 0x0A => vadrSpans r
    | 0x18 => r.spans (if fnR w = 10 || fnR w = 11 then 3 else 1) 1 1
    | 0x1C => m.spans (memRegs w) (if 2 ≤ fnM w ∧ fnM w ≤ 5 then 1 else 2)
    | 0x20 => m.spans (memRegs w) 2
    | 0x24 => if fnR w = 4 then r.spans (xputRegs r) 1 1 else []
    | _ => []

/-- A register of v160–v255 among some. -/
def spansGrid (l : List (Nat × Nat)) : Bool := l.any (fun e => decide (160 < e.1 + e.2))

/-- The word reads or writes a register of v160–v255, VLDW and VSTW by their slots, EMIT by the words of its records
(R242). -/
def State.touchesGrid (s : State) (g : Group) (w : Nat) : Bool :=
  let m := FM.ofWord w
  let c := s.ctx g
  let slots := (g.parts m.g.toNat).any (fun j => decide (640 < g.woff c m j + fmSize m))
  let r := FR.ofWord w
  spansGrid (wordSpans w)
    || (!bitAt w 62 && wordMaj w == 0x1C && (fnM w == 4 || fnM w == 5) && slots)
    || (!bitAt w 62 && wordMaj w == 0 && fnR w == 9 && decide (160 < regNum r.b + s.emitWords g (regNum r.a)))

/-- An ACPY .ld has not returned (R260). -/
def Group.acpyOut (g : Group) : Bool :=
  g.ops.any (fun o => !o.complete && match o.kind with
    | .acpy ld _ _ _ _ _ _ _ => ld
    | _ => false)

def Group.cbarOut (g : Group) : Bool :=
  g.ops.any (fun o => !o.complete && match o.kind with
    | .cbar _ => true
    | _ => false)

/-- AST reads the cells and awaits no write into them (R242). -/
def wordAst (w : Nat) : Bool := wordMaj w == 0x2C && fnR w == 5

/-- The units that a word needs can take it in this clock (R215, R239, R260, R288, R415); while the grid is busy in
matrix mode, no word that reaches v160–v255 is taken, and while a write into them is out no MOPA, MZERO, ALD or AACC
(R242). -/
def State.accepts (s : State) (core : Nat) (g : Group) (w : Nat) : Bool :=
  let c := s.core core
  let gridWrites := g.mtx && !wordAst w && g.ops.any (fun o => decide (160 < o.topReg))
  decide (wordPipes w ≤ (c.pipeFree.filter (fun t => decide (t ≤ c.clk))).length)
    && (!wordMem w || decide (c.memFree ≤ c.clk))
    && (!wordGrid w || (decide (c.gridFree ≤ c.clk) && !g.acpyOut && !gridWrites))
    && (!g.mtx || g.drained || !s.touchesGrid g w)
    && (!wordAcpy w || (decide (c.portFree ≤ c.clk) && !g.acpyOut))
    && (!wordXput w || !g.cbarOut)

/-- Hold n of the free pipes until a clock, the lowest first. -/
def takePipes (clk till : Nat) : Nat → List Nat → List Nat
  | 0, l => l
  | _ + 1, [] => []
  | n + 1, t :: rest => if t ≤ clk then till :: takePipes clk till n rest else t :: takePipes clk till (n + 1) rest

/-- The word issues: the pipes it takes are held (R159). -/
def Core.hold (c : Core) (g : Group) (w : Nat) : Core :=
  { c with pipeFree := takePipes c.clk (c.clk + wordClocks w g.beats) (wordPipes w) c.pipeFree }

/-! ## Ready groups -/

/-- An active group that could issue its next word (R215), whatever that word needs. -/
def State.atIssue (s : State) (core : Nat) (g : Group) : Bool :=
  g.inActive && !s.waits g && decide (g.notBefore ≤ (s.core core).clk) && match s.blockOf g with
    | none => false
    | some b => b.mode != .saving

/-- An active group that may be chosen in this clock (R215): its next word can be taken, or its offset lies past the
end of .text. -/
def State.readyToIssue (s : State) (core : Nat) (g : Group) : Bool :=
  s.atIssue core g && match s.blockOf g with
    | none => false
    | some b =>
      if b.node.textSize ≤ g.pc then true
      else match s.cachedWord g b with
        | some w => s.accepts core g w
        | none => false

/-! ## The choice (R216) -/

/-- The group last chosen among those of a class and an age; 0 for none (R216). -/
def Core.lastOf (c : Core) (cls age : Nat) : Nat :=
  match c.lasts.find? (fun e => e.1 = cls ∧ e.2.1 = age) with
  | some e => e.2.2
  | none => 0

/-- a is chosen before b; `last` gives the group last chosen among those equal in class and age (DEDUCED, log 7). -/
def chosenBefore (lastOf : Nat → Nat → Nat) (a b : Nat × Group) : Bool :=
  let last := lastOf a.2.cls a.2.age
  if 16 ≤ a.2.passCount || 16 ≤ b.2.passCount then
    if a.2.passCount ≠ b.2.passCount then decide (b.2.passCount < a.2.passCount) else decide (a.2.slot < b.2.slot)
  else if a.2.cls ≠ b.2.cls then decide (b.2.cls < a.2.cls)
  else if a.2.age ≠ b.2.age then decide (a.2.age < b.2.age)
  else if (decide (last < a.1)) != (decide (last < b.1)) then decide (last < a.1)
  else decide (a.1 < b.1)

/-- The first of a list under an order. -/
def firstBy (before : (Nat × Group) → (Nat × Group) → Bool) : List (Nat × Group) → Option (Nat × Group)
  | [] => none
  | e :: rest =>
    match firstBy before rest with
    | none => some e
    | some f => if before f e then some f else some e

/-- The ready active groups of a core. -/
def State.readyOn (s : State) (core : Nat) : List (Nat × Group) :=
  (s.groupsOn core).filter (fun e => s.readyToIssue core e.2)

/-- The group that issues in this clock. -/
def State.chosen (s : State) (core : Nat) : Option Nat :=
  (firstBy (chosenBefore (s.core core).lastOf) (s.readyOn core)).map Prod.fst

/-- The choice of a group moves the round robin of its class and age on, unless its pass count chose it (R216); marks
of classes and ages that no group of the core has are dropped. -/
def State.moveRobin (s : State) (core gid : Nat) : State :=
  match AMap.find gid s.groups with
  | none => s
  | some g =>
    if 16 ≤ g.passCount then s
    else
      let c := s.core core
      let live (e : Nat × Nat × Nat) : Bool :=
        !(e.1 == g.cls && e.2.1 == g.age) && (s.groupsOn core).any (fun x => x.2.cls == e.1 && x.2.age == e.2.1)
      s.setCore core { c with lasts := (g.cls, g.age, gid) :: c.lasts.filter live }

/-- Pass counts after a clock: one more for each ready group not chosen, 0 for the one chosen, which issues (R216). -/
def State.passCounts (s : State) (core : Nat) (won : Option Nat) : State :=
  let robin := match won with
    | some gid => s.moveRobin core gid
    | none => s
  (s.readyOn core).foldl (fun s e =>
    s.adjGroup e.1 (fun g => { g with passCount := if won = some e.1 then 0 else g.passCount + 1 })) robin

/-! ## The sets (R218) -/

/-- A pending group that waits is ready from the first clock in which it no longer does. -/
def State.restamp (s : State) (core : Nat) : State :=
  let t := (s.core core).clk + 1
  (s.groupsOn core).foldl (fun s e =>
    if !e.2.inActive && s.waits e.2 then s.adjGroup e.1 (fun g => { g with since := t, promoted := false }) else s) s

/-- A group ready in the pending set for 4,096 clocks is promoted. -/
def State.promote (s : State) (gid : Nat) : State :=
  match AMap.find gid s.groups with
  | none => s
  | some g => if !g.inActive && !s.waits g && decide (g.since + 4096 ≤ s.clkOf g) then s.setGroup gid { g with promoted := true } else s

/-- An active group whose 512 clocks are over leaves at a word boundary when a pending group is ready. -/
def State.timeout (s : State) (core gid : Nat) : State :=
  match AMap.find gid s.groups, s.bestPending core with
  | some g, some other =>
    if g.inActive && decide (g.since + 512 ≤ (s.core core).clk) then s.swapIn core gid other else s
  | _, _ => s

/-- An active group that waits gives its slot to the first ready pending group. -/
def State.yieldSlot (s : State) (core gid : Nat) : State :=
  match AMap.find gid s.groups, s.bestPending core with
  | some g, some other => if g.inActive && s.waits g then s.swapIn core gid other else s
  | _, _ => s

/-- The lowest free active slot of a core. -/
def State.freeSlot (s : State) (core : Nat) : Option Nat :=
  (List.range 8).find? (fun k => !(s.groupsOn core).any (fun e => e.2.inActive && e.2.slot == k))

/-- Fill free active slots. -/
def State.fillSlots (core : Nat) : Nat → State → State
  | 0, s => s
  | n + 1, s =>
    match s.freeSlot core, s.bestPending core with
    | some k, some gid =>
      let t := (s.core core).clk
      State.fillSlots core n (s.adjGroup gid (fun g => { g with inActive := true, slot := k, since := t, passCount := 0, promoted := false }))
    | _, _ => s

/-- What a core does to its sets before it chooses (DESIGN CHOICE, log 8). -/
def State.arrange (s : State) (core : Nat) : State :=
  let ids (s : State) : List Nat := (s.groupsOn core).map Prod.fst
  let s := s.restamp core
  let s := (ids s).foldl State.promote s
  let s := (ids s).foldl (fun s gid => s.yieldSlot core gid) s
  let s := (ids s).foldl (fun s gid => s.timeout core gid) s
  State.fillSlots core 8 s

/-! ## The rows -/

/-- ACTIVE_SLOT_TIMEOUT (R218). -/
def execActiveSlotTimeout (core slot : Nat) (s : State) : Res :=
  .next (match (s.groupsOn core).find? (fun e => e.2.inActive && e.2.slot == slot) with
  | some e => s.timeout core e.1
  | none => s)

/-- PENDING_PROMOTION (R218, R219). -/
def execPendingPromotion (gid : Nat) (s : State) : Res := .next (s.promote gid)

/-- A clock lost to a replay: the core's clocks count on and nothing issues (R157, R280). -/
def Core.tick (c : Core) : Core := { c with clk := c.clk + 1, cyc := c.cyc + 1#64 }

/-- The core's clock counts on, for its blocks too (R273). -/
def State.tickCore (s : State) (core : Nat) : State :=
  let older (b : Block) : Block := if b.core == core && b.mode != .saved then { b with elapsed := b.elapsed + 1 } else b
  let s : State := { s with blocks := s.blocks.map (fun e => (e.1, older e.2)) }
  s.setCore core (s.core core).tick

/-- SHADOW_LATCH_REPLAY (R280). -/
def execShadowLatchReplay (core : Nat) (s : State) : Res :=
  let s := s.tickCore core
  .next (s.setCore core { s.core core with replays := min (2 ^ 32 - 1) ((s.core core).replays + 1) })

end Sys2Proof.Machine
end

