-- ==== Sys2Proof/Machine/Issue.lean ====
section
/-! DEFINITION. Between fetching a word and executing it: the fetch (R32, R135, R170), the checks of a pair word (R51,
R55, checks 9 to 16 of Table 2.12), the latch that both halves read (R51), the seal (R34). -/

namespace Sys2Proof.Machine

/-! ## Fetch -/

/-- The line of an instruction cache that holds a word, and the cache's shape (Table 14.1): 256 KiB as 256 sets of 8 ways of
128-byte lines (DESIGN CHOICE, log 9). -/
def codeLine (key : Nat) : Nat := key / 16
def codeSets : Nat := 256
def codeWays : Nat := 8

/-- The lines of a word's set that an instruction cache holds. -/
def Cluster.codeLines (k : Cluster) (key : Nat) : List Nat :=
  ((k.icache.map (fun e => codeLine e.1)).eraseDups).filter (fun l => l % codeSets == codeLine key % codeSets)

/-- A fetched word enters its cluster's instruction cache (R282); in a full set a line gives way, which one the spec does not say
(DESIGN CHOICE, log 9). -/
def State.cacheCode (s : State) (cluster key w : Nat) : State :=
  let k := s.cluster cluster
  let lines := k.codeLines key
  let put (c : AMap (BitVec 64)) (s : State) : State := s.setCluster cluster { k with icache := AMap.put key (BitVec.ofNat 64 w) c }
  if lines.contains (codeLine key) || decide (lines.length < codeWays) then put k.icache s
  else
    let (n, s) := s.fresh
    let out := lines.getD ((Config.freeWord n).toNat % lines.length) 0
    put (k.icache.filter (fun e => codeLine e.1 != out)) s

/-- Fetch a group's next word, unless its cluster's instruction cache holds it: a read of its own (R135), to the home slice among
all the partition's (R308, DESIGN CHOICE, log 96). -/
def State.fetch (s : State) (gid : Nat) (g : Group) (b : Block) : State :=
  match s.cachedWord g b with
  | some _ => s
  | none =>
    let ia := b.fetchIa g
    match s.unitAsk (g.actor b gid 0 0 0 0) ia (s.home b.part 0xFF ia) 8 (0, 0) with
    | (some w, s) => (s.dropReads gid 0).cacheCode (b.core / 4) (fetchKey b.part ia) w
    | (none, s) => s

/-- The active groups that could issue have their next words fetched, one after another (R215). -/
def State.fetchNext (s : State) (core : Nat) : State :=
  ((s.groupsOn core).map Prod.fst).foldl (fun s gid =>
    match AMap.find gid s.groups with
    | none => s
    | some g =>
      match s.blockOf g with
      | none => s
      | some b =>
        if s.atIssue core g && decide (g.pc < b.node.textSize) then s.fetch gid g b else s) s

/-! ## Pair words -/

/-- A NOP half. -/
def nopHalfBits (h : Nat) : Bool := bits h 30 24 == 0x7F

/-- Checks 9 to 11 of one half, numbered n, as TRAPINFO: reason, and bit 8 for H1. -/
def halfCheck (n : Nat) (h : Option Instr) : Option Nat :=
  match h with
  | none => some (0x09 + 256 * n)
  | some i => i.check.map (· + 256 * n)

/-- A vector register that a half's code names. -/
def halfVec : HOperand → Option Nat
  | .v n => some n.toNat
  | .s _ | .imm _ | .sp _ | .reserved _ => none

/-- Checks 9 to 15 on a pair word: kind and detail of its trap. -/
def pairCheck (w : Nat) : Option (Nat × Nat) :=
  let b0 := bits w 61 31
  let b1 := bits w 30 0
  let x := Half.ofBits b0
  let y := Half.ofBits b1
  let nop := nopHalfBits b0 || nopHalfBits b1
  let two := vectorHalf b0 && vectorHalf b1
  match halfCheck 0 (decodeHalf b0), halfCheck 1 (decodeHalf b1) with
  | some r, _ => some (0x01, r)
  | none, some r => some (0x01, r)
  | none, none =>
    if !nop && x.d == y.d then some (0x02, 0x11)
    else if two && (halfVec x.d).any (fun a => (halfVec y.d).any (fun b => a % 4 == b % 4)) then some (0x02, 0x12)
    else if two && (halfVec x.s).any (fun a => (halfVec y.s).any (fun b => a % 4 == b % 4)) then some (0x02, 0x13)
    else if !nopHalfBits b0 && !vectorHalf b0 && x.g3 != 7#3 then some (0x02, 0x14)
    else if !nopHalfBits b1 && !vectorHalf b1 && y.g3 != 7#3 then some (0x02, 0x14 + 256)
    else none

/-- Check 16 of a pair word. -/
def pairFits (alloc w : Nat) : Bool := spansOk (16 * alloc) (halfSpans (bits w 61 31) ++ halfSpans (bits w 30 0))

/-- What both halves read, and which half runs. -/
def Group.latched (g : Group) (half : Nat) : Group :=
  match g.latch with
  | some l => { g with latch := some { l with half := half } }
  | none => { g with latch := some { half := half, lanes := g.lanes, v := g.v, q := g.q, s := g.s } }

/-- The word is done: the latch goes and the PC advances. -/
def Group.unlatch (g : Group) : Group := { g.advance with latch := none }

/-! ## After a word -/

/-- The word raised a trap: the group entered its handler, or ended (R34, R181). -/
def trapped (before after : Group) : Bool := (after.intrap && !before.intrap) || after.wait == .ending

/-- A sealed word that issued makes the group wait while operations are out (R34). -/
def State.sealAfter (s : State) (gid : Nat) (before : Group) (w : Nat) : State :=
  match AMap.find gid s.groups with
  | none => s
  | some g => if sealBit w && !trapped before g && !g.ops.isEmpty then s.setGroup gid { g with sealDue := true } else s

/-- A word that has issued holds its pipes (R159); one that raised a trap did not issue (R34, R178). -/
def State.issued (s : State) (core gid : Nat) (before : Group) (w : Nat) : State :=
  match AMap.find gid s.groups with
  | some g => if trapped before g then s else s.setCore core ((s.core core).hold before w)
  | none => s.setCore core ((s.core core).hold before w)

end Sys2Proof.Machine
end

