-- ==== Sys2Proof/Machine/Launch.lean ====
section
/-! DEFINITION. From records to groups and back: the sorting office (R375, R376), the dispatcher (R283, R377), the state
of a group at launch (R58, R154–R156, R201, R202, R224, R289), the end of a group with its completion records (R64,
R176, R204, R229, R291, R381), and SUBMIT_RECORD (R382). -/

namespace Sys2Proof.Machine

/-! ## What a node charges (Table 9.1, R207) -/

/-- Whole granules of n bytes. -/
def granules (n : Nat) : Nat := (n + 2047) / 2048

/-- F of R207, in bytes. -/
def Node.fixed (n : Node) : Nat := n.groups * n.regs * 384 + 2048 * n.reserve + 65536 + 2 * n.xbank

/-- The node's stamp cap. -/
def Node.stampCap (n : Node) : Nat :=
  if n.scratch = 0 then 96 * n.groups else min (96 * n.groups) ((2048 * coreGranules - n.fixed) / n.scratch)

/-- Granules charged for the registers of one group. -/
def Node.groupCharge (n : Node) : Nat := 3 * (n.regs / 16)

/-- Granules charged for the scratch, commit buffer and shadow banks of a block of so many stamps; the banks' bytes are rounded up
on their own (DESIGN CHOICE, log 94). -/
def Node.ownCharge (n : Node) (stamps : Nat) : Nat := granules (n.scratch * stamps) + 32 + granules (2 * n.xbank)

/-- Granules charged for a block of so many groups and stamps. -/
def Node.blockCharge (n : Node) (groups stamps : Nat) : Nat := groups * n.groupCharge + n.ownCharge stamps + n.reserve

/-! ## Packing (R155) -/

/-- The lengths of the runs of one stamp in a list of records. -/
def runLengths : List Nat → List Nat
  | [] => []
  | a :: rest =>
    match rest, runLengths rest with
    | b :: _, n :: l => if a = b then (n + 1) :: l else 1 :: n :: l
    | _, _ => [1]

/-- The quads that quad-whole packing takes. -/
def quadsFor (l : List Rec) : Nat := (runLengths (l.map Rec.stamp)).foldl (fun n k => n + (k + 3) / 4) 0

/-- Split a list into parts of given lengths. -/
def cutRuns {α : Type} : List Nat → List α → List (List α)
  | [], _ => []
  | n :: rest, l => l.take n :: cutRuns rest (l.drop n)

/-- Records with helper lanes after them up to a whole quad. -/
def fillQuads (l : List Rec) : List (Option Rec) := l.map some ++ List.replicate ((4 - l.length % 4) % 4) none

/-- The lanes of a group from lane 0 up: a record, or a helper lane. -/
def packLanes (quad : Bool) (l : List Rec) : List (Option Rec) :=
  if quad then (cutRuns (runLengths (l.map Rec.stamp)) l).flatMap fillQuads else fillQuads l

/-! ## Batches (R375, R376) -/

/-- Two stamps share, as their registrations stand (R185). -/
def State.stampsShare (s : State) (p a b : Nat) : Bool :=
  let hh (x : Nat) : Nat := match AMap.find x (s.part p).stamps with
    | some r => r.hh
    | none => 0
  a == b || (hh a == hh b && hh a != 0)

/-- The protected stamp of a record. -/
def State.protOf (s : State) (p : Nat) (r : Rec) : Option Nat :=
  match AMap.find r.stamp (s.part p).stamps with
  | some e => if e.prot then some r.stamp else none
  | none => none

/-- The first slot that still takes records. -/
def Batch.openSlot (b : Batch) (nd : Node) : Option Nat :=
  (List.range b.slots.length).find? (fun i => !b.closedSlots.contains i && decide ((b.slots.getD i []).length < nd.threshold))

/-- Distinct stamps of the block that holds a slot, with one more. -/
def Batch.stampsWith (b : Batch) (nd : Node) (slot stamp : Nat) : Nat :=
  let blk := slot / nd.groups
  let l := (List.range nd.groups).flatMap (fun g => (b.slots.getD (blk * nd.groups + g) []).map Rec.stamp)
  ((stamp :: l).eraseDups).length

/-- Close slots to further records. -/
def Batch.closeSlots (b : Batch) (l : List Nat) : Batch := { b with closedSlots := b.closedSlots ++ l }

/-- Offer a record to an open batch: where it goes, closing what it may not join (R375). The first part says whether it
joined. -/
def Batch.offer (nd : Node) (r : Rec) : Nat → Batch → Bool × Batch
  | 0, b => (false, b)
  | n + 1, b =>
    match b.openSlot nd with
    | none => (false, b)
    | some i =>
      let blk := i / nd.groups
      let here := b.slots.getD i []
      if nd.stampCap < b.stampsWith nd i r.stamp then
        Batch.offer nd r n (b.closeSlots ((List.range nd.groups).map (fun g => blk * nd.groups + g)))
      else if nd.quadPack && decide (24 < quadsFor (here ++ [r])) then Batch.offer nd r n (b.closeSlots [i])
      else (true, { b with slots := b.slots.set i (here ++ [r]) })

/-- Every slot is full or closed. -/
def Batch.full (b : Batch) (nd : Node) : Bool := (b.openSlot nd).isNone

/-- A batch closes; it is ready (R376, R377). -/
def Batch.close (b : Batch) (now : Nat) : Batch := if b.closed then b else { b with closed := true, readyAt := now }

/-- The record may join the batch, its slots apart. -/
def State.mayJoin (s : State) (p graph node : Nat) (nd : Node) (r : Rec) (b : Batch) : Bool :=
  b.graph == graph && b.node == node && !b.closed && b.cls == r.cls && !r.solo && b.prot == s.protOf p r
    && (nd.xbank == 0 || b.slots.all (fun l => l.all (fun q => s.stampsShare p q.stamp r.stamp)))

/-- Offer the record to the node's open batches in turn. -/
def State.offerAll (s : State) (p graph node : Nat) (nd : Node) (r : Rec) : List (Nat × Batch) → Bool × AMap Batch
  | [] => (false, [])
  | (id, b) :: rest =>
    if !s.mayJoin p graph node nd r b then
      let (ok, l) := s.offerAll p graph node nd r rest
      (ok, (id, b) :: l)
    else
      match Batch.offer nd r (b.slots.length + 1) b with
      | (true, b') => (true, (id, if b'.full nd then b'.close s.netClock else b') :: rest)
      | (false, b') =>
        let (ok, l) := s.offerAll p graph node nd r rest
        (ok, (id, if b'.full nd then b'.close s.netClock else b') :: l)

/-- A batch opened by a record, whose arrival in its sack begins the window (R376); it closes at once when the record is solo, fills
it, or has waited out the window. -/
def State.openBatch (s : State) (p graph node : Nat) (nd : Node) (r : Rec) : Batch :=
  let b : Batch :=
    { graph := graph, node := node, cls := r.cls, prot := s.protOf p r,
      slots := (List.replicate (nd.blocks * nd.groups) []).set 0 [r], closedSlots := [], opened := r.arrival,
      closed := false, readyAt := 0, relaunch := 0, killed := false, postmark := 0#8, avoid := none }
  if r.solo || b.full nd || (nd.window ≠ 0 && decide (r.arrival + nd.window ≤ s.netClock)) then b.close s.netClock else b

/-- The window of an open batch, 0 for none. -/
def Partition.windowOf (q : Partition) (b : Batch) : Nat :=
  match AMap.find b.graph q.graphs with
  | some gr => ((gr.nodes[b.node]?).map Node.window).getD 0
  | none => 0

/-- A batch whose window is over has closed when it ended (R376). -/
def Partition.expire (q : Partition) (now : Nat) (b : Batch) : Batch :=
  let window := q.windowOf b
  if window ≠ 0 && decide (b.opened + window ≤ now) then b.close (b.opened + window) else b

/-- The partition with its expired batches closed. -/
def Partition.expired (q : Partition) (now : Nat) : Partition :=
  { q with batches := q.batches.map (fun e => (e.1, q.expire now e.2)) }

/-- The ids of a node's open batches, oldest first. -/
def Partition.openOf (p : Partition) (graph node : Nat) : List Nat :=
  (p.batches.filter (fun e => e.2.graph == graph && e.2.node == node && !e.2.closed)).map Prod.fst

/-- RECORD_ARRIVAL (R375, R376): the sorting office takes the first record of a sack; opening a ninth batch closes the oldest, also
when the new one closes at once. -/
def execRecordArrival (p graph node : Nat) (s : State) : Res :=
  let q := (s.part p).expired s.netClock
  .next (match AMap.find graph q.graphs with
  | none => s
  | some gr =>
    match AMap.find node gr.sacks, gr.nodes[node]? with
    | some (r :: rest), some nd =>
      let q := { q with graphs := AMap.put graph { gr with sacks := AMap.put node rest gr.sacks } q.graphs }
      match s.offerAll p graph node nd r q.batches with
      | (true, l) => s.setPart p { q with batches := l }
      | (false, l) =>
        let q := { q with batches := l }
        let b := s.openBatch p graph node nd r
        let oldest := q.openOf graph node
        let l := if 8 ≤ oldest.length then AMap.adj (oldest.headD 0) (fun b => b.close s.netClock) q.batches else q.batches
        let s := s.setPart p { q with batches := AMap.put s.nextId b l }
        { s with nextId := s.nextId + 1 }
    | _, _ => s)

/-- BATCH_WINDOW_CLOSE (R376). -/
def execBatchWindowClose (p batch : Nat) (s : State) : Res :=
  let q := s.part p
  .next (match AMap.find batch q.batches with
  | none => s
  | some b => s.setPart p { q with batches := AMap.put batch (q.expire s.netClock b) q.batches })

/-! ## Admission (R206, R283, R295, R377) -/

/-- The blocks of a batch as formed: those that hold a record, each as its groups that hold one (R376). -/
def Batch.formed (b : Batch) (nd : Node) : List (List (List Rec)) :=
  let blk (i : Nat) : List (List Rec) := ((List.range nd.groups).map (fun g => b.slots.getD (i * nd.groups + g) [])).filter (fun l => !l.isEmpty)
  ((List.range nd.blocks).map blk).filter (fun l => !l.isEmpty)

/-- The distinct stamps of a block in window order (R201). -/
def windowStamps (blk : List (List Rec)) : List Nat := ((blk.flatten).map Rec.stamp).eraseDups

def Node.chargeOf (nd : Node) (blk : List (List Rec)) : Nat := nd.blockCharge blk.length (windowStamps blk).length

/-- Free resident places of a core. -/
def State.freePlaces (s : State) (core : Nat) : List Nat :=
  (List.range 32).filter (fun p => !(s.groupsOn core).any (fun e => e.2.place == p))

/-- A core can admit a block of so many granules and groups (R206). -/
def State.coreAdmits (s : State) (p core charge groups : Nat) : Bool :=
  s.hasCore p core && !(s.core core).fenced && s.room core charge
    && decide (groups ≤ (s.freePlaces core).length)

/-- Partitions that hold a cluster share it by time (R365, R368). -/
def State.sharedCluster (s : State) (cluster : Nat) : Bool :=
  decide (2 ≤ ((List.range 8).filter (fun p => (s.part p).valid && (s.part p).holds 4 cluster)).length)

/-- The blocks resident on a cluster. -/
def State.residentIn (s : State) (cluster : Nat) : List (Nat × Block) :=
  s.blocks.filter (fun e => e.2.core / 4 == cluster && e.2.mode != .saved)

/-- A cluster serves the partition: a shared one serves one partition at a time (R368), from its first launch on that one's. -/
def State.turnOf (s : State) (p cluster : Nat) : Bool :=
  !s.sharedCluster cluster || match (s.cluster cluster).turn with
    | some q => q == p
    | none => (s.residentIn cluster).all (fun e => e.2.part == p)

/-- The cluster's tenure, turn and clear controller let the partition's block in. -/
def State.clusterAdmits (s : State) (p cluster : Nat) (prot : Option Nat) : Bool :=
  let k := s.cluster cluster
  k.changing.isNone && k.tenure == prot.map (fun x => 65536 * p + x) && s.turnOf p cluster

/-- The first launch on a shared cluster begins its partition's turn. -/
def State.takeTurn (s : State) (p cluster : Nat) : State :=
  let k := s.cluster cluster
  if s.sharedCluster cluster && k.turn.isNone then s.setCluster cluster { k with turn := some p, turnStart := s.netClock } else s

/-- Distinct cores for some blocks: the first block takes the lowest core that admits it and leaves cores for the rest, and
so on (R283, R377). -/
def assignCores {α : Type} (admits : Nat → α → Bool) : List α → List Nat → Option (List Nat)
  | [], _ => some []
  | b :: rest, cores =>
    cores.findSome? (fun c => if admits c b then (assignCores admits rest (cores.erase c)).map (c :: ·) else none)

/-- The cores of a cluster. -/
def clusterCores (cluster : Nat) : List Nat := (List.range 4).map (· + 4 * cluster)

/-- The cores of a cluster that a partition can use: not left out of the numbering, not fenced off. -/
def State.usableCores (s : State) (p cluster : Nat) : List Nat :=
  (clusterCores cluster).filter (fun c => s.hasCore p c && !(s.core c).fenced)

/-- The cores that take the blocks of a cohort; a cluster with fewer than the node's `blocks=` is not offered it (R283,
R294). -/
def State.coresFor (s : State) (p cluster : Nat) (nd : Node) (blks : List (List (List Rec))) : Option (List Nat) :=
  let cores := s.usableCores p cluster
  if cores.length < nd.blocks then none
  else assignCores (fun c b => s.coreAdmits p c (nd.chargeOf b) b.length) blks cores

/-- The partition's clusters of a die, rising. -/
def State.clustersOn (s : State) (p d : Nat) : List Nat :=
  ((List.range 12).map (· + 12 * d)).filter (fun c => (s.part p).holds 4 c)

def State.clustersOf (s : State) (p : Nat) : List Nat := (List.range 96).filter (fun c => (s.part p).holds 4 c)

/-- Free granules of a cluster, summed over the cores that admit blocks (R206). -/
def State.freeGranules (s : State) (p cluster : Nat) : Nat :=
  (s.usableCores p cluster).foldl (fun n c => n + (coreGranules - s.charged c)) 0

/-- The cluster of a list with most free granules, the lowest on a tie, among those that can admit the cohort. -/
def State.bestCluster (s : State) (p : Nat) (nd : Node) (b : Batch) : List Nat → Option (Nat × List Nat)
  | [] => none
  | c :: rest =>
    let here := if s.clusterAdmits p c b.prot && b.avoid != some c then s.coresFor p c nd (b.formed nd) else none
    match here, s.bestCluster p nd b rest with
    | none, r => r
    | some cs, none => some (c, cs)
    | some cs, some (d, ds) => if s.freeGranules p c < s.freeGranules p d then some (d, ds) else some (c, cs)

/-- The die of a node's sack (R374). -/
def State.sackDie (s : State) (p node : Nat) : Nat := (s.dies p).getD (node % max 1 (s.dies p).length) 0

/-- Where a batch can go: the sack's own die first (R377). -/
def State.placeFor (s : State) (p : Nat) (nd : Node) (b : Batch) : Option (Nat × List Nat) :=
  match s.bestCluster p nd b (s.clustersOn p (s.sackDie p b.node)) with
  | some r => some r
  | none => s.bestCluster p nd b (s.clustersOf p)

/-- The arrival of a batch's oldest record. -/
def Batch.age (b : Batch) : Nat :=
  match b.slots.flatten with
  | [] => b.opened
  | r :: l => l.foldl (fun n q => min n q.arrival) r.arrival

/-- a is ready before b: class, then age, then id. -/
def readyBefore (a b : Nat × Batch) : Bool :=
  if a.2.cls ≠ b.2.cls then decide (b.2.cls < a.2.cls)
  else if a.2.age ≠ b.2.age then decide (a.2.age < b.2.age) else decide (a.1 < b.1)

def insertReady (x : Nat × Batch) : List (Nat × Batch) → List (Nat × Batch)
  | [] => [x]
  | y :: rest => if readyBefore x y then x :: y :: rest else y :: insertReady x rest

/-- Two batches of one node and class. -/
def Batch.alike (a b : Batch) : Bool := a.graph == b.graph && a.node == b.node && a.cls == b.cls

/-- A killed cohort's records go before the first ready batch of their node and class (R277, DEDUCED, log 78). -/
def insertKilled (x : Nat × Batch) (l : List (Nat × Batch)) : List (Nat × Batch) :=
  if l.any (fun y => x.2.alike y.2) then
    l.takeWhile (fun y => !x.2.alike y.2) ++ x :: l.dropWhile (fun y => !x.2.alike y.2)
  else insertReady x l

/-- The ready batches of a partition in order (R277, R377). -/
def Partition.ready (p : Partition) : List (Nat × Batch) :=
  let l := p.batches.filter (fun e => e.2.closed)
  (l.filter (fun e => e.2.killed)).foldl (fun l e => insertKilled e l)
    ((l.filter (fun e => !e.2.killed)).foldl (fun l e => insertReady e l) [])

/-! ## Launch -/

/-- A lane at launch (R58, R184). -/
def State.newLane (s : State) (p : Nat) (r : Option Rec) : Lane :=
  match r with
  | some r =>
    let hh := match AMap.find r.stamp (s.part p).stamps with
      | some e => e.hh
      | none => 0
    { stamp := BitVec.ofNat 16 r.stamp, hh := BitVec.ofNat 8 hh, help := false, lstat := 0#32, heldF := 0#5, parked := false }
  | none => { stamp := 0#16, hh := 0#8, help := true, lstat := statHELP, heldF := 0#5, parked := false }

/-- The non-zero words of a record, by register. -/
def recWords (payload : List Byte) : List (Nat × BitVec 32) :=
  ((List.range 16).map (fun r => (r, BitVec.ofNat 32 (leVal ((payload.drop (4 * r)).take 4))))).filter (fun e => e.2 != 0#32)

/-- The registers that records fill (R58). -/
def launchRegs : Nat → List (Option Rec) → Sparse (BitVec 32)
  | _, [] => []
  | j, none :: rest => launchRegs (j + 1) rest
  | j, some r :: rest => (recWords r.payload).map (fun e => (256 * j + e.1, e.2)) ++ launchRegs (j + 1) rest

/-- The mask words of a roster of n lanes from lane 0 (R156). -/
def launchMasks (n : Nat) : Sparse (BitVec 64) :=
  ((List.range 3).map (fun w => (61 + w, BitVec.ofNat 64 ((2 ^ n - 1) / 2 ^ (32 * w) % 2 ^ 32)))).filter (fun e => e.2 != 0#64)

/-- The smallest latency bound of records, 0 for none (R202). -/
def minBound (l : List Rec) : Nat :=
  (l.filter (fun r => r.bound != 0)).foldl (fun n r => if n = 0 then r.bound else min n r.bound) 0

/-- An age carried to a core's clock: the network's ticks are half as many arithmetic clocks (R377). The offset keeps
it a natural number; only its order matters (DEDUCED, log 7). -/
def coreAge (clk now arrival : Nat) : Nat := 2 ^ 64 + clk - (now - arrival) / 2

/-- A group at launch (R154–R156, Tables 7.4 and 7.5). -/
def State.newGroup (s : State) (p bid core : Nat) (nd : Node) (idx place : Nat) (cls : Cls) (recs : List Rec)
    (grans : List Nat) : Group :=
  let ls := packLanes nd.quadPack recs
  let oldest := recs.foldl (fun n r => min n r.arrival) s.netClock
  { block := bid, idx := idx, lanes := (List.range ls.length).zip (ls.map (s.newLane p)), v := launchRegs 0 ls, q := [],
    s := launchMasks ls.length, pc := 0, alloc := nd.regs / 16, sdov := false, sdz := false, strict := nd.strict,
    split := false, grid := false, mtx := false, intrap := false, trapkind := 0#8, trappc := 0#64, trapinfo := 0#64,
    reccnt := recs.length, fpxmask := 0x1F#5, tensor := 0, cls := cls,
    age := coreAge (s.core core).clk s.netClock oldest, bound := minBound recs, wait := .ready, sealDue := false,
    ops := [], arrivals := [], arrNum := [], cohNum := 0, atomSeq := 0#16, efull := [], courses := [],
    parkedWhole := false, copying := none, place := place, inActive := false, slot := 0, passCount := 0,
    since := (s.core core).clk, promoted := false, notBefore := 0, 
    grans := grans.map (fun x => (x, false)), fetchPark := none, commitTo := 0, seen := [], ended := none, latch := none }

/-- A block at launch (R204, R224). -/
def newBlock (p : Nat) (b : Batch) (nd : Node) (core idx cohort : Nat) (recs : List (List Rec)) (grans : List Nat) :
    Block :=
  { part := p, graph := b.graph, nodeIdx := b.node, node := nd, core := core, idx := idx, cohort := cohort,
    windows := windowStamps recs, scratch := [],
    points := allAt { phase := 0, expect := recs.length, count := 0 } 24, buffer := [], bufUsed := 0, token := none, tokenKept := false,
    front := 0, banks := [], committed := false, postmark := b.postmark, relaunches := b.relaunch, elapsed := 0,
    mode := .running, replayDue := false, records := recs, counted := recs.length,
    grans := grans.take (nd.ownCharge (windowStamps recs).length), spare := grans.drop (nd.ownCharge (windowStamps recs).length),
    savedCells := [], savedValid := [], savedAq := aqClosed, drainL := 0,
    asked := [] }

/-- Launch one block on a core: its groups take free places in order; they start as after an acquire of scope .dev, so the
core keeps no older lines (R336). -/
def State.launchBlock (s : State) (p : Nat) (b : Batch) (nd : Node) (cohort idx core : Nat) (recs : List (List Rec)) : State :=
  let bid := s.nextId
  let places := s.freePlaces core
  let grans := s.takeGrans core (nd.chargeOf recs)
  let regs := recs.length * nd.groupCharge
  let s := s.setCore core (s.core core).l1Clear
  let s := { (s.setBlock bid (newBlock p b nd core idx cohort recs (grans.drop regs))) with nextId := bid + 1 + recs.length }
  ((List.range recs.length).zip (recs.zip places)).foldl (fun s e =>
    let mine := (grans.drop (e.1 * nd.groupCharge)).take nd.groupCharge
    s.setGroup (bid + 1 + e.1) (s.newGroup p bid core nd e.1 e.2.2 b.cls e.2.1 mine)) s

/-- The whole batch is launched as one cohort (R283). -/
def State.launch (s : State) (p id : Nat) (b : Batch) (nd : Node) (cluster : Nat) (cores : List Nat) : State :=
  let s := s.takeTurn p cluster
  let q := s.part p
  let s := s.setPart p { q with batches := AMap.del id q.batches }
  let cid := s.nextId
  let s := { s with nextId := cid + 1 }
  let blks := b.formed nd
  let s := ((List.range blks.length).zip (cores.zip blks)).foldl (fun s e => s.launchBlock p b nd cid e.1 e.2.1 e.2.2) s
  let mine := (s.blocks.filter (fun e => e.2.cohort == cid)).map Prod.fst
  s.setCohort cid { part := p, cluster := cluster, blocks := mine, phase := 0,
                    expect := blks.foldl (fun n b => n + b.length) 0, count := 0, sends := [] }

/-- A batch's node. -/
def State.batchNode (s : State) (p : Nat) (b : Batch) : Option Node :=
  match AMap.find b.graph (s.part p).graphs with
  | none => none
  | some gr => gr.nodes[b.node]?

/-- The first ready batch that some cluster can admit, launched; none passes one ready for 100 µs (R377). -/
def State.dispatch (s : State) (p : Nat) : List (Nat × Batch) → Option State
  | [] => none
  | (id, b) :: rest =>
    match s.batchNode p b with
    | none => none
    | some nd =>
      match s.placeFor p nd b with
      | some (cluster, cores) => some (s.launch p id b nd cluster cores)
      | none => if b.readyAt + 250000 ≤ s.netClock then none else s.dispatch p rest

/-! ## Completion records (R381, Table 20.9) -/

/-- The 32 bytes of a completion record. -/
def completionRecord (serial logSize : Nat) (channel : Bool) (lstat stamp node status trapkind lanes efull bytes aux : Nat) : Nat :=
  let phase := if serial / 2 ^ logSize % 2 = 0 then 1 else 0
  phase + 2 * channel.toNat + 4 * (serial % 2 ^ 30) + 2 ^ 32 * (lstat % 2 ^ 16) + 2 ^ 48 * stamp + 2 ^ 64 * node
    + 2 ^ 80 * status + 2 ^ 88 * trapkind + 2 ^ 96 * lanes + 2 ^ 128 * efull + 2 ^ 160 * bytes + 2 ^ 192 * aux

/-- A request of the device itself, under no stamp: it enters at its home slice, as the host's do (DESIGN CHOICE, log 10). -/
def State.deviceReq (s : State) (use : DevUse) (part ia : Nat) (ask : Ask) : Req :=
  { ask := ask, src := .device use, part := part, ppm := 0#8, ia := ia, home := s.home part 0xFF ia, cls := 0, stamp := 0, tensor := 0,
    block := 0, postmark := 0#8, seq := 0#16, core := noCore, hops := [], st := .arrived, since := s.netClock, arrival := 0 }

/-- The device writes bytes at an IA, line by line. Where a part meets a fault its record is made, and the others are written (R353,
DESIGN CHOICE, log 25). -/
def State.deviceStore (use : DevUse) (p : Nat) (l : List Byte) (ia : Nat) (s : State) : State :=
  (linePieces ia l.length).foldl (fun s e =>
    s.arrive (s.deviceReq use p e.1 (.write e.2.2 (leVal ((l.drop e.2.1).take e.2.2)) true))) s

/-- Requests of the device of some use are still under way in a partition. -/
def State.deviceBusy (s : State) (p : Nat) (use : DevUse) : Bool := s.reqs.any (fun e => e.2.part == p && e.2.src == .device use)

/-- Write a stamp's next completion record; `f` builds it from SERIAL and the ring's size. -/
def State.complete (s : State) (part stamp : Nat) (f : Nat → Nat → Nat) : State :=
  match AMap.find stamp (s.part part).stamps with
  | none => s
  | some r =>
    let s := State.deviceStore (.record stamp) part (leBytes 32 (f r.serial r.logSize)) (r.ring + 32 * (r.serial % 2 ^ r.logSize)) s
    let q := s.part part
    s.setPart part { q with stamps := AMap.put stamp { r with serial := (r.serial + 1) % 2 ^ 30 } q.stamps }

/-- Lane status bits that END reports (R64). -/
def endBits (x : BitVec 32) : BitVec 32 := x &&& 0x1F0F#32

/-- One stamp's record of a group's end, which waits for the stores that it covers (R381). -/
def State.reportOf (s : State) (gid : Nat) (g : Group) (b : Block) (status stamp : Nat) : Report :=
  let mine := (AMap.vals g.lanes).filter (fun l => !l.help && l.stamp.toNat == stamp)
  let trap := status == 1
  { gid := gid, part := b.part, block := g.block, upto := s.nextId, stamp := stamp, node := b.nodeIdx, status := status,
    lstat := (mine.foldl (fun x l => x ||| endBits l.lstat) 0#32).toNat, trapkind := if trap then g.trapkind.toNat else 0,
    lanes := mine.length, efull := Sparse.get 0 g.efull stamp % 2 ^ 32, aux := if trap then g.trapinfo.toNat else 0 }

/-- A record is written to its stamp's ring. -/
def State.writeReport (s : State) (r : Report) : State :=
  s.complete r.part r.stamp (fun serial logSize =>
    completionRecord serial logSize false r.lstat r.stamp r.node r.status r.trapkind r.lanes r.efull 0 r.aux)

/-- A store that a record covers is not yet visible at .pod (R381, R416): a packet of the block's commits so far. -/
def State.reportWaits (s : State) (r : Report) : Bool :=
  s.reqs.any (fun e => decide (e.1 < r.upto) && e.2.block == r.block && e.2.outTo 5)

/-- Some waiting records are written, in their order. -/
def State.writeWhere (s : State) (p : Report → Bool) : State :=
  (s.reports.filter p).foldl State.writeReport { s with reports := s.reports.filter (fun r => !p r) }

/-- The records of a group that has ended are written once its stores are visible at .pod (R381). -/
def State.writeReports (s : State) (gid : Nat) : State := s.writeWhere (fun r => r.gid == gid && !s.reportWaits r)

/-- The stamps of a group's record lanes, by lowest lane. -/
def Group.stamps (g : Group) : List Nat := (((AMap.vals g.lanes).filter (fun l => !l.help)).map (fun l => l.stamp.toNat)).eraseDups

/-! ## The end of a group -/

/-- Every point's count falls by one, and phases that are met complete (R229). -/
def Block.endCount (b : Block) : Block :=
  { b with points := b.points.map (fun e => (e.1, { e.2 with expect := max (e.2.expect - 1) 1 }.settle)), counted := b.counted - 1 }

/-- A cohort whose blocks hold no group any more leaves its cores (R204, R283). -/
def State.retireCohort (s : State) (cid : Nat) : State :=
  match AMap.find cid s.cohorts with
  | none => s
  | some c =>
    if s.groups.any (fun e => c.blocks.contains e.2.block) then s
    else { s with blocks := s.blocks.filter (fun e => !c.blocks.contains e.1), cohorts := AMap.del cid s.cohorts }

/-- An access that a group made for others too, its shares: another group of the block goes on with it (R271, DEDUCED, log
61). -/
def State.bequeath (s : State) (gid : Nat) (g : Group) : State :=
  (g.ops.filter (fun o => o.kind.whole && !o.complete && !o.lanes.isEmpty)).foldl (fun s o =>
    match s.groups.find? (fun e => e.1 != gid && e.2.block == g.block && e.2.ops.any (fun p => p.id == o.id && p.follows)) with
    | some e => (s.adjGroup e.1 (fun x => x.adjOp o.id (fun p => { p with lanes := o.lanes, progress := o.progress }))).handOver
        gid o.id e.1
    | none => s) s

/-- Data that came for units of a group go with it. -/
def State.dropUnits (s : State) (gid : Nat) : State :=
  { s with reqs := s.reqs.filter (fun e => match e.2.src, e.2.st with
      | .engine x _, .unitData _ => x != gid
      | _, _ => true) }

/-- A group leaves its block: its place and registers are free, the token too, and its counts fall (R204, R213, R229,
R230, R291). -/
def State.removeGroup (s : State) (gid : Nat) : State :=
  match AMap.find gid s.groups with
  | none => s
  | some g =>
    let s := ((s.bequeath gid g).release gid).dropUnits gid
    let s := { s with groups := AMap.del gid s.groups, cur := if s.cur = some gid then none else s.cur }
    match AMap.find g.block s.blocks with
    | none => s
    | some b =>
      let b : Block := { b.gaveBack g.grans with token := if b.token = some gid then none else b.token }
      if g.split then (s.setBlock g.block b).retireCohort b.cohort
      else
        let s := s.setBlock g.block b.endCount
        let s := match AMap.find b.cohort s.cohorts with
          | none => s
          | some c => (s.setCohort b.cohort { c with expect := max (c.expect - 1) 1 }).settleCohort b.cohort
        s.retireCohort b.cohort

/-- An arrival of the group could still be registered (R226). -/
def Group.arrivalDue (g : Group) (b : Block) : Bool := g.arrivals.any (fun a => (b.point a.1).phase == a.2.1)

/-- A group ends: its stamps are to be told how, as soon as its stores allow, and it goes (R204, R381). -/
def State.finishGroup (s : State) (gid status : Nat) : State :=
  match AMap.find gid s.groups with
  | none => s
  | some g =>
    match s.blockOf g with
    | none => s
    | some b =>
      let l := g.stamps.map (s.reportOf gid g b status)
      (State.removeGroup { s with reports := s.reports ++ l } gid).writeReports gid

/-- GROUP_END (R176, R204, R381): the operations are done, the sends that its END committed have landed, which a phase that its end
completes holds (R290, R291), and the group ends; one that has ended already has its records written once its stores stand at .pod
(DESIGN CHOICE, log 15). An arrival that could be registered is awaited; one held back for a later
phase goes with the group (DESIGN CHOICE, log 72). -/
def execGroupEnd (gid : Nat) (s : State) : Res :=
  .next (match AMap.find gid s.groups with
  | none => s.writeReports gid
  | some g =>
    match s.blockOf g with
    | none => s
    | some b =>
      if b.mode == .saved then s
      else match g.ended with
        | some status => if s.sendsOut b s.nextId then s else s.finishGroup gid status
        | none =>
          if s.sendsOut b g.commitTo || g.wait != .ending || b.mode == .saving || !g.ops.isEmpty || g.copying.isSome || !g.courses.isEmpty || g.arrivalDue b then s
          else s.finishGroup gid (if g.intrap then 1 else 0))

end Sys2Proof.Machine
end

