-- ==== Sys2Proof/Machine/Preempt.lean ====
section
/-! DEFINITION. Pre-emption and loss: the estimate and the choice (R273, R274, R292), save and resume (R275, R276),
flush (R277), consumed errors (R279, R293), time shares and tenures (R295, R296, R368, R378), fenced cores (R294), and
the dispatcher's row (R377, R378). -/

namespace Sys2Proof.Machine

/-! ## Cohorts -/

/-- The ids of the blocks of a block's cohort. -/
def State.cohortBlocks (s : State) (b : Block) : List Nat :=
  match AMap.find b.cohort s.cohorts with
  | some c => c.blocks
  | none => []

def State.blockList (s : State) (l : List Nat) : List (Nat × Block) := s.blocks.filter (fun e => l.contains e.1)

/-- The groups of some blocks. -/
def State.groupsIn (s : State) (l : List Nat) : List (Nat × Group) := s.groups.filter (fun e => l.contains e.2.block)

/-! ## The estimate (Table 13.2) -/

/-- An operation that a save turns into a replay packet (R275): stores and atomics that have been sent are awaited. -/
def Op.packet (o : Op) : Bool :=
  !o.complete && o.lanes.any (fun r => match r.st with
    | .waiting | .faulted _ | .parked _ | .held => true
    | .sent => o.kind.loads
    | .answered | .done => false)

/-- The save volume V of a block, in bytes. -/
def State.saveVolume (s : State) (bid : Nat) (b : Block) : Nat :=
  let gs := (s.groupsOf bid).map Prod.snd
  let regs := gs.foldl (fun n g => n + 384 * 16 * g.alloc + 256) 0
  let grid := if gs.any Group.grid then 36864 + 4096 * (s.core b.core).valid.length else 0
  let packets := gs.foldl (fun n g => n + 64 * (g.ops.filter Op.packet).length) 0
  regs + 2048 * granules (b.node.scratch * b.windows.length) + grid + packets + 2048 * granules (2 * b.node.xbank)

/-- A mode's completion T and cost Q. -/
structure Estimate where
  t : Nat
  q : Nat
  deriving DecidableEq, Repr

def drainOf (b : Block) : Nat :=
  let e := b.elapsed
  let c := b.node.cycles
  if e < c then c - e else (c + 3) / 4

def drainEst (l : List (Nat × Block)) : Estimate :=
  { t := l.foldl (fun n e => max n (drainOf e.2)) 0, q := l.foldl (fun n e => n + drainOf e.2) 0 }

def State.saveEst (s : State) (l : List (Nat × Block)) : Estimate :=
  let t (e : Nat × Block) : Nat := 256 + (s.saveVolume e.1 e.2 + 127) / 128
  { t := l.foldl (fun n e => max n (t e)) 0, q := l.foldl (fun n e => n + 2 * t e) 0 }

def flushEst (l : List (Nat × Block)) : Estimate := { t := 64, q := l.foldl (fun n e => n + 64 + e.2.elapsed) 0 }

/-- What a pre-emption does. -/
inductive Mode where
  | drain | save | flush
  deriving DecidableEq, Repr

/-- The first of least key, in the order given. -/
def leastBy (key : Estimate → Nat) : List (Mode × Estimate) → Option (Mode × Estimate)
  | [] => none
  | e :: rest =>
    match leastBy key rest with
    | none => some e
    | some f => if key e.2 ≤ key f.2 then some e else some f

/-- The choice (R274): the least Q among the legal modes that fit the bound, else the least T. -/
def chooseMode (modes : List (Mode × Estimate)) (bound : Nat) : Option Mode :=
  match modes.filter (fun e => decide (e.2.t ≤ bound)) with
  | [] => (leastBy Estimate.t modes).map Prod.fst
  | fit => (leastBy Estimate.q fit).map Prod.fst

/-- A COLL of the blocks is outstanding. -/
def State.collOut (s : State) (blocks : List Nat) : Bool :=
  (s.groupsIn blocks).any (fun e => e.2.ops.any (fun o => !o.complete && match o.kind with
    | .coll _ _ _ _ => true
    | _ => false))

/-- The legal modes of a cohort's blocks with their estimates (R292, R411). -/
def State.modesOf (s : State) (l : List (Nat × Block)) : List (Mode × Estimate) :=
  if s.collOut (l.map Prod.fst) then [(.drain, drainEst l)]
  else [(.drain, drainEst l), (.save, s.saveEst l)] ++ (if l.any (fun e => e.2.committed) then [] else [(.flush, flushEst l)])

/-! ## Flush (R277) -/

/-- A group and what it holds go away without a report. -/
def State.dropGroup (s : State) (gid : Nat) : State :=
  let s := (s.release gid).dropUnits gid
  { s with groups := AMap.del gid s.groups, cur := if s.cur = some gid then none else s.cur }

/-- A cohort and its groups go away. -/
def State.dropCohort (s : State) (cid : Nat) (blocks : List Nat) : State :=
  let s := ((s.groupsIn blocks).map Prod.fst).foldl State.dropGroup s
  { s with blocks := s.blocks.filter (fun e => !blocks.contains e.1), cohorts := AMap.del cid s.cohorts }

/-- Group slots of a block, padded with empty ones. -/
def padSlots (n : Nat) (l : List (List Rec)) : List (List Rec) := l ++ List.replicate (n - l.length) []

/-- The records of a killed cohort stand ready again, with a raised postmark (R277). -/
def State.relaunchBatch (s : State) (l : List (Nat × Block)) (errors : Nat) (avoid : Option Nat) : Option (Nat × Batch) :=
  match l with
  | [] => none
  | (_, b) :: _ =>
    let recs := l.flatMap (fun e => (e.2.records.flatten))
    let first := recs.head?
    some (b.part,
      { graph := b.graph, node := b.nodeIdx, cls := (first.map Rec.cls).getD 0, prot := first.bind (s.protOf b.part),
        slots := l.flatMap (fun e => padSlots b.node.groups e.2.records), closedSlots := [], opened := s.netClock,
        closed := true, readyAt := s.netClock, relaunch := b.relaunches + errors, killed := true, postmark := b.postmark + 1#8, avoid := avoid })

/-- Kill a cohort and make its records ready again. -/
def State.kill (s : State) (cid : Nat) (blocks : List Nat) (errors : Nat) (avoid : Option Nat) : State :=
  match s.relaunchBatch (s.blockList blocks) errors avoid with
  | none => s
  | some (p, batch) =>
    let s := s.dropCohort cid blocks
    let q := s.part p
    let s := s.setPart p { q with batches := AMap.put s.nextId batch q.batches }
    { s with nextId := s.nextId + 1 }

/-! ## Save (R275) -/

def State.setMode (s : State) (l : List Nat) (m : BlockMode) (bound : Nat) : State :=
  l.foldl (fun s b => s.adjBlock b (fun b => { b with mode := m, drainL := bound })) s

/-- The groups of some blocks that are to be saved answer for every write that their cores have committed and that is not yet
performed: a group may have read it in its core's L1, and is to find it at home where it is resumed (R323, R328, DEDUCED, log
102). -/
def State.noteCores (s : State) (blocks : List Nat) : State :=
  (s.groupsIn blocks).foldl (fun s e => match s.blockOf e.2 with
    | none => s
    | some b => s.adjGroup e.1 (fun g =>
        { g with seen := g.seen ++ (s.reqs.filter (fun r => r.2.core == b.core && r.2.outTo 4)).map Prod.fst })) s

/-- A write that a group of the blocks has read, or may have read, at its core is not yet performed. -/
def State.seenOut (s : State) (blocks : List Nat) : Bool :=
  (s.groupsIn blocks).any (fun e => e.2.seen.any (fun k => (AMap.find k s.reqs).any (fun r => r.outTo 4)))

/-- The estimate and the choice for a block and its cohort (R274, R292). -/
def State.preemptNow (s : State) (bid bound : Nat) : State :=
  match AMap.find bid s.blocks with
  | none => s
  | some b =>
    let blocks := s.cohortBlocks b
    let l := s.blockList blocks
    let again := b.mode == .draining && decide (bound < b.drainL)
    if b.mode != .running && !again then s
    else match chooseMode (s.modesOf l) bound with
      | some .drain => s.setMode blocks .draining bound
      | some .save => (blocks.foldl (fun s b => s.commit b) (s.setMode blocks .saving bound)).noteCores blocks
      | some .flush => s.kill b.cohort blocks 0 none
      | none => s

/-- A split of one of the blocks' groups runs, or comes before the next word (R281). -/
def State.splitDue (s : State) (blocks : List Nat) : Bool := (s.groupsIn blocks).any (fun e => e.2.splitDue)

/-- A pre-emption request: its estimate waits for a split to complete (R281). -/
def State.preempt (s : State) (bid bound : Nat) : State :=
  match AMap.find bid s.blocks with
  | none => s
  | some b =>
    if b.asked.isEmpty && !s.splitDue (s.cohortBlocks b) then s.preemptNow bid bound
    else s.setBlock bid { b with asked := b.asked ++ [bound] }

/-- The requests that waited on a core for splits now complete. -/
def State.serveAsked (s : State) (core : Nat) : State :=
  (s.blocks.filter (fun e => e.2.core == core && !e.2.asked.isEmpty && !s.splitDue (s.cohortBlocks e.2))).foldl
    (fun s e => e.2.asked.foldl (fun s l => s.preemptNow e.1 l) (s.adjBlock e.1 (fun b => { b with asked := [] }))) s

/-- PREEMPTION_REQUEST (R273, R274). -/
def execPreemptionRequest (block bound : Nat) (s : State) : Res := .next (s.preempt block bound)

/-- A store or atomic of the blocks that has been sent and not acknowledged. -/
def State.writesOut (s : State) (blocks : List Nat) : Bool := s.reqs.any (fun e => blocks.contains e.2.block && e.2.ask.isWrite)

/-- Loads in flight go back to being unsent; a fault that has arrived parks its lanes in the packet (R275, R281). -/
def Op.toPacket (o : Op) : Op :=
  { o with lanes := o.lanes.map (fun r => if r.st == .sent then { r with st := .waiting } else r) }

def Group.toPackets (g : Group) : Group :=
  let g := (g.ops.map Op.id).foldl Group.park g
  { g with ops := g.ops.map Op.toPacket, inActive := false, promoted := false }

/-- The grid and accumulator store of a block's holder are saved and its reservation released (R238). -/
def State.saveGrid (s : State) (bid : Nat) (b : Block) : State :=
  let c := s.core b.core
  let holds := match c.holder with
    | some h => (s.groupsOf bid).any (fun e => e.1 == h)
    | none => false
  if !holds then s
  else
    let s := s.setBlock bid { b with savedCells := c.acc, savedValid := c.valid, savedAq := c.aq }
    s.setCore b.core { c with holder := none, aq := aqClosed, acc := [], valid := [] }

/-- What a save leaves in the partition's save area (R278): its layout is not given, so the area's granules read as free
values until they are written (DESIGN CHOICE, log 17). -/
def State.spoilSave (s : State) (p : Nat) : State :=
  let q := s.part p
  let base := bits (q.word 2) 51 12 * 4096
  let n := q.word 3
  let inside (a : Nat) : Bool := decide (base ≤ a) && decide (a < base + 4096 * n)
  let tags := (List.range (64 * n)).foldl (fun t i => Sparse.set 0 t (base / 64 + i) 2) s.keyTags
  { s with keyTags := tags, l2 := s.l2.filter (fun e => !inside e.2.pa) }

/-- SAVE_COMPLETE (R275): the whole cohort's stores and atomics are acknowledged, and what its groups have read of other blocks'
stores is performed (R323); no memory outside the save area
changes (R278). -/
def execSaveComplete (block : Nat) (s : State) : Res :=
  .next (match AMap.find block s.blocks with
  | none => s
  | some b =>
    let blocks := s.cohortBlocks b
    let sends := match AMap.find b.cohort s.cohorts with
      | some c => !c.sends.isEmpty
      | none => false
    let copying := (s.groupsIn blocks).any (fun e => e.2.copying.isSome || e.2.latch.isSome)
    if b.mode != .saving || s.writesOut blocks || s.seenOut blocks || sends || copying then s
    else
      let s := blocks.foldl (fun s bid => match AMap.find bid s.blocks with
        | some b => s.saveGrid bid b
        | none => s) s
      let s := (s.groupsIn blocks).foldl (fun s e => s.adjGroup e.1 Group.toPackets) s
      let s : State := { s with reqs := s.reqs.filter (fun e => !(blocks.contains e.2.block && match e.2.src with
        | .group _ _ _ | .engine _ _ => true
        | .commit | .host _ | .peer _ _ | .walk _ | .stack _ | .device _ | .message _ _ _ => false)) }
      (s.setMode blocks .saved 0).spoilSave b.part)

/-! ## Resume (R275, R276) -/

/-- Granules that a saved block takes with it. -/
def State.savedCharge (s : State) (bid : Nat) (b : Block) : Nat :=
  (s.groupsOf bid).foldl (fun n e => n + e.2.grans.length) (b.grans.length + b.spare.length)

/-- A saved group's registers stand in other granules of its new core. -/
def Group.regran (g : Group) (l : List Nat) : Group := { g with grans := l.zip (g.grans.map Prod.snd) }

/-- The granules that each of some groups takes from a list, in order. -/
def shareGrans : List Nat → List (Nat × Group) → List (Nat × List Nat)
  | _, [] => []
  | l, e :: rest => (e.1, l.take e.2.grans.length) :: shareGrans (l.drop e.2.grans.length) rest

/-- A core can take a saved block, with a free grid when a grid was saved. -/
def State.canResume (s : State) (p core bid : Nat) (b : Block) : Bool :=
  s.coreAdmits p core (s.savedCharge bid b) (s.groupsOf bid).length
    && (!(s.groupsOf bid).any (fun e => e.2.grid) || (s.core core).holder.isNone)

/-- Restore one block on a core, which keeps no lines older than the block's acquires (R328). -/
def State.restore (s : State) (bid core : Nat) (b : Block) : State :=
  let gs := s.groupsOf bid
  let places := s.freePlaces core
  let shift (age : Nat) : Nat := age + (s.core core).clk - (s.core b.core).clk
  let holder := (gs.find? (fun e => e.2.grid)).map Prod.fst
  let grans := s.takeGrans core (s.savedCharge bid b)
  let rest := grans.drop b.grans.length
  let b' : Block := { b with
    grans := grans.take b.grans.length, spare := rest.take b.spare.length,
    core := core, mode := .running, postmark := b.postmark + 1#8, replayDue := false, savedCells := [], savedValid := [],
    savedAq := aqClosed }
  let s := s.setBlock bid b'
  let s := if holder.isSome then
      s.setCore core { s.core core with holder := holder, acc := b.savedCells, valid := b.savedValid, aq := b.savedAq }
    else s
  let t := (s.core core).clk
  let s := (gs.zip places).foldl (fun s e => s.adjGroup e.1.1 (fun g =>
    { g with place := e.2, since := t, notBefore := 0, passCount := 0, age := shift g.age })) s
  let s := (shareGrans (rest.drop b.spare.length) gs).foldl (fun s e => s.adjGroup e.1 (fun g => g.regran e.2)) s
  let s := s.setCore core (s.core core).l1Clear
  gs.foldl (fun s e => if b.replayDue then s.replayGroup e.1 b.part true else s.sendAgain e.1 e.2.unsent) s

/-- BLOCK_RESUME (R275, R292): a block on the core named; a cohort on that core's cluster, all its blocks in order on the cores that
can take one, those whose groups have ended too, which stay to the cohort's last end (R283). The cluster must still meet the node's `blocks=` (R294). -/
def execBlockResume (block core : Nat) (s : State) : Res :=
  .next (match AMap.find block s.blocks with
  | none => s
  | some b =>
    let l := s.blockList (s.cohortBlocks b)
    let cores := if l.length ≤ 1 then [core] else clusterCores (core / 4)
    let prot := (b.records.flatten.head?).bind (s.protOf b.part)
    match assignCores (fun c (e : Nat × Block) => s.canResume b.part c e.1 e.2) l cores with
    | none => s
    | some cs =>
      if b.mode == .saved && decide (b.node.blocks ≤ (s.usableCores b.part (core / 4)).length)
          && s.clusterAdmits b.part (core / 4) prot then
        let s := (cs.zip l).foldl (fun s e => s.restore e.2.1 e.1 e.2.2) s
        match AMap.find b.cohort s.cohorts with
        | some c => s.setCohort b.cohort { c with cluster := core / 4 }
        | none => s
      else s)

/-! ## Errors (R279, R293) -/

/-- The group issues and awaits nothing any more and has only to report a status. A COLL that it ran stays among the partition's
running collectives (R279 says nothing of it, DESIGN CHOICE, log 108). -/
def Group.endNow (g : Group) (status : Nat) : Group :=
  { g with wait := .ending, ended := some status, ops := [], arrivals := [], courses := [], copying := none, parkedWhole := false,
           latch := none, inActive := false, fetchPark := none, sealDue := false }

/-- A group ends with a status, its held flags delivered as at END, which R64 alone names (DESIGN CHOICE, log 76); it reports
at GROUP_END. -/
def State.endGroupWith (s : State) (gid status : Nat) : State :=
  match AMap.find gid s.groups with
  | none => s
  | some g =>
    if g.ended.isSome then s
    else ((s.bequeath gid g).release gid).adjGroup gid (fun g => g.deliver.endNow status)

/-- Every group of a block ends with a status, and nothing of its commit buffer is stored. -/
def State.endBlockWith (s : State) (bid status : Nat) : State :=
  ((s.groupsOf bid).map Prod.fst).foldl (fun s g => s.endGroupWith g status)
    (s.adjBlock bid (fun b => { b with buffer := [], bufUsed := 0 }))

/-- Every group of a block ends at once with a status, with its held flags or without them. -/
def State.reportBlock (s : State) (bid status : Nat) (held : Bool) : State :=
  ((s.groupsOf bid).map Prod.fst).foldl (fun s gid =>
    let s := s.adjGroup gid (fun g => (if held then g.deliver else g).endNow (g.ended.getD status))
    match AMap.find gid s.groups with
    | some g => s.finishGroup gid (g.ended.getD status)
    | none => s) s

/-- The lanes of one stamp leave a group as for a split, and the group that they form ends at once (R279); it takes no
resident place and no granules. Alone in its group, the stamp's group ends. -/
def State.endStamp (s : State) (gid stamp status : Nat) : State :=
  match AMap.find gid s.groups with
  | none => s
  | some g =>
    let m := g.roster.filter (fun j => g.xs j == stamp)
    if g.ended.isSome then s
    else if m.length = g.roster.length then s.endGroupWith gid status
    else
      let inM := m.contains
      let gone : Group :=
        { g with lanes := g.lanes.filter (fun e => inM e.1), efull := g.efull.filter (fun e => e.1 == stamp), v := [], q := [],
                 split := true, grid := false, mtx := false, grans := [], place := 32 }
      let g' : Group :=
        { g with lanes := g.lanes.filter (fun e => !inM e.1), v := laneKeys 256 (fun j => !inM j) g.v,
                 q := laneKeys 8 (fun j => !inM j) g.q, ops := stayingOps m g.ops,
                 efull := g.efull.filter (fun e => e.1 != stamp), courses := g.courses.filter (fun ss => ss != [stamp]) }
      let g' := ((g'.setS 61 (g.getS 61)).setS 62 (g.getS 62)).setS 63 (g.getS 63)
      let s := (s.setGroup gid g'.retire.settle).setGroup s.nextId (gone.deliver.endNow status)
      { s with nextId := s.nextId + 1 }

/-- A core is fenced off (R294). -/
def State.fence (s : State) (core : Nat) : State := s.setCore core { s.core core with fenced := true }

/-- A block loses what it cannot run on without: killed and launched again elsewhere before the first commit, at most
twice; its stamps told after that, without the held flags of a kill (R63, R279, R293), and at the third error those of its cohort's
other blocks with them, which R293 would have killed (DESIGN CHOICE, log 107). The core to be fenced off, if any. -/
def State.loseBlock (s : State) (bid : Nat) : State × Option Nat :=
  match AMap.find bid s.blocks with
  | none => (s, none)
  | some b =>
    let blocks := s.cohortBlocks b
    if (s.blockList blocks).any (fun e => e.2.committed) then (s.endBlockWith bid 2, none)
    else if 2 ≤ b.relaunches then (blocks.foldl (fun s x => s.reportBlock x 2 false) s, some b.core)
    else (s.kill b.cohort blocks 1 (some (b.core / 4)), none)

/-- Blocks are lost; a core that is fenced off for one of them loses the blocks resident on it, and so on (R294). -/
def State.loseBlocks : Nat → List Nat → State → State
  | 0, _, s => s
  | n + 1, lost, s =>
    let (s, cores) := lost.foldl (fun (a : State × List Nat) bid =>
      let (s, c) := a.1.loseBlock bid
      (s, c.toList ++ a.2)) (s, [])
    let new := cores.eraseDups.filter (fun c => !(s.core c).fenced)
    let s := new.foldl State.fence s
    let next := (s.blocks.filter (fun e => new.contains e.2.core && e.2.mode != .saved)).map Prod.fst
    if next.isEmpty then s else State.loseBlocks n next s

/-- A block is lost in the save area: its stamps are told, and it is not resumed (R278). -/
def State.loseSaved (s : State) (bid : Nat) : State :=
  let s := (s.adjBlock bid (fun b => { b with buffer := [], bufUsed := 0 })).reportBlock bid 3 true
  { s with blocks := AMap.del bid s.blocks }

/-- An uncorrectable error is consumed (R278, R279) (DESIGN CHOICE, log 16): after a commit, what the lanes stored before is
committed, as at an END (DESIGN CHOICE, log 76). -/
def State.consume (s : State) (gid : Nat) (what : Hurt) : State :=
  match AMap.find gid s.groups with
  | none => s
  | some g =>
    match s.blockOf g with
    | none => s
    | some b =>
      if g.ended.isSome then s
      else if what == .save then (if b.mode == .saving || b.mode == .saved then s.loseSaved g.block else s)
      else if !(s.blockList (s.cohortBlocks b)).any (fun e => e.2.committed) then State.loseBlocks 385 [g.block] s
      else match what with
        | .lane j => if g.roster.contains j then (s.commit g.block).endStamp gid (g.xs j) 2 else s
        | .grid => match (s.core b.core).holder with
          | some h => (s.commit g.block).endGroupWith h 2
          | none => s
        | .block | .save => s.endBlockWith g.block 2

/-- A core is fenced off, and the blocks resident on it are lost (R294). -/
def State.fenceOff (s : State) (core : Nat) : State :=
  let lost := (s.blocks.filter (fun e => e.2.core == core && e.2.mode != .saved)).map Prod.fst
  State.loseBlocks 385 lost (s.fence core)

/-- CORE_FENCE_OFF (R294). -/
def execCoreFenceOff (core : Nat) (s : State) : Res := .next (s.fenceOff core)

/-! ## Turns, tenures and the clear sequence (R295, R296, R368) -/

/-- A change begins: the cluster's blocks are pre-empted with L = 0. -/
def State.beginChange (s : State) (cluster : Nat) (c : Change) : State :=
  let s := s.setCluster cluster { s.cluster cluster with changing := some c }
  ((s.residentIn cluster).map Prod.fst).foldl (fun s b => s.preempt b 0) s

/-- The turn that a shared cluster serves is over: TSHARE counts 10 µs, which are 25,000 network ticks. -/
def State.turnOver (s : State) (cluster : Nat) : Bool :=
  let k := s.cluster cluster
  match k.turn with
  | none => true
  | some p => decide (k.turnStart + 25000 * (s.part p).tshare ≤ s.netClock)

/-- TSHARE_TURN_END (R368): the next partition of the cluster's rotation. -/
def execTshareTurnEnd (cluster next : Nat) (s : State) : Res :=
  .next (if s.turnOver cluster && (s.cluster cluster).changing.isNone && (s.part next).holds 4 cluster && decide ((s.part next).tshare ≠ 0)
      && (s.cluster cluster).turn != some next then s.beginChange cluster (.turn next)
    else s)

/-- A request of a cluster's cores is outstanding. -/
def State.requestsFrom (s : State) (cluster : Nat) : Bool := s.reqs.any (fun e => e.2.core / 4 == cluster)

/-- A core after the clear (Table 14.3); a fence stays. The replay counter is its performance counter (DEDUCED, log 75). -/
def Core.cleared (c : Core) : Core := { Core.reset with clk := c.clk, fenced := c.fenced, gated := c.gated }

/-- CLEAR_SEQUENCE (R296): `dirty` is a bit that the read-back finds set. -/
def execClearSequence (cluster : Nat) (dirty : Bool) (s : State) : Res :=
  let k := s.cluster cluster
  .next (match k.changing with
  | none => s
  | some c =>
    if !(s.residentIn cluster).isEmpty || s.requestsFrom cluster then s
    else
      let cores := clusterCores cluster
      let s := cores.foldl (fun s n => s.setCore n (s.core n).cleared) s
      let s := if dirty then cores.foldl State.fence s else s
      let k : Cluster := { k with icache := [], changing := none, reported := k.reported || dirty }
      s.setCluster cluster (match c with
        | .tenure t => { k with tenure := t, lastChange := some s.netClock }
        | .turn p => { k with turn := some p, tenure := none, turnStart := s.netClock }))

/-! ## The dispatcher (R377, R378) -/

/-- Sublists of length k, in order. -/
def choose {α : Type} : Nat → List α → List (List α)
  | 0, _ => [[]]
  | _ + 1, [] => []
  | k + 1, x :: rest => (choose k rest).map (x :: ·) ++ choose (k + 1) rest

/-- The cohorts on a cluster of lower class than a batch. -/
def State.lowerCohorts (s : State) (cluster : Nat) (cls : Cls) : List (Nat × Cohort) :=
  s.cohorts.filter (fun e => e.2.cluster == cluster && (s.blockList e.2.blocks).any (fun b => b.2.mode != .saved)
    && !(s.groupsIn e.2.blocks).any (fun g => decide (cls ≤ g.2.cls)))

/-- The state without some cohorts' blocks, to see what would fit. -/
def State.without (s : State) (l : List (Nat × Cohort)) : State :=
  let gone := l.flatMap (fun e => e.2.blocks)
  { s with blocks := s.blocks.filter (fun e => !gone.contains e.1), groups := s.groups.filter (fun e => !gone.contains e.2.block) }

/-- The fewest lower-class cohorts that must leave a cluster for a batch to fit. -/
def State.victims (s : State) (p : Nat) (nd : Node) (b : Batch) (cluster : Nat) : Option (List (Nat × Cohort)) :=
  let l := s.lowerCohorts cluster b.cls
  if !s.clusterAdmits p cluster b.prot || b.avoid == some cluster then none
  else (List.range (l.length + 1)).findSome? (fun k =>
    (choose k l).find? (fun v => ((s.without v).coresFor p cluster nd (b.formed nd)).isSome))

/-- The cluster on which the fewest must leave, the lowest on a tie. -/
def State.bestVictims (s : State) (p : Nat) (nd : Node) (b : Batch) : List Nat → Option (List (Nat × Cohort))
  | [] => none
  | c :: rest =>
    match s.victims p nd b c, s.bestVictims p nd b rest with
    | none, r => r
    | some v, none => some v
    | some v, some w => if w.length < v.length then some w else some v

/-- L of a request: the smallest bound of the batch's records less the time its record has waited, in core clocks. -/
def Batch.allowance (b : Batch) (now : Nat) : Nat :=
  let bound := minBound b.slots.flatten
  match b.slots.flatten.find? (fun r => r.bound == bound) with
  | some r => 125 * bound - (now - r.arrival) / 2
  | none => 0

/-- A ready batch with a bound that fits nowhere requests pre-emptions (R378). -/
def State.requestFor (s : State) (p : Nat) (b : Batch) : State :=
  match s.batchNode p b with
  | none => s
  | some nd =>
    if minBound b.slots.flatten = 0 || (s.placeFor p nd b).isSome then s
    else match s.bestVictims p nd b (s.clustersOf p) with
      | none => s
      | some v => v.foldl (fun s e => match e.2.blocks with
        | [] => s
        | x :: _ => s.preempt x (b.allowance s.netClock)) s

/-- Every such batch does, in the order of the ready batches. -/
def State.requestRoom (s : State) (p : Nat) : State := (s.part p).ready.foldl (fun s e => s.requestFor p e.2) s

/-- The cluster with fewest resident blocks of a list whose tenure may change now; a shared cluster only in the partition's
own turn (R368). -/
def State.leastBusy (s : State) (p : Nat) : List Nat → Option Nat
  | [] => none
  | c :: rest =>
    let k := s.cluster c
    let ok := k.changing.isNone && s.turnOf p c && k.lastChange.all (fun t => decide (t + 250000 ≤ s.netClock))
    match s.leastBusy p rest with
    | none => if ok then some c else none
    | some d => if ok && decide ((s.residentIn c).length ≤ (s.residentIn d).length) then some c else some d

/-- A ready batch that finds no cluster of its tenure has the tenure of one changed (R378); an ordinary batch likewise
(DEDUCED, log 26). -/
def State.requestTenure (s : State) (p : Nat) : State :=
  let t (b : Batch) : Option Nat := b.prot.map (fun x => 65536 * p + x)
  let found (b : Batch) : Bool := (s.clustersOf p).any (fun c =>
    (s.cluster c).tenure == t b && (s.cluster c).changing.isNone || (s.cluster c).changing == some (.tenure (t b)))
  match (s.part p).ready.find? (fun e => !found e.2) with
  | none => s
  | some (_, b) =>
    match s.leastBusy p (s.clustersOf p) with
    | none => s
    | some c => s.beginChange c (.tenure (t b))

/-- BATCH_DISPATCH (R377, R378). -/
def execBatchDispatch (p : Nat) (s : State) : Res :=
  let s := if (s.part p).batches.isEmpty then s else s.setPart p ((s.part p).expired s.netClock)
  .next (match s.dispatch p (s.part p).ready with
  | some s => s
  | none => (s.requestRoom p).requestTenure p)

end Sys2Proof.Machine
end

