-- ==== Sys2Proof/Machine/Load.lean ====
section
/-! DEFINITION. Graph binaries (R373, Table 20.5), the checks of LOAD in their order (R374, Table 20.6) and the placement
of a graph. -/

namespace Sys2Proof.Machine

/-! ## Reading bytes for the device -/

/-- A free value of n words of 16 bytes. -/
def State.freshBytes : Nat → State → Nat × State
  | 0, s => (0, s)
  | n + 1, s =>
    let (k, s) := s.fresh
    let (x, s) := State.freshBytes n s
    ((Config.freeWord k).toNat + 2 ^ 128 * x, s)

/-- The parts of what the device reads for a command, each within a sector. -/
def sectorParts (ia n : Nat) : List (Nat × Nat × Nat) := partsWithin 32 ia n

/-- The device's request for n bytes at an IA. -/
def State.deviceAsked (s : State) (use : DevUse) (p ia n : Nat) : Option Req :=
  (s.reqs.find? (fun e => e.2.part == p && e.2.src == .device use && e.2.ask == .readBytes n && e.2.ia == ia)).map Prod.snd

/-- What has come of a part: its bytes, or none where it cannot be read, its fault recorded where it has a record (R353). -/
def Req.came (r : Req) : Option (Option Nat) :=
  match r.st with
  | .unitData x => some (some x)
  | .back _ => some none
  | .transit | .arrived | .walking _ | .half _ _ _ _ | .heldWrite _ | .atPeer _ _ _ _ => none

/-- The device asks, once, for each of some parts. -/
def State.deviceAsk (s : State) (use : DevUse) (p : Nat) (l : List (Nat × Nat × Nat)) : State :=
  l.foldl (fun s e => if (s.deviceAsked use p e.1 e.2.2).isSome then s else s.arrive (s.deviceReq use p e.1 (.readBytes e.2.2))) s

/-- What has come of some parts, once all have. -/
def State.deviceCame (s : State) (use : DevUse) (p : Nat) : List (Nat × Nat × Nat) → Option (List (Option Nat))
  | [] => some []
  | e :: rest =>
    match (s.deviceAsked use p e.1 e.2.2).bind Req.came, s.deviceCame use p rest with
    | some x, some l => some (x :: l)
    | _, _ => none

/-- The bytes of parts that have come; those of one that cannot be read are free (DESIGN CHOICE, log 27). -/
def State.bytesOf : List (Nat × Nat × Nat) → List (Option Nat) → State → List Byte × State
  | e :: rest, x :: l, s =>
    let (x, s) : Nat × State := match x with
      | some x => (x, s)
      | none => State.freshBytes ((e.2.2 + 15) / 16) s
    let (m, s) := State.bytesOf rest l s
    (leBytes e.2.2 x ++ m, s)
  | _, _, s => ([], s)

/-- n bytes from an IA on for a command, once they have come. -/
def State.deviceBytes (p n ia : Nat) (s : State) : Option (List Byte) × State :=
  let l := sectorParts ia n
  let s := s.deviceAsk .data p l
  match s.deviceCame .data p l with
  | none => (none, s)
  | some x =>
    let (m, s) := State.bytesOf l x s
    (some m, s)

/-! ## The binary -/

/-- The n-byte little-endian field at an offset. -/
def field (l : List Byte) (off n : Nat) : Nat := leVal ((l.drop off).take n)

def zeroBytes (l : List Byte) (off n : Nat) : Bool := field l off n == 0

/-- An entry of the section table. -/
structure Section where
  type_ : Nat
  kernel : Nat
  off : Nat
  size : Nat
  deriving DecidableEq, Repr

/-- A binary with its section table read. -/
structure Binary where
  bytes : List Byte
  sections : List Section
  deriving DecidableEq, Repr

def sectionAt (l : List Byte) (o : Nat) : Section :=
  { type_ := field l o 4, kernel := field l (o + 4) 4, off := field l (o + 8) 8, size := field l (o + 16) 8 }

/-- The header and the section table (R373); none for load status 0x01. -/
def readBinary (l : List Byte) : Option Binary :=
  let n := field l 8 4
  let o := field l 16 8
  if l.length < 64 || field l 0 4 != 0x31424743 || field l 4 2 != 1 || field l 24 8 != l.length then none
  else if !(zeroBytes l 6 2 && zeroBytes l 12 4 && zeroBytes l 32 32) then none
  else if l.length < o + 32 * n then none
  else
    let secs := (List.range n).map (fun i => sectionAt l (o + 32 * i))
    let padding := (List.range n).all (fun i => zeroBytes l (o + 32 * i + 24) 8)
    let kernels := (secs.filter (fun x => x.type_ == 3)).length
    let perKernel (t : Nat) : Bool :=
      decide ((secs.filter (fun x => x.type_ == t)).length = kernels)
        && (List.range kernels).all (fun k => secs.any (fun x => x.type_ == t && x.kernel == k))
    let single (t : Nat) : Bool := decide ((secs.filter (fun x => x.type_ == t)).length ≤ 1)
    let kinds := secs.all (fun x => decide (1 ≤ x.type_) && decide (x.type_ ≤ 9)
      && (x.type_ == 3 || x.type_ == 4 || x.kernel == 0xFFFFFFFF))
    if padding && kinds && perKernel 3 && perKernel 4 && [1, 2, 5, 6, 7, 8, 9].all single then some { bytes := l, sections := secs }
    else none

/-- The bytes of a section, none of a section that is not there. -/
def Binary.part (b : Binary) (t kernel : Nat) : List Byte :=
  match b.sections.find? (fun x => x.type_ == t && x.kernel == kernel) with
  | some x => (b.bytes.drop x.off).take x.size
  | none => []

def Binary.one (b : Binary) (t : Nat) : List Byte := b.part t 0xFFFFFFFF

def Binary.kernels (b : Binary) : Nat := (b.sections.filter (fun x => x.type_ == 3)).length

/-- The entries of n bytes of a section. -/
def entries (l : List Byte) (n : Nat) : List (List Byte) := (List.range (l.length / n)).map (fun i => (l.drop (n * i)).take n)

/-- Bytes of an entry by section type; 1 where a section has none. -/
def entrySize (t : Nat) : Nat := match t with
  | 1 => 48 | 2 => 8 | 3 => 8 | 5 => 24 | 6 => 32 | 7 => 16 | _ => 1

/-- Every section and entry lies in the binary (load status 0x02 otherwise). -/
def Binary.inBounds (b : Binary) : Bool :=
  b.sections.all (fun x => decide (x.off + x.size ≤ b.bytes.length) && x.size % entrySize x.type_ == 0)
    && (entries (b.one 6) 32).all (fun e => decide (field e 16 4 + field e 20 4 ≤ (b.one 8).length) && decide (field e 20 4 ≤ field e 0 8))
    && (entries (b.one 7) 16).all (fun e => decide (field e 0 4 < (b.one 9).length))

/-- A node's entry as declared, its kernel's text and data not yet placed. Its class= is kept and checked, and has no other effect: a
group's class is that of its batch's records (R25, R375, DESIGN CHOICE, log 105). -/
def Binary.node (b : Binary) (e : List Byte) : Node :=
  let k := field e 0 2
  { kernel := k, threshold := field e 2 1, quadPack := field e 3 1 == 1, cls := field e 4 1, strict := field e 5 1 == 1,
    groups := field e 6 1, blocks := field e 7 1, window := field e 8 2, recSize := field e 10 1, ports := field e 11 1,
    cycles := field e 12 4, regs := field e 16 2, scratch := field e 18 4, xbank := field e 22 4, grid := field e 26 1 == 1,
    trap := if field e 27 4 = 0xFFFFFFFF then none else some (field e 27 4), textIa := 0, textSize := (b.part 3 k).length,
    dataIa := 0, dataSize := (b.part 4 k).length }

/-- Fields within Table 1.5 (0x03). -/
def Binary.nodeOk (b : Binary) (e : List Byte) : Bool :=
  let n := b.node e
  decide (n.kernel < b.kernels) && decide (1 ≤ n.threshold) && decide (n.threshold ≤ 96) && decide (field e 3 1 ≤ 1)
    && decide (n.cls ≤ 2) && decide (field e 5 1 ≤ 1) && decide (1 ≤ n.groups) && decide (n.groups ≤ 16)
    && decide (1 ≤ n.blocks) && decide (n.blocks ≤ 4) && decide (4 ≤ n.recSize) && decide (n.recSize ≤ 64)
    && n.recSize % 4 == 0 && decide (n.ports ≤ 8) && decide (1 ≤ n.cycles) && decide (16 ≤ n.regs) && decide (n.regs ≤ 256)
    && n.regs % 16 == 0 && decide (n.scratch ≤ 2 ^ 20) && n.scratch % 16 == 0 && decide (n.xbank ≤ 2 ^ 20)
    && n.xbank % 256 == 0 && decide (field e 26 1 ≤ 1) && zeroBytes e 31 17

def Binary.nodeList (b : Binary) : List Node := (entries (b.one 1) 48).map b.node

def edgeOf (e : List Byte) : Edge := { src := field e 0 2, port := field e 2 1, dst := field e 4 2 }

def Binary.edgeList (b : Binary) : List Edge := (entries (b.one 2) 8).map edgeOf

/-- The edges of node i's ports (0x04); an edge of no node fails with the first (DEDUCED, log 49). -/
def edgesOk (nodes : List Node) (edges : List Edge) (i : Nat) : Bool :=
  let mine := edges.filter (fun e => e.src == i)
  let size (e : Edge) : Nat := ((nodes[e.dst]?).map Node.recSize).getD 0
  mine.all (fun e => decide (e.dst < nodes.length) && decide (e.port < ((nodes[i]?).map Node.ports).getD 0)
      && mine.all (fun f => e.port != f.port || size e == size f))
    && (i != 0 || edges.all (fun e => decide (e.src < nodes.length)))

/-- Step 2 for one node: its load status, 0 when it passes. -/
def State.nodeStatus (s : State) (p : Nat) (b : Binary) (i : Nat) (e : List Byte) : Nat :=
  let n := b.node e
  if !b.nodeOk e then 0x03
  else if !edgesOk b.nodeList b.edgeList i then 0x04
  else if (n.grid && n.regs != 256) || n.trap.any (fun t => decide (n.textSize ≤ t) || t % 8 != 0) then 0x05
  else if n.strict && !(s.part p).mayStrict then 0x06
  else if 2048 * coreGranules < n.fixed + n.scratch then 0x31
  else if !(s.clustersOf p).any (fun c => decide (n.blocks ≤ (s.usableCores p c).length)) then 0x32 else 0

/-- The first node that fails: its status and index. -/
def State.firstBad (s : State) (p : Nat) (b : Binary) : Nat → List (List Byte) → Option (Nat × Nat)
  | _, [] => none
  | i, e :: rest =>
    match s.nodeStatus p b i e with
    | 0 => s.firstBad p b (i + 1) rest
    | st => some (st, i)

/-- Step 3: every patch lies in its data section and names a plan or none. -/
def Binary.patchesOk (b : Binary) : Bool :=
  let plans := (entries (b.one 6) 32).length
  (entries (b.one 5) 24).all (fun e => decide (field e 0 2 < b.kernels) && decide (field e 4 4 + 8 ≤ (b.part 4 (field e 0 2)).length)
    && (field e 8 4 == 0xFFFFFFFF || decide (field e 8 4 < plans)))

/-- The counter slots in use. -/
def Partition.slotsUsed (p : Partition) : List Nat :=
  p.graphs.flatMap (fun e => (List.range e.2.nodes.length).map (· + e.2.firstSlot))

/-- The lowest run of n free counter slots. -/
def Partition.freeSlots (p : Partition) (n : Nat) : Option Nat :=
  let used := p.slotsUsed
  (List.range (1025 - n)).find? (fun f => (List.range n).all (fun i => !used.contains (f + i)))

/-- The lowest free graph handle. -/
def Partition.freeHandle (p : Partition) : Option Nat := (List.range 256).find? (fun h => (AMap.find h p.graphs).isNone)

/-! ## Placement (step 5) -/

/-- Everything that a partition's graphs hold in memory. -/
def Partition.placed (p : Partition) : List (Nat × Nat) := p.graphs.flatMap (fun e => e.2.placed)

def overlaps (a b : Nat × Nat) : Bool := decide (a.1 < b.1 + b.2) && decide (b.1 < a.1 + a.2)

/-- A page is mapped for what a graph has to store there. -/
def State.mapped (s : State) (p ia : Nat) : Bool :=
  match s.physNow p ia 0 ⟨true, true, false⟩ with
  | .ok _ _ => true
  | .fault _ | .poisoned _ => false

/-- An item's place: aligned, free of what is placed, and mapped for writes; none when it cannot be placed. The
spec gives a plan's home mask no effect at LOAD, and it has none (DESIGN CHOICE, log 28). -/
def State.placeItem (s : State) (p handle item size align : Nat) (taken : List (Nat × Nat)) : Option Nat :=
  let ia := Config.placeIa p handle item size align
  let pages := (List.range ((ia % 4096 + size + 4095) / 4096)).map (fun i => ia / 4096 * 4096 + 4096 * i)
  if ia % max 1 align ≠ 0 || 2 ^ 56 < ia + size || taken.any (overlaps (ia, size)) || !pages.all (s.mapped p) then none else some ia

/-- Place items one after another, or none at all. -/
def State.placeAll (s : State) (p handle : Nat) : Nat → List (List Byte × Nat) → List (Nat × Nat) → Option (List Nat)
  | _, [], _ => some []
  | i, (bytes, align) :: rest, taken =>
    match s.placeItem p handle i bytes.length align taken with
    | none => none
    | some ia => (s.placeAll p handle (i + 1) rest ((ia, bytes.length) :: taken)).map (fun l => ia :: l)

/-- A plan's bytes: its initial bytes, then zeros. A patch entry of Table 20.5 names a kernel's data section alone, so that a plan's
bytes stand as they are in the binary, where R29 has load-time values in a plan too (DESIGN CHOICE, log 106). -/
def Binary.planBytes (b : Binary) (e : List Byte) : List Byte :=
  let init := ((b.one 8).drop (field e 16 4)).take (field e 20 4)
  init ++ List.replicate (field e 0 8 - init.length) 0#8

/-- Put an n-byte value into a list of bytes. -/
def patchBytes (l : List Byte) (off n x : Nat) : List Byte := l.take off ++ leBytes n x ++ l.drop (off + n)

/-- A kernel's data with its patch slots filled. -/
def Binary.dataOf (b : Binary) (planIas : List Nat) (k : Nat) : List Byte :=
  (entries (b.one 5) 24).foldl (fun l e =>
    if field e 0 2 = k then
      let base := if field e 8 4 = 0xFFFFFFFF then 0 else planIas.getD (field e 8 4) 0
      patchBytes l (field e 4 4) 8 ((base + field e 16 8) % 2 ^ 64)
    else l) (b.part 4 k)

/-- The items of a graph in the order of their numbers: plans, then each kernel's text and data. -/
def Binary.items (b : Binary) : List (List Byte × Nat) :=
  (entries (b.one 6) 32).map (fun e => (b.planBytes e, field e 8 8))
    ++ (List.range b.kernels).flatMap (fun k => [(b.part 3 k, 8), (b.part 4 k, 4096)])

/-- Store the placed items, the data sections patched. -/
def State.fillAll (s : State) (p : Nat) (b : Binary) (ias : List Nat) : State :=
  let plans := entries (b.one 6) 32
  let np := plans.length
  let s := ((List.range np).zip plans).foldl (fun s e => State.deviceStore .image p (b.planBytes e.2) (ias.getD e.1 0) s) s
  (List.range b.kernels).foldl (fun s k =>
    State.deviceStore .image p (b.dataOf (ias.take np) k) (ias.getD (np + 2 * k + 1) 0)
      (State.deviceStore .image p (b.part 3 k) (ias.getD (np + 2 * k) 0) s)) s

/-- The graph as loaded. -/
def Binary.graph (b : Binary) (ias : List Nat) (first : Nat) : Graph :=
  let np := (entries (b.one 6) 32).length
  { nodes := b.nodeList.map (fun n => { n with textIa := ias.getD (np + 2 * n.kernel) 0, dataIa := ias.getD (np + 2 * n.kernel + 1) 0 }),
    edges := b.edgeList, firstSlot := first, placed := ias.zip (b.items.map (fun e => e.1.length)), unloading := false, sacks := [] }

/-- Counters of slots start at 0 (R384). -/
def Partition.zeroSlots (p : Partition) (first n : Nat) : Partition :=
  { p with counters := p.counters.filter (fun e => !(decide (first ≤ e.1 / 32) && decide (e.1 / 32 < first + n))),
           emitlost := p.emitlost.filter (fun e => !(decide (first ≤ e.1) && decide (e.1 < first + n))) }

/-- A refusal's value: load status and node index. -/
def refusal (status node : Nat) : Nat × Nat := (0x07, status + 65536 * node)

/-- A graph that has passed LOAD's checks: its handle, first counter slot, binary and the places of its items. -/
structure Placing where
  handle : Nat
  first : Nat
  binary : Binary
  ias : List Nat

/-- The checks of LOAD in their order (R374): why it is refused, or where the graph is to stand. -/
def State.loadCheck (s : State) (p : Nat) (l : List Byte) : Sum (Nat × Nat) Placing :=
  match readBinary l with
  | none => .inl (refusal 0x01 0xFFFF)
  | some b =>
    if !b.inBounds then .inl (refusal 0x02 0xFFFF)
    else match s.firstBad p b 0 (entries (b.one 1) 48) with
      | some (st, i) => .inl (refusal st i)
      | none =>
        if !b.patchesOk then .inl (refusal 0x07 0xFFFF)
        else match (s.part p).freeSlots b.nodeList.length, (s.part p).freeHandle with
          | some first, some h =>
            match s.placeAll p h 0 b.items (s.part p).placed with
            | none => .inl (refusal 0x08 0xFFFF)
            | some ias => .inr { handle := h, first := first, binary := b, ias := ias }
          | none, _ => .inl (refusal 0x09 0xFFFF)
          | some _, none => .inl (refusal 0x08 0xFFFF)

end Sys2Proof.Machine
end

