-- ==== Sys2Proof/Machine/Fabric.lean ====
section
/-! DEFINITION. The fabric: peers as requesters and completers (R396–R404), the completion of collectives (R407–R411),
evidence and the manifest (R412–R414). -/

namespace Sys2Proof.Machine

/-! ## The device as completer (R396, R399, R404) -/

/-- A request from outside at an IA of a partition. -/
def State.outside (s : State) (src : Source) (part ia : Nat) (ask : Ask) : Req :=
  { ask := ask, src := src, part := part, ppm := (s.part part).ppm, ia := ia, home := s.home part 0xFF ia, cls := 0,
    stamp := 0, tensor := 0, block := 0, postmark := 0#8, seq := 0#16, core := noCore, hops := [], st := .arrived,
    since := s.netClock, arrival := 0 }

/-- Sizes that the device accepts (Table 22.1): 64 to 256 bytes in 64-byte multiples, and writes of a part of a granule. -/
def wholeGranules (ia n : Nat) : Bool := n % 64 == 0 && decide (64 ≤ n) && decide (n ≤ 256) && ia % 64 == 0

def partOfGranule (ia n : Nat) : Bool := decide (1 ≤ n) && decide (ia % 64 + n ≤ 64)

/-- What a peer asks, as a request; none for what Table 22.1 does not accept. -/
def peerAsk (ia : Nat) : PeerOp → Option Ask
  | .read n _ => if wholeGranules ia n then some (.readBytes n) else none
  | .write data mask _ =>
    if (wholeGranules ia data.length && mask.isEmpty) || partOfGranule ia data.length then some (.write data.length (leVal data) true)
    else none
  | .atomic op n x c _ _ =>
    let a : Ask := .atomic op n [(x, c)] false
    if a.carried && (n == 4 || n == 8) && ia % n == 0 then some a else none

/-- The mark a Larua's atomic carries; the group's number is kept apart from the device's own by the peer's id. -/
def peerMark (peer : Nat) : PeerOp → Option (Nat × BitVec 8 × BitVec 16)
  | .read _ _ | .write _ _ _ => none
  | .atomic _ _ _ _ mark _ => mark.map (fun m => (2 ^ 64 + 1024 * m.1 + peer, m.2.1, m.2.2))

/-- The class of the header's traffic-class field (R398). -/
def peerCls : PeerOp → Cls
  | .read _ c | .write _ _ c | .atomic _ _ _ _ _ c => min 2 c

def peerMask : PeerOp → List Bool
  | .write _ m _ => m
  | .read _ _ | .atomic _ _ _ _ _ _ => []

/-- The quota station of a port: it stands behind the 96 clusters' and the 32 engines' (R398, DESIGN CHOICE, log 84). -/
def portStation (peer : Nat) : Nat := 128 + (Config.routePort peer).val

/-- A peer's bit in the partition's PEERIN map. -/
def Partition.lets (p : Partition) (peer : Nat) : Bool := bitAt (p.peerin.getD (peer / 64) 0#64).toNat (peer % 64)

/-- PEER_REQUEST (R396): a request at an offset of the device's window; it takes its class from its header, within the
partition's quota (R398). -/
def execPeerRequest (peer off : Nat) (op : PeerOp) (s : State) : Res :=
  let part := off / 2 ^ 37
  let ia := off % 2 ^ 37
  .next (
    let r := { s.outside (.peer peer s.nextId) part ia .read with cls := peerCls op, mask := peerMask op }
    let p := s.part part
    match peerAsk ia op with
    | none => s.reply r [] true
    | some ask =>
      if 8 ≤ part || !p.valid || !p.lets peer then s.reply r [] true
      else
        let r := { r with ask := ask }
        let r := match peerMark peer op with
          | some (g, pm, seq) => { r with block := g, postmark := pm, seq := seq }
          | none => r
        let (c, s) := s.injectAt part (portStation peer) r.cls (tlFlits ask.dataBytes)
        s.arrive { r with cls := c })

/-- The completer's bound of 8 µs, in network ticks. -/
def completerBound : Nat := 20000

/-- A request leaves every queue of the links. -/
def Link.forget (l : Link) (rid : Nat) : Link :=
  { l with ready := l.ready.filter (fun e => e.1 != rid), progress := l.progress.filter (fun e => e.1 != rid) }

def State.unqueue (s : State) (rid : Nat) : State := { s with links := s.links.map (fun e => (e.1, e.2.forget rid)) }

/-- It has not been performed: it stands in its queue, awaits a walk, or a peer has a part of it. -/
def Req.unserved (r : Req) : Bool :=
  match r.st with
  | .arrived | .walking _ | .atPeer _ _ _ _ => true
  | .transit | .half _ _ _ _ | .heldWrite _ | .unitData _ | .back _ => false

/-- An outside request past its bound is answered with an abort, or discarded when posted; behind a held write it is
recorded (R404, R416). -/
def State.expire (s : State) (rid : Nat) (r : Req) : State :=
  if !r.unserved || s.netClock < r.since + completerBound then s
  else (((s.recordAll (s.heldRecords rid r)).unqueue rid).abort rid r).afterPosted r.part

/-- COMPLETER_DEADLINE (R404). -/
def execCompleterDeadline (rid : Nat) (s : State) : Res :=
  .next (match AMap.find rid s.reqs with
  | none => s
  | some r =>
    match r.src with
    | .peer _ _ => s.expire rid r
    | .host _ | .group _ _ _ | .commit | .engine _ _ | .walk _ | .stack _ | .device _ | .message _ _ _ => s)

/-! ## The device as requester (R397, R402, R403) -/

def Partition.epoch (p : Partition) (d : Nat) : BitVec 8 := Sparse.get 0#8 p.epochs d

/-- The data of a peer's completion, of whole granules, as the value of the part of the request that stands at the peer's address. -/
def Req.peerPart (r : Req) (pa : Nat) (data : List Byte) : Nat :=
  match r.ask with
  | .read | .prefetch => leVal (data.take 128)
  | .readBytes _ => leVal data / 2 ^ (8 * (pa % 64)) % 2 ^ (8 * r.peerLen pa)
  | .write _ _ _ | .discard _ => 0
  | .atomic _ n _ _ => leVal (data.take n)

/-- What the parts of a request have given, as its answer; the tag of a write is free (DESIGN CHOICE, log 42). -/
def Req.completed (r : Req) (tag : Nat) : Answer :=
  match r.ask with
  | .read | .prefetch | .readBytes _ => .line r.got
  | .write _ _ _ | .discard _ => .values tag []
  | .atomic op n xs _ => .values tag (atomFold op (8 * n) xs r.got).1

/-- A peer has answered the part of a request at its address: the next part takes its place at the port, or the request is answered, in
its class (R398); one from outside goes on at its slice. -/
def State.peerAnswer (s : State) (rid : Nat) (r : Req) (pa : Nat) (data : List Byte) : State :=
  let r' := { r with got := r.got + r.peerPart pa data * 2 ^ (8 * r.done), done := r.done + r.peerLen pa }
  if r.outside then s.setReq rid { r' with st := .arrived }
  else if r'.done < r.ask.covers then s.atPort rid r' (pa + r.peerLen pa) true
  else
    let (k, s) := s.fresh
    s.sendBack rid r' (r'.completed ((Config.freeWord k).toNat % 2 ^ 32))

/-- The collective is over on this device: its READY messages go with it, and a message that came for the next one of its set
and tag stays (R408). -/
def State.endColl (s : State) (p key : Nat) (n gid op d status : Nat) : State :=
  let q := s.part p
  let s := s.setPart p { q with colls := AMap.del key q.colls,
                                readies := (List.range n).foldl (fun l k => l.erase (key, k)) q.readies }
  s.endCommand gid op d status

/-- A running collective: its operation, the descriptor, the set, this device's index. -/
structure Running where
  gid : Nat
  g : Group
  o : Op
  b : Block
  d : Nat
  c : CollDesc
  stations : List Nat
  m : Nat

/-- The device's member index in a list of stations (R407). -/
def memberIndex (stations : List Nat) (own : Nat) : Option Nat :=
  (List.range stations.length).find? (fun i => stations.getD i 0 == own)

def State.running (s : State) (p set_ tag : Nat) : Option Running :=
  let q := s.part p
  match AMap.find (collKey set_ tag) q.colls, AMap.find set_ q.sets with
  | some c, some (l, _) =>
    match AMap.find c.gid s.groups with
    | none => none
    | some g =>
      match g.findOp c.op, s.blockOf g, memberIndex l s.station.toNat with
      | some o, some b, some m =>
        match o.kind with
        | .coll d _ _ _ => some { gid := c.gid, g := g, o := o, b := b, d := d, c := collDesc c.desc, stations := l, m := m }
        | _ => none
      | _, _, _ => none
  | _, _ => none

/-- It is done by the engine to which its core's commands go. -/
def State.collActor (s : State) (r : Running) : Actor := s.engineActor r.g r.b r.gid r.o

/-- Bytes that a collective writes at this device (R409). -/
def CollDesc.bytes (c : CollDesc) (n : Nat) : Nat :=
  let w := collWidth c.ty
  match c.op with
  | 1 => w * (c.cnt / n)
  | 2 => w * c.cnt * n
  | _ => w * c.cnt

/-- The collective writes DST: its status waits until the writes are acknowledged, at progress 2, or 3 when a member was lost
(R411). -/
def State.collWrite (s : State) (r : Running) (x status progress : Nat) (l : List Run) : State :=
  (((Actor.writes (s.collActor r) x l).foldl State.send s).dropReads r.gid r.o.id).adjGroup r.gid (fun g => g.adjOp r.o.id (fun o =>
    { o with progress := progress, lanes := o.lanes.map (fun q => { q with st := .waiting, unf := false, val := status }) }))

/-- Its writes are made; it ends once they are acknowledged (R397, R411). -/
def State.collWritten (s : State) (p key : Nat) (r : Running) : State :=
  if s.writesDone r.gid r.o.id then s.endColl p key r.stations.length r.gid r.o.id r.d ((r.o.lanes.map LaneReq.val).headD 0) else s

/-- A member was lost: DST gets free values where range translation admits it, and COLL is to end with 0x05 (R410, DESIGN CHOICE,
log 37). -/
def State.collLost (s : State) (r : Running) : State :=
  if r.o.progress = 3 then s
  else
    let bytes := r.c.bytes r.stations.length
    let (x, s) := State.freshBytes ((bytes + 15) / 16) s
    let (k, s) := s.fresh
    let status := statusWord ((Config.freeWord k).toNat % 2 ^ 56) 0x05
    match State.reachAll (s.collActor r) true (lineParts r.c.dst bytes) s with
    | (.inr l, s) => s.collWrite r x status 3 l
    | (.inl _, s) => s.collWrite r x status 3 []

/-- The collective that an operation of a group runs. -/
def State.collOf (s : State) (p gid op : Nat) : Option (Nat × Running) :=
  match (s.part p).colls.find? (fun e => e.2.gid == gid && e.2.op == op) with
  | some (key, _) => (s.running p (key / 2 ^ 32) (key % 2 ^ 32)).map (fun r => (key, r))
  | none => none

/-- A fault comes back to a unit, its record made: a fetch parks its group, a copy or a collective that depends on a lost peer ends
(R402), any other access is to be parked (R268); what still comes for a lost collective changes nothing. -/
def State.unitFault (s : State) (r : Req) (gid op kind own : Nat) : State :=
  match AMap.find gid s.groups with
  | none => s
  | some g =>
    if op = 0 then
      match s.blockOf g with
      | some b => if b.fetchIa g = r.ia then s.parkFetch gid g (if kind = 0x08 then own else r.part) else s
      | none => s
    else match g.findOp op with
      | none => s
      | some o =>
        match o.kind with
        | .copy d _ _ _ _ _ _ _ => if kind = 0x09 then s.copyLost gid op d o.progress else s.meetFault gid op kind own
        | .coll d _ _ _ =>
          if o.progress = 3 then s
          else if kind ≠ 0x09 then s.meetFault gid op kind own
          else match s.collOf r.part gid op with
            | some (_, run) => s.collLost run
            | none => s.endCommand gid op d (statusWord 0 0x05)
        | .load .. | .store .. | .atomic .. | .scratchLoad _ | .scratchStore | .constLoad _ | .slotLoad _ | .slotStore | .emit
        | .discard .. | .acpy .. | .grid | .ldsc _ | .xput .. | .cbar _ => s.meetFault gid op kind own

/-- The unit of a request still runs what it was made for: its block's incarnation, its group, and its operation or its fetch. -/
def State.unitRuns (s : State) (r : Req) (gid op : Nat) : Bool :=
  s.current r && match AMap.find gid s.groups with
    | none => false
    | some g => op == 0 || (g.findOp op).any (fun o => !o.complete)

/-- The operation is an SLDC, which never parks: what it cannot read is free (R145, DESIGN CHOICE, log 24). -/
def State.isConst (s : State) (gid op : Nat) : Bool :=
  ((AMap.find gid s.groups).bind (fun g => g.findOp op)).any (fun o => match o.kind with
    | .constLoad _ => true
    | _ => false)

/-- An answer comes back to a unit: a read's data stand there until it takes them, a write is over; an answer for a block, a group or
an operation that is gone is dropped (R276). -/
def State.landUnit (s : State) (rid : Nat) (r : Req) (gid op : Nat) (a : Answer) : State :=
  if !s.unitRuns r gid op then s.dropReq rid
  else match a with
    | .line x => s.setReq rid { r with hops := [], st := .unitData x }
    | .values _ _ => s.dropReq rid
    | .fault kind own =>
      if s.isConst gid op then
        let (k, s) := s.fresh
        s.setReq rid { r with hops := [], st := .unitData ((Config.freeWord k).toNat % 2 ^ (8 * r.ask.covers)) }
      else (s.dropReq rid).unitFault r gid op kind own

/-- PEER_COMPLETION (R397, R402): one under an earlier epoch of the pair is dropped and counted; an abort ends the
request as peer-lost (DEDUCED, log 29). -/
def execPeerCompletion (p d rid : Nat) (epoch : BitVec 8) (data : List Byte) (abort : Bool) (s : State) : Res :=
  let q := s.part p
  .next (if epoch ≠ q.epoch d then s.setPart p { q with late := min (2 ^ 32 - 1) (q.late + 1) }
  else match AMap.find rid s.reqs with
  | none => s
  | some r =>
    match r.st with
    | .atPeer e pa _ (some _) =>
      if r.part ≠ p || e ≠ d then s
      else if abort then (s.unqueue rid).failLost [(rid, r)]
      else (s.unqueue rid).peerAnswer rid r pa data
    | .atPeer _ _ _ none | .transit | .arrived | .walking _ | .half _ _ _ _ | .heldWrite _ | .unitData _ | .back _ => s)

/-- The requests of a partition to a destination. -/
def State.toDest (s : State) (p d : Nat) : List (Nat × Req) :=
  s.reqs.filter (fun e => e.2.part == p && match e.2.st with
    | .atPeer x _ _ _ => x == d
    | .transit | .arrived | .walking _ | .half _ _ _ _ | .heldWrite _ | .unitData _ | .back _ => false)

/-- A request has waited FTMO since it left its queue; FTMO counts 250 ticks. -/
def State.overdue (s : State) (r : Req) : Bool :=
  match r.st with
  | .atPeer _ _ _ (some t) => decide (t + 250 * s.ftmo.toNat ≤ s.netClock)
  | .atPeer _ _ _ none | .transit | .arrived | .walking _ | .half _ _ _ _ | .heldWrite _ | .unitData _ | .back _ => false

/-- The collectives of a partition that run with a member at an accelerator end: the pair is quarantined (R402, R410). -/
def State.loseColls (s : State) (p d : Nat) : State :=
  ((s.part p).colls.map Prod.fst).foldl (fun s key =>
    match s.running p (key / 2 ^ 32) (key % 2 ^ 32) with
    | some r => if r.stations.any (fun x => x % 1024 == d && x != s.station.toNat) then s.collLost r else s
    | none => s) s

/-- PEER_QUARANTINE (R402). -/
def execPeerQuarantine (p d : Nat) (s : State) : Res :=
  let rs := s.toDest p d
  let q := s.part p
  .next (if !rs.any (fun e => s.overdue e.2) then s
  else
    let s := s.setPart p { q with
      epochs := Sparse.set 0#8 q.epochs d (q.epoch d + 1#8), quarantined := Sparse.set false q.quarantined d true,
      trips := min (2 ^ 32 - 1) (q.trips + 1) }
    ((rs.foldl (fun s e => s.unqueue e.1) s).failLost rs).loseColls p d)

/-- QOPEN (R403): with ALL, or one accelerator. -/
def execQopenAll (p : Nat) (s : State) : Res := onHost s p (fun q => s.setPart p { q with quarantined := [] })

def execQopenId (p id : Nat) (s : State) : Res :=
  onHost s p (fun q => s.setPart p { q with quarantined := Sparse.set false q.quarantined (id % 1024) false })

/-! ## Collectives (R408–R411) -/

/-- COLL_READY (R408): a READY under the set's digest and the tag is held until the collective ends; one more of a member is for
the next collective. -/
def execCollReady (p set_ tag member : Nat) (digest : List Byte) (s : State) : Res :=
  let q := s.part p
  .next (match AMap.find set_ q.sets with
  | none => s
  | some (l, ctx) =>
    if member < l.length && digest == setDigest l ctx then
      s.setPart p { q with readies := q.readies ++ [(collKey set_ tag, member)] }
    else s)

/-- READY has come from every other member. -/
def Partition.allReady (p : Partition) (key n m : Nat) : Bool :=
  (List.range n).all (fun k => k == m || p.readies.contains (key, k))

/-- COLL_HANDSHAKE_TIMEOUT (R408): after FTMO without every READY. -/
def execCollHandshakeTimeout (p set_ tag : Nat) (s : State) : Res :=
  let key := collKey set_ tag
  .next (match s.running p set_ tag, AMap.find key (s.part p).colls with
  | some r, some c =>
    if s.isSaved r.g || r.o.progress ≠ 1 || (s.part p).allReady key r.stations.length r.m || s.netClock < c.started + 250 * s.ftmo.toNat then s
    else s.endColl p key r.stations.length r.gid r.o.id r.d (statusWord 0 0x07)
  | _, _ => s)

/-- One step of a combination (R409). -/
def collStep (ty a b : Nat) : Nat :=
  match ty with
  | 0 => addRn a b
  | 1 => (Fmt.bf16.round .rn false false (FVal.sum .rn [Fmt.bf16.value a, Fmt.bf16.value b]).1).1
  | 2 => (a + b) % 2 ^ 32
  | _ =>
    let x := Fmt.fp32.value a
    let y := Fmt.fp32.value b
    if x.isNaN || y.isNaN then Fmt.fp32.nanCode else if x.below y then b else a

/-- Fold a non-empty list from the left. -/
def foldFrom (ty : Nat) : List Nat → Nat
  | [] => 0
  | a :: rest => rest.foldl (collStep ty) a

/-- Element i of an array of w-byte elements. -/
def elemAt (w x i : Nat) : Nat := x / 2 ^ (8 * w * i) % 2 ^ (8 * w)

/-- An array of w-byte elements as one number. -/
def packElems (w : Nat) (l : List Nat) : Nat := l.foldr (fun e acc => e % 2 ^ (8 * w) + 2 ^ (8 * w) * acc) 0

/-- Combine two of the values, which the result replaces at the front. -/
def mergeTwo (ty i j : Nat) (l : List Nat) : List Nat :=
  if i < l.length && j < l.length && i != j then
    collStep ty (l.getD i 0) (l.getD j 0) :: (l.eraseIdx (max i j)).eraseIdx (min i j)
  else l

/-- Combine pairwise in the order that the device chooses, given as the places of each pair in turn (R409, DESIGN
CHOICE, log 36). -/
def foldTree (ty : Nat) : List Nat → List Nat → List Nat
  | i :: j :: rest, l => foldTree ty rest (mergeTwo ty i j l)
  | _, l => l

/-- What the collective writes, from the members' contributions (R409). -/
def collResult (c : CollDesc) (n m : Nat) (order : List Nat) (src : Nat → Nat) : Nat :=
  let w := collWidth c.ty
  let mix (i : Nat) : Nat := foldFrom c.ty (foldTree c.ty order ((List.range n).map (fun k => elemAt w (src k) i)))
  match c.op with
  | 0 => packElems w ((List.range c.cnt).map mix)
  | 1 => packElems w ((List.range (c.cnt / n)).map (fun i => mix (m * (c.cnt / n) + i)))
  | 2 => packElems w ((List.range n).flatMap (fun k => (List.range c.cnt).map (elemAt w (src k))))
  | _ => packElems w ((List.range c.cnt).map (elemAt w (src c.root)))

/-- The collective's data movement, once every member is ready: its own SRC is read, and DST written with the combination;
`contribs` are the other members' SRC (R409–R411) (DESIGN CHOICE, log 37). -/
def State.moveColl (s : State) (r : Running) (contribs : List (List Byte)) (order : List Nat) : State :=
  let n := r.stations.length
  let bytes := r.c.bytes n
  let own := r.c.op ≠ 3 || r.c.root = r.m
  match (if own then State.gatherParts (s.collActor r) (lineParts r.c.src (collWidth r.c.ty * r.c.cnt)) s else (.got 0, s)) with
  | (.fails va k, s) => s.failRange r.gid r.o.id 3 va k
  | (.waits, s) => s
  | (.got mine, s) =>
    let src (k : Nat) : Nat := if k = r.m then mine else leVal (contribs.getD k [])
    match State.reachAll (s.collActor r) true (lineParts r.c.dst bytes) s with
    | (.inl (va, k), s) => s.failRange r.gid r.o.id 4 va k
    | (.inr l, s) => s.collWrite r (collResult r.c n r.m order src) (statusWord bytes 0) 2 l

/-- COLL_COMPLETE (R409–R411): `contribs` none says that a member was lost. It moves data once the stores of its commit, and writes of
its own that a fault has cut short, are performed. -/
def execCollComplete (p set_ tag : Nat) (contribs : Option (List (List Byte))) (order : List Nat) (s : State) : Res :=
  let key := collKey set_ tag
  .next (match s.running p set_ tag with
  | none => s
  | some r =>
    if s.isSaved r.g then s
    else if 2 ≤ r.o.progress && r.o.lanes.any (fun q => q.st == .waiting) then s.collWritten p key r
    else if s.lostMember p r.stations || contribs.isNone then s.collLost r
    else if !r.o.lanes.any (fun q => q.st == .waiting) || s.unperformedBefore r.g.block ((r.o.lanes.map LaneReq.data).headD 0)
        || !s.writesDone r.gid r.o.id then s
    else if (s.part p).allReady key r.stations.length r.m then s.moveColl r (contribs.getD []) order
    else s)

/-! ## Evidence (R412–R414) -/

/-- The map digest: PPM reads as 0, an entry with V = 0 as zeros. -/
def Partition.mapBytes (p : Partition) : List Byte :=
  if !p.valid then List.replicate 1024 0#8
  else
    let w0 := p.map.getD 0 0#64 &&& ~~~(0xFF#64 <<< 48)
    (w0 :: p.map.drop 1).flatMap (fun w => leBytes 8 w.toNat)

def State.mapDigest (s : State) : List Byte :=
  shake256 ((List.range 8).flatMap (fun p => (s.part p).mapBytes))

/-- Insert into a rising list. -/
def insertUp (x : Nat) : List Nat → List Nat
  | [] => [x]
  | y :: rest => if x < y then x :: y :: rest else if x = y then y :: rest else y :: insertUp x rest

/-- The resident protected contexts, rising: those that key slots are bound to, at most 96. -/
def State.contextIds (s : State) : List Nat :=
  ((AMap.vals s.keys).filterMap (fun k => if k.revoked then none else k.context)).foldl (fun l x => insertUp x l) []

/-- The inputs of the device's evidence under a nonce (R412). -/
def State.evidenceInputs (s : State) (nonce : List Byte) : List Byte :=
  s.measurement ++ leBytes 64 Config.fuseDigest.toNat ++ s.mapDigest ++ leBytes 4 s.contextIds.length
    ++ s.contextIds.flatMap (leBytes 4) ++ nonce

def hash (l : List Byte) : List Byte := shake256 l

def State.evidence (s : State) (nonce : List Byte) : List Byte := hash (s.evidenceInputs nonce)

/-- EVIDENCE_REQUEST (R414): the evidence is the device's, of no partition and so in no partition's slot: the fabric controller answers
for itself (DESIGN CHOICE, log 84). -/
def execEvidenceRequest (peer : Nat) (nonce : List Byte) (s : State) : Res :=
  .next { s with replies := s.replies ++ [{ toPeer := some peer, tag := 0, data := s.evidence nonce, abort := false }] }

/-- The leaf of a member (R413). -/
def leafOf (station : Nat) (evidence : List Byte) : List Byte := hash (0#8 :: leBytes 4 station ++ evidence)

/-- The next level of the tree. -/
def nextLevel : List (List Byte) → List (List Byte)
  | a :: b :: rest => hash (1#8 :: a ++ b) :: nextLevel rest
  | l => l

/-- The root, and the path of node i: each entry a side and a sibling. -/
def merkle : Nat → List (List Byte) → Nat → List Byte × List (Bool × List Byte)
  | 0, l, _ => (l.headD [], [])
  | n + 1, l, i =>
    if l.length ≤ 1 then (l.headD [], [])
    else
      let (root, path) := merkle n (nextLevel l) (i / 2)
      if i % 2 = 1 then (root, (false, l.getD (i - 1) []) :: path)
      else if i + 1 < l.length then (root, (true, l.getD (i + 1) []) :: path)
      else (root, path)

/-- The output of ATTEST (Table 22.4). -/
def attestOutput (root nonce : List Byte) (n leader : Nat) (signature : List Byte) (k : Nat) (inputs : List Byte) (c : Nat)
    (path : List (Bool × List Byte)) : List Byte :=
  root ++ nonce ++ leBytes 4 n ++ leBytes 4 leader ++ signature ++ leBytes 2 0 ++ leBytes 4 k ++ leBytes 4 path.length
    ++ leBytes 4 c ++ leBytes 4 (228 + 4 * c) ++ leBytes 8 0 ++ inputs
    ++ path.flatMap (fun e => (if e.1 then 1#8 else 0#8) :: e.2)

/-- The evidence of every member: the device's own, and for the others what they send, free values here (DESIGN
CHOICE, log 18). -/
def State.gather (own : List Byte) (m : Nat) : Nat → List Nat → State → List (List Byte) × State
  | _, [], s => ([], s)
  | k, _ :: rest, s =>
    let (e, s) : List Byte × State := if k = m then (own, s) else
      let (x, s) := State.freshBytes 4 s
      (leBytes 64 x, s)
    let (l, s) := State.gather own m (k + 1) rest s
    (e :: l, s)

/-- ATTEST's effect once every member has answered (R414): the leader signs with its own key; another member's output
carries the leader's signature, a free value here. -/
def State.attestNow (s : State) (p : Nat) (nonce : List Byte) (outIa : Nat) (stations : List Nat) (m : Nat) : State :=
  let inputs := s.evidenceInputs nonce
  let (ev, s) := State.gather (hash inputs) m 0 stations s
  let leaves := (stations.zip ev).map (fun e => leafOf e.1 e.2)
  let (root, path) := merkle 11 leaves m
  let n := stations.length
  let (sig, s) : List Byte × State :=
    if m = 0 then (ed448Sign s.identity (root ++ nonce ++ leBytes 4 n), s)
    else
      let (x, s) := State.freshBytes 8 s
      (leBytes 114 x, s)
  State.deviceStore .image p (attestOutput root nonce n (stations.headD 0) sig m inputs s.contextIds.length path) outIa s

end Sys2Proof.Machine
end

