-- ==== Sys2Proof/Machine/Host.lean ====
section
/-! DEFINITION. What the host does to a partition: commands and their ends (R130, R133, R372, R383, R407, R414, R417),
invalidations (R348, R352), the registers of its management window and the record ports (R315, R369, R382, R384, R401),
bounce-buffer channels (R383), accesses through the IA window (R370, R371, R416). -/

namespace Sys2Proof.Machine

/-! ## Commands (R372) -/

def Partition.arg (q : Partition) (n : Nat) : Nat := (q.parg.getD n 0#64).toNat

/-- PSTAT: the code in bits 7–0, the value in bits 63–32. -/
def pstatWord (value code : Nat) : BitVec 64 := BitVec.ofNat 64 (value % 2 ^ 32 * 2 ^ 32 + code % 256)

/-- A write of PCMD (R372): ignored while a command is busy. `result` is a code that already stands against it. -/
def startCommand (s : State) (p code : Nat) (result value : Partition → Nat) (f : Partition → Partition) : Res :=
  onHost s p (fun q =>
    if q.cmd.isSome then s
    else
      let r := result q
      let q' := if r = 0 then f q else q
      let c : Cmd := { code := code, result := r, value := value q, args := q.parg }
      s.setPart p { q' with pcmd := BitVec.ofNat 64 code, pstat := pstatWord 0 1, cmd := some c })

/-- What a command of the partition has read, or has still to read, goes. -/
def State.withdraw (s : State) (p : Nat) : State :=
  (s.reqs.filter (fun e => e.2.part == p && (e.2.src == .device .table || e.2.src == .device .data))).foldl
    (fun s e => (s.unqueue e.1).dropReq e.1) s

/-- A command's end (R372): PSTAT takes its result and vector 2 is raised. -/
def State.endCmd (s : State) (p result value : Nat) : State :=
  let s := s.withdraw p
  let q := s.part p
  s.setPart p { q with pstat := pstatWord value result, cmd := none, irqs := q.irqs ++ [2] }

/-! ### Stamps -/

/-- Reserved bits of a descriptor (Table 6.2). -/
def Desc.reserved (d : Desc) : Bool :=
  bits d.w0 11 4 != 0 || bits d.w0 63 57 != 0 || bits d.w1 11 0 != 0 || bits d.w1 63 57 != 0 || bits d.w2 11 2 != 0
    || bits d.w2 63 56 != 0 || bits d.w3 63 8 != 0

/-- A valid descriptor keeps R130; `dies` is the number of dies the partition holds. -/
def Desc.ok (d : Desc) (dies : Nat) : Bool :=
  !d.v || (decide (d.vbase < d.vend) && decide (d.iabase + (d.vend - d.vbase) ≤ 2 ^ 56) && d.cap != 3
    && d.home % 2 ^ dies != 0 && !bitAt d.w0 3 && !d.reserved)

/-- The words of a table's descriptors, the first of them number i: or the index of the first that cannot be read, which raises no
record (Table 20.4), or breaks R130. -/
def tableWords (dies : Nat) : Nat → List (Option Nat) → Sum Nat (List Nat)
  | _, [] => .inr []
  | i, none :: _ => .inl i
  | i, some x :: rest =>
    let d : Desc := ⟨bits x 63 0, bits x 127 64, bits x 191 128, bits x 255 192⟩
    if !d.ok dies then .inl i
    else
      match tableWords dies (i + 1) rest with
      | .inr l => .inr (d.w0 :: d.w1 :: d.w2 :: d.w3 :: l)
      | .inl e => .inl e

/-- Read the range table at an IA: 32 descriptors, each a sector; none while some have still to come. -/
def State.readTable (p ia : Nat) (s : State) : Option (Sum Nat (List Nat)) × State :=
  let l := sectorParts ia 1024
  let s := s.deviceAsk .table p l
  ((s.deviceCame .table p l).map (tableWords (s.dies p).length 0), s)

def stampOk (x : Nat) : Bool := decide (1 ≤ x) && decide (x ≤ 0xFFFF)

/-- A range-table address: 1 KiB aligned. -/
def tableOk (ia : Nat) : Bool := ia % 1024 == 0 && decide (ia < 2 ^ 56)

/-- The postmaster holds the context for the partition: a key slot is bound to it (DEDUCED, log 31). -/
def State.holdsContext (s : State) (p ctx : Nat) : Bool :=
  s.keys.any (fun e => e.2.part == p && e.2.context == some ctx && !e.2.revoked)

/-- STAMPREG's code before its table is read (Tables 20.3 and 20.4) (DEDUCED, log 49). -/
def State.stampregCode (s : State) (p : Nat) (q : Partition) : Nat :=
  let a := q.arg 2
  if !stampOk (q.arg 0) || !tableOk (q.arg 1) || bits a 1 0 == 3 || q.arg 3 % 32 != 0 || !(decide (4 ≤ q.arg 4) && decide (q.arg 4 ≤ 16)) then
    0x02
  else if (AMap.find (q.arg 0) q.stamps).isSome then 0x03
  else if bitAt a 16 && !q.mayProt then 0x04
  else if bitAt a 16 && bits a 15 8 != 0 then 0x06
  else if bitAt a 16 && !s.holdsContext p (bits a 47 32) then 0x04 else 0

/-- STAMPREG (R372). -/
def execStampreg (p : Nat) (s : State) : Res := startCommand s p 0x01 (s.stampregCode p) (fun _ => 0) id

/-- STAMPDEL (R372). -/
def execStampdel (p : Nat) (s : State) : Res :=
  startCommand s p 0x02 (fun q => if !stampOk (q.arg 0) then 0x02 else if (AMap.find (q.arg 0) q.stamps).isNone then 0x03 else 0)
    (fun _ => 0) id

/-- RANGEINV (R133): its table is read before it ends. -/
def execRangeinv (p : Nat) (s : State) : Res :=
  startCommand s p 0x03 (fun q =>
    if (AMap.find (q.arg 0) q.stamps).isNone then (if stampOk (q.arg 0) then 0x03 else 0x02) else if tableOk (q.arg 1) then 0 else 0x02)
    (fun _ => 0) id

/-! ### Memory, graphs, channels, sets, evidence -/

/-- The 1 GiB ranges of n granules from a PA on. -/
def rangesOf (pa n : Nat) : List Nat :=
  (List.range ((pa % 2 ^ 30 + 4096 * n + 2 ^ 30 - 1) / 2 ^ 30)).map (fun i => pa + 2 ^ 30 * i)

/-- ZEROFILL's code: every granule names memory that the partition owns. -/
def Partition.zerofillCode (q : Partition) : Nat :=
  let pa := q.arg 0
  let n := q.arg 1
  if pa % 4096 ≠ 0 || 2 ^ 51 ≤ pa || n = 0 then 0x02
  else
    let l := rangesOf pa n
    if l.any (fun a => bits a 51 46 != 0 || bits a 40 36 != 0) then 0x02
    else if l.all (fun a => q.owns (64 * bits a 45 41 + bits a 35 30)) then 0 else 0x04

/-- ZEROFILL (R372). -/
def execZerofill (p : Nat) (s : State) : Res := startCommand s p 0x04 Partition.zerofillCode (fun _ => 0) id

/-- LOAD (R374): validation and placement come once the binary is read. -/
def execLoad (p : Nat) (s : State) : Res := startCommand s p 0x05 (fun _ => 0) (fun _ => 0) id

/-- UNLOAD (R417): from here on the graph takes no record. -/
def execUnload (p : Nat) (s : State) : Res :=
  startCommand s p 0x06 (fun q => if (AMap.find (q.arg 0) q.graphs).isNone then 0x02 else 0) (fun _ => 0)
    (fun q => { q with graphs := AMap.adj (q.arg 0) (fun g => { g with unloading := true }) q.graphs })

/-- CHANREG's code. -/
def State.chanregCode (s : State) (p : Nat) (q : Partition) : Nat :=
  let slot := q.arg 2
  if 2 ^ 32 ≤ q.arg 0 || !stampOk (q.arg 1) || slot = 0 || 255 < slot then 0x02
  else if (AMap.find (q.arg 0) q.channels).isSome || (AMap.find (q.arg 1) q.stamps).isNone then 0x03
  else match AMap.find slot s.keys with
    | some k => if k.part == p && !k.revoked then 0 else 0x04
    | none => 0x04

/-- CHANREG (R383). -/
def execChanreg (p : Nat) (s : State) : Res := startCommand s p 0x07 (s.chanregCode p) (fun _ => 0) id

/-- ATTEST (R414). -/
def execAttest (p : Nat) (s : State) : Res :=
  startCommand s p 0x08 (fun q => if (AMap.find (q.arg 2) q.sets).isNone then 0x02 else 0) (fun _ => 0)
    (fun q => { q with attest := some s.netClock })

/-- COLLSET (R407). -/
def execCollset (p : Nat) (s : State) : Res :=
  startCommand s p 0x09 (fun q => if q.arg 2 < 2 || 1024 < q.arg 2 then 0x02 else 0) (fun _ => 0) id

/-! ### Ends of commands (Table 20.3) -/

/-- A record of a stamp waits, or a group holds it, or a channel is its, or a completion record of it is still to be written. -/
def State.stampBusy (s : State) (p stamp : Nat) : Bool :=
  let q := s.part p
  q.graphs.any (fun e => e.2.sacks.any (fun k => k.2.any (fun r => r.stamp == stamp)))
    || q.batches.any (fun e => e.2.slots.any (fun l => l.any (fun r => r.stamp == stamp)))
    || s.groups.any (fun e => e.2.stamps.contains stamp && match s.blockOf e.2 with
        | some b => b.part == p
        | none => false)
    || q.channels.any (fun e => e.2.owner == stamp) || s.reports.any (fun r => r.part == p && r.stamp == stamp)
    || s.deviceBusy p (.record stamp)

/-- No core holds a table of the stamp any more. -/
def State.dropRanges (s : State) (p stamp : Nat) : State :=
  { s with cores := s.cores.map (fun e => (e.1, { e.2 with ranges := e.2.ranges.filter (fun r => r.1 != 65536 * p + stamp) })) }

/-- An access translated under a stamp's table has not left its core (R133). -/
def State.translating (s : State) (p stamp : Nat) : Bool :=
  s.groups.any (fun e => (match s.blockOf e.2 with
    | some b => b.part == p
    | none => false) && e.2.ops.any (fun o => !o.complete && o.lanes.any (fun r =>
      r.st == .waiting && (o.stamp == stamp || e.2.reqStamp o r == stamp))))

/-- Zero-fill (R357, R372): zeros, no poison, sequence counts 0, no cached block. -/
def State.zeroFill (s : State) (pa n : Nat) : State :=
  let inside (a : Nat) : Bool := decide (pa ≤ a) && decide (a < pa + 4096 * n)
  let tags := (List.range (64 * n)).foldl (fun t i => Sparse.set 0 t (pa / 64 + i) zeroTag) s.keyTags
  { s with mem := s.mem.filter (fun e => !inside e.1), poison := s.poison.filter (fun e => !inside (32 * e.1)),
           seqs := s.seqs.filter (fun e => !inside (128 * e.1)), keyTags := tags, l2 := s.l2.filter (fun e => !inside e.2.pa) }

/-- No record or block of a graph remains. -/
def State.graphDone (s : State) (p h : Nat) : Bool :=
  let q := s.part p
  let sacks := match AMap.find h q.graphs with
    | some g => g.sacks.all (fun e => e.2.isEmpty)
    | none => true
  sacks && !q.batches.any (fun e => e.2.graph == h) && !s.blocks.any (fun e => e.2.part == p && e.2.graph == h)

/-- A command has done what it does, and ends once what it awaits has come. -/
def State.markEnd (s : State) (p : Nat) (c : Cmd) (result value : Nat) (graph : Option Graph) : State :=
  s.setPart p { s.part p with cmd := some { c with ended := some (result, value), graph := graph } }

/-- Register a stamp, once its table is read. -/
def State.addStamp (s : State) (p : Nat) (c : Cmd) : State :=
  let arg (n : Nat) : Nat := (c.args.getD n 0#64).toNat
  match State.readTable p (arg 1) s with
  | (none, s) => s
  | (some (.inl i), s) => s.endCmd p 0x05 i
  | (some (.inr l), s) =>
    let a := arg 2
    let r : StampReg :=
      { table := arg 1, cls := bits a 1 0, hh := bits a 15 8, prot := bitAt a 16, context := bits a 47 32, ring := arg 3,
        logSize := arg 4, serial := 0, descs := l, oldTable := none }
    let q := s.part p
    (s.setPart p { q with stamps := AMap.put (arg 0) r q.stamps }).endCmd p 0 0

/-- Replace a stamp's table, once the new one is read: it stands from here on; cores still hold the old one until the end (R133). -/
def State.newTable (s : State) (p : Nat) (c : Cmd) : State :=
  let arg (n : Nat) : Nat := (c.args.getD n 0#64).toNat
  match State.readTable p (arg 1) s with
  | (none, s) => s
  | (some (.inl i), s) => s.endCmd p 0x05 i
  | (some (.inr l), s) =>
    let q := s.part p
    (s.setPart p { q with
      stamps := AMap.adj (arg 0) (fun r => { r with table := arg 1, descs := l, oldTable := some r.descs }) q.stamps }).markEnd p c 0 0 none

/-- Hold a member set: its list is read from memory (R407). -/
def State.addSet (s : State) (p : Nat) (c : Cmd) : State :=
  let arg (n : Nat) : Nat := (c.args.getD n 0#64).toNat
  match State.deviceBytes p (4 * arg 2) (arg 1) s with
  | (none, s) => s
  | (some l, s) =>
    let stations := (List.range (arg 2)).map (fun i => field l (4 * i) 4)
    match memberIndex stations s.station.toNat with
    | none => s.endCmd p 0x02 0
    | some m =>
      let q := s.part p
      (s.setPart p { q with sets := AMap.put (arg 0) (stations, arg 3 % 2 ^ 32) q.sets }).endCmd p 0 m

/-- LOAD (R374): once the binary is read it is checked, and a graph that passes is stored; it takes records from the command's end on. -/
def State.loadGraph (s : State) (p : Nat) (c : Cmd) : State :=
  let arg (n : Nat) : Nat := (c.args.getD n 0#64).toNat
  match State.deviceBytes p (arg 1) (arg 0) s with
  | (none, s) => s
  | (some l, s) =>
    match s.loadCheck p l with
    | .inl (code, value) => s.endCmd p code value
    | .inr x =>
      (s.fillAll p x.binary x.ias).markEnd p c 0 (x.handle + 256 * x.first) (some (x.binary.graph x.ias x.first))

def State.endAttest (s : State) (p : Nat) : State := s.setPart p { s.part p with attest := none }

/-- ATTEST (R414): once the nonce is read and every member has answered, its output is written. -/
def State.attest (s : State) (p : Nat) (c : Cmd) : State :=
  let arg (n : Nat) : Nat := (c.args.getD n 0#64).toNat
  match AMap.find (arg 2) (s.part p).sets with
  | none => s.endCmd p 0x02 0
  | some (l, _) =>
    match memberIndex l s.station.toNat, State.deviceBytes p 32 (arg 0) s with
    | none, _ => s.endCmd p 0x02 0
    | some _, (none, s) => s
    | some m, (some nonce, s) => ((s.attestNow p nonce (arg 1) l m).endAttest p).markEnd p c 0 0 none

/-- What a command does, and its end, if it can end now. -/
def State.finish (s : State) (p : Nat) (c : Cmd) : State :=
  let arg (n : Nat) : Nat := (c.args.getD n 0#64).toNat
  let q := s.part p
  match c.code with
  | 0x01 => s.addStamp p c
  | 0x02 =>
    if s.stampBusy p (arg 0) then s
    else (((s.setPart p { q with stamps := AMap.del (arg 0) q.stamps }).dropRanges p (arg 0))).endCmd p 0 0
  | 0x03 => s.newTable p c
  | 0x04 => (s.zeroFill (arg 0) (arg 1)).endCmd p 0 0
  | 0x05 => s.loadGraph p c
  | 0x06 =>
    if !s.graphDone p (arg 0) then s
    else (s.setPart p { q with graphs := AMap.del (arg 0) q.graphs }).endCmd p 0 0
  | 0x07 =>
    (s.setPart p { q with channels := AMap.put (arg 0) { owner := arg 1, key := arg 2, last := 0, cmds := [] } q.channels }).endCmd p 0 0
  | 0x08 => s.attest p c
  | 0x09 => s.addSet p c
  | _ => s.endCmd p 0x02 0

/-- The end of a command that has done its work: of RANGEINV once the conditions of R133 hold, of LOAD and ATTEST once what they store
is performed at its homes. -/
def State.close (s : State) (p : Nat) (c : Cmd) (result value : Nat) : State :=
  let stamp := (c.args.getD 0 0#64).toNat
  let q := s.part p
  if c.code = 0x03 then
    if s.translating p stamp then s
    else
      let s := s.setPart p { q with stamps := AMap.adj stamp (fun r => { r with oldTable := none }) q.stamps }
      (s.dropRanges p stamp).endCmd p result value
  else if s.deviceBusy p .image then s
  else match c.graph with
    | none => s.endCmd p result value
    | some g =>
      (s.setPart p { q.zeroSlots g.firstSlot g.nodes.length with graphs := AMap.put (value % 256) g q.graphs }).endCmd p result value

/-- COMMAND_END (R372): it may come again and again: a command asks for what it reads, and goes on once that has come. -/
def execCommandEnd (p : Nat) (s : State) : Res :=
  .next (match (s.part p).cmd with
  | none => s
  | some c =>
    if c.result ≠ 0 then s.endCmd p c.result c.value
    else match c.ended with
      | some (result, value) => s.close p c result value
      | none => s.finish p c)

/-- ATTEST_MEMBER_TIMEOUT (R414): 2 × FTMO have passed. -/
def execAttestMemberTimeout (p : Nat) (s : State) : Res :=
  let q := s.part p
  .next (match q.attest with
  | none => s
  | some t => if t + 500 * s.ftmo.toNat ≤ s.netClock then (s.setPart p { q with attest := none }).endCmd p 0x02 0 else s)

/-! ## Invalidations (R348, R352) -/

/-- A write of TLBICMD with the command of a row: it takes its serial at once, and reaches the TLBs behind the posted writes before
it (R387); its reserved bits read as 0 (R4). -/
def writeTlbi (p kind : Nat) (val : BitVec 64) (s : State) : Res :=
  onHost s p (fun q =>
    if val.toNat % 4 = kind then
      let val := val &&& 0x000FFFFFFFFFFFF3#64
      (s.setPart p { q with tlbicmd := val, issued := q.issued + 1 }).postWrite p (.tlbi val (q.issued + 1))
    else s)

/-- TLBI_ALL (R352). -/
def execTlbiAll (p : Nat) (val : BitVec 64) (s : State) : Res := writeTlbi p 0 val s

/-- TLBI_STAGE1_RANGE (R352); ADDR gives bits 51–12 of the first granule. -/
def execTlbiStage1Range (p : Nat) (val : BitVec 64) (s : State) : Res := writeTlbi p 1 val s

/-- TLBI_STAGE2_RANGE (R352): every translation built from a covered guest granule. -/
def execTlbiStage2Range (p : Nat) (val : BitVec 64) (s : State) : Res := writeTlbi p 2 val s

/-- TLBI_DONE (R352): the oldest invalidation with a serial is done, and those of translation registers that stand before it. -/
def State.tlbiDone (s : State) (p : Nat) : List Inval → Option (List Inval × BitVec 32)
  | [] => none
  | i :: rest =>
    if !s.invalMet i then none
    else match i.serial with
      | some n => some (rest, n)
      | none => s.tlbiDone p rest

def execTlbiDone (p : Nat) (s : State) : Res :=
  let q := s.part p
  .next (match s.tlbiDone p q.invals with
  | none => s
  | some (rest, n) => s.setPart p { q with invals := rest, tlbiDone := n })

/-- TTB_WRITE (R348): reserved bits are ignored, and the whole partition is invalidated. -/
def execTtbWrite (p : Nat) (second : Bool) (val : BitVec 64) (s : State) : Res :=
  .next (if second then
    let q := s.part p
    (s.setPart p { q with ttb2 := val &&& 0x000FFFFFFFF00001#64 }).invalidate p 0 none
  else if s.mayAccess p then
    let q := s.part p
    (s.setPart p { q with ttb1 := val &&& 0x000FFFFFFFF00000#64 }).invalidate p 0 none
  else s)

/-! ## Counters and gauges (R315, R384) -/

/-- The physical unit of a partition's dense number (R9, R365). -/
def State.gaugeUnit (s : State) (u : GaugeRef) : Option Nat :=
  if u.slice then ((List.range 640).filter (s.hasSlice u.part))[u.unit]? else ((List.range 384).filter (s.hasCore u.part))[u.unit]?

/-- The gauge whose registers stand at an offset of BAR 0: 128 bytes a gauge, four gauges a unit, the cores before the slices
(DESIGN CHOICE, log 81). -/
def gaugeAt (p off : Nat) : Option GaugeRef :=
  let n := (off - 0x100000) / 512
  if off < 0x100000 || 1024 ≤ n then none
  else some { part := p, slice := decide (384 ≤ n), unit := if n < 384 then n else n - 384, index := off / 128 % 4 }

/-- The gauges of a physical core or slice. -/
def State.gaugesOf (s : State) (slice : Bool) (unit : Nat) : AMap Gauge :=
  if slice then (AMap.find unit s.sliceGauges).getD [] else (s.core unit).gauges

def State.gauge (s : State) (slice : Bool) (unit index : Nat) : Gauge :=
  (AMap.find (index % 4) (s.gaugesOf slice unit)).getD Gauge.reset

def State.setGauge (s : State) (slice : Bool) (unit index : Nat) (g : Gauge) : State :=
  let m := AMap.put (index % 4) g (s.gaugesOf slice unit)
  if slice then { s with sliceGauges := AMap.put unit m s.sliceGauges }
  else s.setCore unit { s.core unit with gauges := m }

/-- A write of GCFG. -/
def Gauge.write (g : Gauge) (v : Nat) : Gauge :=
  let g := if bitAt v 30 then { Gauge.reset with en := g.en, src := g.src } else g
  { g with en := bitAt v 31, src := v % 256 }

/-- GAUGE_CLEAR (R315): a write of GCFG of a unit in the partition's own numbering; with CLR the minimum, maximum and
histogram are reset. -/
def execGaugeClear (u : GaugeRef) (val : BitVec 32) (s : State) : Res :=
  onHost s u.part (fun _ =>
    match s.gaugeUnit u with
    | some n => s.setGauge u.slice n u.index ((s.gauge u.slice n u.index).write val.toNat)
    | none => s)

/-- The queue quantity that a gauge of a unit samples: pending ready groups, or requests at the slice. -/
def State.queueOf (s : State) (slice : Bool) (unit : Nat) : Nat × Nat :=
  if slice then (0x10, (s.reqs.filter (fun e => e.2.home == unit && e.2.st == .arrived)).length)
  else (0x04, ((s.groupsOn unit).filter (fun e => !e.2.inActive && !s.waits e.2)).length)

/-- GAUGE_QUEUE_SAMPLE (R315). -/
def execGaugeQueueSample (u : UnitGauge) (s : State) : Res :=
  let (src, v) := s.queueOf u.slice u.unit
  .next (s.setGauge u.slice u.unit u.index ((s.gauge u.slice u.unit u.index).sample src v))

/-- EXCEPTION_COUNTER_CLEAR (R384). -/
def execExceptionCounterClear (p slot fmt kind : Nat) (s : State) : Res :=
  onHost s p (fun q => s.setPart p { q with counters := AMap.del (32 * slot + 4 * (fmt % 8) + kind % 4) q.counters })

/-- EMITLOST_CLEAR (R384). -/
def execEmitlostClear (p slot : Nat) (s : State) : Res :=
  onHost s p (fun q => s.setPart p { q with emitlost := AMap.del slot q.emitlost })

/-- XARM_WRITE (R384). -/
def execXarmWrite (p n : Nat) (val : BitVec 64) (s : State) : Res :=
  onHost s p (fun q => s.setPart p { q with xarm := q.xarm.set n (q.xarm.getD n 0#64 ||| val) })

/-! ## Plain registers (R4, R382, R386, R401) -/

/-- Store eight bytes into a port slot. -/
def PortSlot.write (x : PortSlot) (off : Nat) (val : BitVec 64) : PortSlot := { x with bytes := patchBytes x.bytes off 8 val.toNat }

/-- A 64-bit write into BAR 0 of a partition that starts nothing. -/
def Partition.writeReg (q : Partition) (off : Nat) (val : BitVec 64) : Partition :=
  if 0x08 ≤ off && off ≤ 0x30 && off % 8 == 0 then { q with parg := q.parg.set (off / 8 - 1) val }
  else if off = 0x1148 then { q with xthr := val }
  else if 0x2080 ≤ off && off ≤ 0x20F8 && off % 8 == 0 then { q with peerin := q.peerin.set ((off - 0x2080) / 8) val }
  else q

/-- Bytes of a slot that a plain write reaches: a record slot's payload, or slot 31's fields before the start word. -/
def plainByte (slot off : Nat) : Bool := off % 8 == 0 && (if slot = 31 then decide (off < 32) else decide (off < 64))

/-- A write of PCMD (R372): the code in bits 7–0 starts its command; a reserved code ends with 0x02. -/
def writePcmd (p : Nat) (val : BitVec 64) (s : State) : Res :=
  match val.toNat % 256 with
  | 1 => execStampreg p s
  | 2 => execStampdel p s
  | 3 => execRangeinv p s
  | 4 => execZerofill p s
  | 5 => execLoad p s
  | 6 => execUnload p s
  | 7 => execChanreg p s
  | 8 => execAttest p s
  | 9 => execCollset p s
  | code => startCommand s p code (fun _ => 0x02) (fun _ => 0) id

/-- A write of a register of BAR 0 (Table 20.2): a command, a table base, an invalidation, REPLAY, arming bits, QOPEN, a
counter, a gauge's GCFG, or plain storage; TTB2 is the postmaster's to write (R348). -/
def writeBar0 (p off : Nat) (val : BitVec 64) (s : State) : Res :=
  if off = 0x00 then writePcmd p val s
  else if off = 0x1000 then execTtbWrite p false val s
  else if off = 0x1010 then
    if val.toNat % 4 = 0 then execTlbiAll p val s
    else if val.toNat % 4 = 1 then execTlbiStage1Range p val s
    else if val.toNat % 4 = 2 then execTlbiStage2Range p val s
    else .next s
  else if off = 0x1140 then execReplay p s
  else if 0x1150 ≤ off && off ≤ 0x11C8 && off % 8 == 0 then execXarmWrite p ((off - 0x1150) / 8) val s
  else if off = 0x2100 then (if bitAt val.toNat 63 then execQopenAll p s else execQopenId p (bits val.toNat 9 0) s)
  else if 0x10000 ≤ off && off < 0x30000 then
    execExceptionCounterClear p ((off - 0x10000) / 128) ((off - 0x10000) / 16) ((off - 0x10000) / 4) s
  else if 0x30000 ≤ off && off < 0x31000 then execEmitlostClear p ((off - 0x30000) / 4) s
  else if off % 128 = 0 && (gaugeAt p off).isSome then
    match gaugeAt p off with
    | some u => execGaugeClear u (val.setWidth 32) s
    | none => .next s
  else onHost s p (fun q => s.setPart p (q.writeReg off val))

/-- REGISTER_WRITE (R4): reserved fields are ignored; POWLIM and FTMO keep their ranges (a value outside leaves them as
they are, DESIGN CHOICE, log 30). -/
def execRegisterWrite (r : RegRef) (val : BitVec 64) (s : State) : Res :=
  match r with
  | .bar0 p off => writeBar0 p off val s
  | .port p stamp off =>
    onHost s p (fun q =>
      let slot := off / 128
      if slot < 32 && plainByte slot (off % 128) then
        s.setPart p { q with ports := AMap.put (portKey stamp slot) ((q.slot stamp slot).write (off % 128) val) q.ports }
      else s)
  | .bar4 p =>
    .next (if p < 8 && (List.range 5).any (fun k => val.toNat == 2 ^ (36 + k)) then s.setPart p { s.part p with bar4 := val.toNat } else s)
  | .powlim => .next (if 1000 ≤ val.toNat && val.toNat ≤ 5200 then { s with powlim := val } else s)
  | .ftmo => .next (if 20 ≤ val.toNat && val.toNat ≤ 10000000 then { s with ftmo := val } else s)

/-! ## Bounce-buffer channels (R383) -/

/-- Fields of slot 31 (Table 20.11). -/
structure ChanCmd where
  host : Nat
  dst : Nat
  len : Nat
  chan : Nat
  counter : Nat
  deriving DecidableEq, Repr

def PortSlot.command (x : PortSlot) : ChanCmd :=
  { host := field x.bytes 0 8, dst := field x.bytes 8 8, len := field x.bytes 16 4, chan := field x.bytes 20 4,
    counter := field x.bytes 24 8 }

/-- The registered table of a stamp lets every granule of a destination be written (R131). -/
def State.writable (s : State) (p stamp va n : Nat) : Bool :=
  match AMap.find stamp (s.part p).stamps with
  | none => false
  | some r => (List.range ((va % 4096 + n + 4095) / 4096)).all (fun i =>
      match translate (descsOf r.descs) false true (va / 4096 * 4096 + 4096 * i) with
      | .ok _ _ _ => true
      | .fault _ => false)

/-- A channel's completion record (Table 20.9). -/
def State.reportChannel (s : State) (p stamp chan status bytes last : Nat) : State :=
  s.complete p stamp (fun serial logSize => completionRecord serial logSize true 0 stamp 0 status 0 chan 0 bytes last)

/-- CHANNEL_COMMAND (R383): a command that fails a check completes at once with its code. -/
def execChannelCommand (p stamp : Nat) (s : State) : Res :=
  onHost s p (fun q =>
    let c := (q.slot stamp 31).command
    match AMap.find c.chan q.channels with
    | none => s
    | some ch =>
      if ch.owner ≠ stamp then s
      else if c.counter ≤ ch.last then s.reportChannel p stamp c.chan 0x11 0 ch.last
      else if !s.writable p stamp c.dst c.len then s.reportChannel p stamp c.chan 0x12 0 ch.last
      else if c.len % 16 ≠ 0 || c.host % 16 ≠ 0 || c.dst % 16 ≠ 0 || 2 ^ 24 < c.len then s.reportChannel p stamp c.chan 0x14 0 ch.last
      else
        let op : ChanOp := { id := s.nextId, host := c.host, dst := c.dst, len := c.len, counter := c.counter, text := [], closing := none }
        let ch := { ch with last := c.counter, cmds := ch.cmds ++ [op] }
        State.setPart { s with nextId := s.nextId + 1 } p { q with channels := AMap.put c.chan ch q.channels })

/-- IV and AAD of a channel command: the fields of R383 in their order, each little-endian (DESIGN CHOICE, log 98). -/
def chanIv (chan counter : Nat) : List Byte := leBytes 4 chan ++ leBytes 8 counter
def chanAad (chan len dst : Nat) : List Byte := leBytes 4 chan ++ leBytes 4 len ++ leBytes 8 dst

/-- The key of a channel's slot. -/
def State.channelKey (s : State) (ch : Channel) : BitVec 512 :=
  match AMap.find ch.key s.keys with
  | some k => k.value
  | none => 0#512

/-- Where bytes of a channel's destination lie under its owner's registered table; a part that the table no longer admits is left out
(R131). -/
def State.chanRuns (s : State) (p stamp va n : Nat) : List Run :=
  match AMap.find stamp (s.part p).stamps with
  | none => []
  | some r => (lineParts va n).filterMap (fun e =>
      match translate (descsOf r.descs) false true e.1 with
      | .fault _ => none
      | .ok ia _ home => some { off := e.2.1, len := e.2.2, ia := ia, home := s.home p home ia })

/-- An engine writes bytes of a channel's destination, in bursts of up to 1 KiB, under its owner's stamp (R316, R319). A packet that
meets a fault raises its record, and the others are written (R353, DESIGN CHOICE, log 25). -/
def State.chanWrite (s : State) (p chan stamp va : Nat) (l : List Byte) : State :=
  (packRuns (s.chanRuns p stamp va l.length)).foldl (fun s e =>
    s.send { s.deviceReq (.channel chan) p e.ia (.write e.len (leVal ((l.drop e.off).take e.len)) true) with
      home := e.home, stamp := stamp, st := .transit, from_ := engineStation (s.hostEngine p) }) s

/-- A channel's oldest command, when its engine serves it and its writes so far are acknowledged (R316, R319). -/
def State.chanTurn (s : State) (p chan : Nat) : Option (Channel × ChanOp) :=
  match AMap.find chan (s.part p).channels with
  | none => none
  | some ch =>
    match ch.cmds with
    | [] => none
    | c :: _ => if s.turnAt p (s.hostEngine p) c.id && !s.deviceBusy p (.channel chan) then some (ch, c) else none

/-- The oldest command of a channel is now c. -/
def State.setChan (s : State) (p chan : Nat) (ch : Channel) (c : ChanOp) : State :=
  s.setPart p { s.part p with channels := AMap.put chan { ch with cmds := c :: ch.cmds.drop 1 } (s.part p).channels }

/-- The engine has read the next bytes of a channel's oldest command, a burst at most, and decrypts them into the destination (R383). -/
def State.channelRead (s : State) (p chan : Nat) (data : List Byte) : State :=
  match s.chanTurn p chan with
  | none => s
  | some (ch, c) =>
    if c.closing.isSome then s
    else
      let done := c.text.length
      let text := data.take (min 1024 (c.len - done))
      (s.setChan p chan ch { c with text := c.text ++ text }).chanWrite p chan ch.owner (c.dst + done)
        (gcmText (s.channelKey ch) (chanIv chan c.counter) done text)

/-- The oldest command of a channel is to end with a status, once its last writes are acknowledged: the rest of its text, or zeros over
the whole destination (R383). -/
def State.closeChannel (s : State) (p chan : Nat) (ch : Channel) (c : ChanOp) (status off : Nat) (l : List Byte) : State :=
  (s.setChan p chan ch { c with closing := some status }).chanWrite p chan ch.owner (c.dst + off) l

/-- The oldest command of a channel ends (R383). -/
def State.endChannel (s : State) (p chan : Nat) (ch : Channel) (c : ChanOp) (status : Nat) : State :=
  (s.setPart p { s.part p with channels := AMap.put chan { ch with cmds := ch.cmds.drop 1 } (s.part p).channels }).reportChannel p
    ch.owner chan status (if status = 0 then c.len else 0) ch.last

/-- CHANNEL_COMMAND_COMPLETE (R383): the oldest command of a channel goes to its end; `hostData` is the ciphertext and tag read from the
host, none when a read failed, of which what the engine has read already stands as it was read. -/
def execChannelCommandComplete (p chan : Nat) (hostData : Option (List Byte)) (s : State) : Res :=
  .next (match s.chanTurn p chan with
  | none => s
  | some (ch, c) =>
    match c.closing, hostData with
    | some status, _ => s.endChannel p chan ch c status
    | none, none => s.closeChannel p chan ch c 0x13 0 (List.replicate c.len 0#8)
    | none, some l =>
      let key := s.channelKey ch
      let iv := chanIv chan c.counter
      let done := c.text.length
      let text := c.text ++ (l.take c.len).drop done
      if gcmTag key iv (chanAad chan c.len c.dst) text = (l.drop c.len).take 16 then
        s.closeChannel p chan ch c 0x00 done ((gcmText key iv done (text.drop done)).take (c.len - done))
      else s.closeChannel p chan ch c 0x10 0 (List.replicate c.len 0#8))

/-! ## The IA window (R370, R371) -/

/-- An access through the IA window: it reaches the partition's function inside BAR 4; elsewhere a posted write is lost and any
other access completes with Unsupported Request (R369). -/
def onWindow (s : State) (p ia n : Nat) (posted : Bool) (f : State) : Res :=
  .next (if s.mayAccess p && decide (ia + n ≤ (s.part p).bar4) then f
  else if posted then s
  else { s with replies := s.replies ++ [{ toPeer := none, tag := s.nextId, data := [], abort := false, unsupported := true }],
                nextId := s.nextId + 1 })

/-- HOST_IA_WRITE (R370): a posted write on its way to its home slices. -/
def execHostIaWrite (p ia : Nat) (data : List Byte) (s : State) : Res :=
  onWindow s p ia data.length true (s.arrive (s.outside (.host 0) p ia (.write data.length (leVal data) false)))

/-- HOST_IA_READ (R370). -/
def execHostIaRead (p ia n : Nat) (s : State) : Res :=
  onWindow s p ia n false (s.arrive (s.outside (.host s.nextId) p ia (.readBytes n)))

/-- The AtomicOps of PCIe: FetchAdd, Swap and CAS. -/
def pcieAtomic : AOp → Bool
  | .add | .xchg | .cas => true
  | .min | .max | .minn | .maxn | .and | .or | .xor | .fadd32 | .bf16x2add | .fp16x2add | .incw => false

/-- HOST_ATOMIC (R371): an AtomicOp of PCIe of 4 or 8 bytes. -/
def execHostAtomic (p ia : Nat) (op : AOp) (n x c : Nat) (s : State) : Res :=
  onWindow s p ia n false
    (if pcieAtomic op && (n == 4 || n == 8) && ia % n == 0 then
      s.arrive (s.outside (.host s.nextId) p ia (.atomic op n [(x, c)] false))
    else s)

/-- HOST_COMPLETER_DEADLINE (R416). -/
def execHostCompleterDeadline (rid : Nat) (s : State) : Res :=
  .next (match AMap.find rid s.reqs with
  | none => s
  | some r =>
    match r.src with
    | .host _ => s.expire rid r
    | .peer _ _ | .group _ _ _ | .commit | .engine _ _ | .walk _ | .stack _ | .device _ | .message _ _ _ => s)

end Sys2Proof.Machine
end

