-- ==== Sys2Proof/Machine/Network.lean ====
section
/-! DEFINITION. The links: slots and the choice of a flit (R299, R300, R302, R306, R398), reception and reassembly (R301,
R304, R307), resends, retraining and torn packets (R304, R305), the stack links' keys (R361, R362), quota periods
(R303). -/

namespace Sys2Proof.Machine

/-! ## Which flit a slot carries (R300, R302) -/

/-- The partition whose slot mask holds slot n: masks are disjoint (R306). -/
def State.slotOwner (s : State) (n : Nat) : Option Nat :=
  (List.range 8).find? (fun p => (s.part p).valid && bitAt (s.part p).slots n)

/-- A packet's partition and class, while its request is still there and its postmark is the partition's. -/
def State.packet (s : State) (rid : Nat) : Option Req :=
  (AMap.find rid s.reqs).filter (fun r => r.ppm == (s.part r.part).ppm)

/-- The request is of partition p and class c. -/
def State.packetIs (s : State) (p c rid : Nat) : Bool :=
  match s.packet rid with
  | some r => r.part == p && r.cls == c
  | none => false

/-- The request waits at a port for a destination that grants no credits: it holds back only those to its own (R400). -/
def Link.stalls (l : Link) (r : Req) : Bool :=
  match r.st with
  | .atPeer d _ _ _ => l.stalled.contains d
  | .transit | .arrived | .walking _ | .half _ _ _ _ | .heldWrite _ | .unitData _ | .back _ => false

/-- A port's destination grants credits from now on, or none (R400). -/
def State.setCredits (s : State) (port dest : Nat) (granted : Bool) : State :=
  let l := s.link (.port port)
  let others := l.stalled.filter (fun d => d != dest)
  s.setLink (.port port) { l with stalled := if granted then others else dest :: others }

/-- It stands at a port behind another packet there. -/
def Link.behind (l : Link) (rid other : Nat) : Bool :=
  !(l.ready.dropWhile (fun e => e.1 != rid)).any (fun e => e.1 == other)

/-- An earlier write or atomic of the partition to a granule of a request at a port is outstanding: the request waits there
(R397). -/
def State.peerBusy (s : State) (l : Link) (rid : Nat) (r : Req) : Bool :=
  match r.st with
  | .atPeer _ pa _ _ => s.reqs.any (fun e => e.1 != rid && e.2.part == r.part && e.2.ask.isWrite && match e.2.st with
      | .atPeer _ x _ _ => e.2.meets x pa r.ask.covers && l.behind rid e.1
      | .transit | .arrived | .walking _ | .half _ _ _ _ | .heldWrite _ | .unitData _ | .back _ => false)
  | .transit | .arrived | .walking _ | .half _ _ _ _ | .heldWrite _ | .unitData _ | .back _ => false

/-- The packet may go on this link now. -/
def State.mayGo (s : State) (l : Link) (p c rid : Nat) : Bool :=
  match s.packet rid with
  | some r => r.part == p && r.cls == c && !l.stalls r && !s.peerBusy l rid r
  | none => false

/-- The flit of partition p and class c that could go: of the packet in progress, else of the first ready packet, which
starts unless the link takes no new packet: a link that is rekeyed from its compute die (R362). -/
def State.candidate (s : State) (l : Link) (p c : Nat) : Option (Nat × Nat × Nat) :=
  match l.progress.find? (fun e => s.packetIs p c e.1) with
  | some e => some e
  | none => if l.rekeying then none
    else (l.ready.find? (fun e => s.mayGo l p c e.1)).map (fun e => (e.1, 0, e.2))

/-- How many of the last n slots carried a lower class than courier. -/
def lowerSent (h : List (Nat × Bool × Bool)) (n : Nat) : Nat := ((h.take n).filter (fun e => e.1 < 2)).length

/-- The courier must give up this slot, or four of 16 slots could no longer carry a lower class: with j slots behind in
which a lower class was ready, 15 − j come (R302). -/
def lowerDue (h : List (Nat × Bool × Bool)) : Bool :=
  [12, 13, 14, 15].any (fun j => decide (j ≤ h.length) && (h.take j).all (fun e => e.2.1) && decide (lowerSent h j + 11 < j))

/-- This slot must carry bulk, or none of 16 would (R302). -/
def bulkDue (h : List (Nat × Bool × Bool)) : Bool :=
  decide (15 ≤ h.length) && (h.take 15).all (fun e => e.2.2 && decide (e.1 ≠ 0))

/-- The class of the slot, given which classes have a flit ready. -/
def slotClass (h : List (Nat × Bool × Bool)) (bulk express courier : Bool) : Option Cls :=
  if bulk && bulkDue h then some 0
  else if courier && !((bulk || express) && lowerDue h) then some 2
  else if express then some 1
  else if bulk then some 0
  else none

/-! ## FRAME_SLOT -/

/-- A link that ends at a receiver of the device. -/
def innerLink : LinkId → Bool
  | .ring _ _ _ _ _ | .boundary _ _ | .stack _ | .stackUp _ | .slice _ => true
  | .port _ => false

/-- The stack of a stack's link, in either direction: both hold one key, whose state stands at the direction to the stack. -/
def stackOf : LinkId → Option Nat
  | .stack n | .stackUp n => some n
  | .ring _ _ _ _ _ | .boundary _ _ | .slice _ | .port _ => none

/-- The link of a die's stack. -/
def stackDie (id : LinkId) : Option Nat := (stackOf id).map (· / 4)

/-- One message more under a stack link's key, towards the stack or from it (R361); the postmaster begins a rekey well before a
counter reaches 2^40, one link of a die at a time (R362, DESIGN CHOICE, log 86). -/
def State.countFlit (s : State) (id : LinkId) : State :=
  match stackOf id with
  | none => s
  | some n =>
    let l := s.link (.stack n)
    let l := if id = .stack n then { l with txCount := l.txCount + 1#64 } else { l with rxCount := l.rxCount + 1#64 }
    let busy := s.links.any (fun e => e.2.rekeying && stackDie e.1 == stackDie id)
    s.setLink (.stack n)
      { l with rekeying := l.rekeying || (!busy && decide (2 ^ 40 - 2 ^ 20 ≤ max l.txCount.toNat l.rxCount.toNat)) }

/-- The packet after one more flit: in progress, or gone when it was the last. -/
def Link.advance (l : Link) (rid sent total : Nat) : Link :=
  let rest := l.progress.filter (fun e => e.1 != rid)
  { l with ready := l.ready.filter (fun e => e.1 != rid),
           progress := if sent + 1 < total then (rid, sent + 1, total) :: rest else rest }

/-- What an accelerator reads of a packet that has left a port for it: a completion, or a message. -/
def Req.said (r : Req) : Option Reply :=
  match r.src, r.st with
  | .peer a tag, .back (.line x) =>
    some { toPeer := some a, tag := tag, data := leBytes r.ask.covers x, abort := false, cls := r.cls }
  | .peer a tag, .back (.values _ _) => some { toPeer := some a, tag := tag, data := [], abort := false, cls := r.cls }
  | .peer a tag, .back (.fault _ _) => some { toPeer := some a, tag := tag, data := [], abort := true, cls := r.cls }
  | .message d tag data, _ => some { toPeer := some d, tag := tag, data := data, abort := false, cls := r.cls }
  | _, _ => none

/-- The last flit of a packet has left its port: a request awaits its completion from here on (R402), a completion or a message is with
its accelerator. -/
def State.left (s : State) (rid : Nat) : State :=
  match AMap.find rid s.reqs with
  | some r =>
    match r.st, r.said with
    | .atPeer d pa epoch _, _ => s.setReq rid { r with st := .atPeer d pa epoch (some s.netClock) }
    | _, some m => { s.dropReq rid with replies := s.replies ++ [m] }
    | _, none => s
  | none => s

/-- The sample of an answer whose first flit enters its slice's ring: how long it waited (R315). A stack's answer waits at no
slice. -/
def State.sampleInjection (s : State) (id : LinkId) (r : Req) (sent : Nat) : State :=
  match r.st with
  | .back _ => if sent = 0 && r.stackNo.isNone && r.wayBack.head? = some id then s.gaugeSlice r.home 0x13 (s.netClock - r.since) else s
  | .transit | .arrived | .walking _ | .half _ _ _ _ | .heldWrite _ | .atPeer _ _ _ _ | .unitData _ => s

/-- Send one flit of a packet; it stands in the retry buffer until it is acknowledged (R304). -/
def State.sendFlit (s : State) (id : LinkId) (l : Link) (r : Req) (rid sent total : Nat) : State :=
  let (k, s) := s.fresh
  let f : Flit := { rid := rid, seq := l.nextSeq, part := r.part, cls := r.cls, ppm := r.ppm, first := sent == 0,
                    last := sent + 1 == total, crc := (Config.freeWord k).setWidth 32 }
  let l := l.advance rid sent total
  let l := { l with retry := l.retry ++ [f], nextSeq := l.nextSeq + 1#8, wire := if innerLink id then l.wire ++ [f] else l.wire }
  let s := ((s.setLink id l).countFlit id).sampleInjection id r sent
  if innerLink id || sent + 1 < total then s else s.left rid

/-- A resend goes on in this slot: the next flit, when it is of the slot's partition (R304). -/
def Link.resendFlit (l : Link) (id : LinkId) (p : Nat) : Link :=
  match l.again with
  | f :: rest => if f.part = p then { l with again := rest, wire := if innerLink id then l.wire ++ [f] else l.wire } else l
  | [] => l

/-- The packets of a partition with an outdated postmark leave a link in its slot: what is queued, what has started, and what
the receiver has gathered of them (R307). -/
def State.dropOld (s : State) (id : LinkId) (p : Nat) : State :=
  let l := s.link id
  let old (rid : Nat) : Bool := match AMap.find rid s.reqs with
    | some r => r.part == p && r.ppm != (s.part p).ppm
    | none => true
  let gone := ((l.ready.map Prod.fst) ++ (l.progress.map Prod.fst)).filter old
  let l := { l with ready := l.ready.filter (fun e => !old e.1), progress := l.progress.filter (fun e => !old e.1),
                    contexts := l.contexts.filter (fun e => !old e.2.1) }
  (gone.foldl (fun s rid => s.dropReq rid) s).setLink id l

/-- The slot of partition p: outdated packets are dropped, and one flit is sent: of a resend, or when one is ready, the retry
buffer has room and the link is up (R304, R305). -/
def State.runSlot (s : State) (id : LinkId) (p : Nat) : State :=
  let s := s.dropOld id p
  let l := s.link id
  let cand (c : Nat) := s.candidate l p c
  let bulk := (cand 0).isSome
  let express := (cand 1).isSome
  let h := (AMap.find p l.history).getD []
  let free := !l.retraining && l.retry.length < 64 && l.resend.isNone && l.again.isEmpty
  let c := if free then slotClass h bulk express (cand 2).isSome else none
  let l := { l with history := AMap.put p (((c.getD 3, bulk || express, bulk) :: h).take 15) l.history }
  match c with
  | none => s.setLink id (if l.retraining then l else l.resendFlit id p)
  | some c =>
    match cand c with
    | none => s.setLink id l
    | some (rid, sent, total) =>
      match AMap.find rid s.reqs with
      | none => s.setLink id l
      | some r => s.sendFlit id l r rid sent total

/-- FRAME_SLOT (R306): a slot that nobody holds, or whose partition has nothing ready, stays idle. -/
def execFrameSlot (id : LinkId) (s : State) : Res :=
  .next (
    let n := (s.link id).slot
    let s := match s.slotOwner n with
      | some p => s.runSlot id p
      | none => s
    s.setLink id { s.link id with slot := (n + 1) % 16 })

/-! ## FLIT_RECEIVE -/

/-- The stack has given its slice a line for a request, or has taken its write (R309, R345). -/
def State.feed (s : State) (rid line : Nat) : State :=
  match AMap.find rid s.reqs with
  | some r => s.setReq rid { r with fed := r.fed ++ [line] }
  | none => s

/-- An answer reaches the station of what asked: lanes of a core, a unit, the walker, or the slice of the request for which a stack
was asked; an acknowledgement that nobody awaits is over. -/
def State.landAt (s : State) (rid : Nat) (r : Req) (a : Answer) : State :=
  match r.src with
  | .group _ _ _ => s.land rid r a
  | .engine gid op => s.landUnit rid r gid op a
  | .walk wid => (s.dropReq rid).walkAnswer wid r.ia a
  | .stack x => (s.dropReq rid).feed x (r.ia / 128)
  | .commit | .host _ | .peer _ _ | .device _ | .message _ _ _ => s.dropReq rid

/-- A request that is whole at its end stands at its home slice; a slice's at its stack is answered there, a write-back is over. -/
def State.standAt (s : State) (rid : Nat) (r : Req) : State :=
  match r.src with
  | .stack 0 => s.dropReq rid
  | .stack _ => s.sendBack rid r (if r.ask.isWrite then .values 0 [] else .line 0)
  | .group _ _ _ | .commit | .host _ | .peer _ _ | .engine _ _ | .walk _ | .device _ | .message _ _ _ => s.atSlice rid r

/-- A packet that is whole: it is ready at its next link, or it stands at its end, or its answer does (R298, R301). -/
def State.deliver (s : State) (rid : Nat) : State :=
  match AMap.find rid s.reqs with
  | none => s
  | some r =>
    match r.hops, r.st with
    | _ :: next :: rest, _ => s.enqueue rid { r with hops := next :: rest }
    | _, .back a => s.landAt rid r a
    | _, _ => s.standAt rid r

/-- A flit in sequence: it is counted, dropped when its postmark is outdated, else gathered (R301, R307). -/
def State.gatherFlit (s : State) (id : LinkId) (f : Flit) : State :=
  let l := s.link id
  let key := 4 * f.part + f.cls
  let l := { l with expect := l.expect + 1#8, fails := 0 }
  if f.ppm ≠ (s.part f.part).ppm then (s.setLink id { l with contexts := AMap.del key l.contexts }).dropReq f.rid
  else if f.last then (s.setLink id { l with contexts := AMap.del key l.contexts }).deliver f.rid
  else
    let n := ((AMap.find key l.contexts).map Prod.snd).getD 0
    s.setLink id { l with contexts := AMap.put key (f.rid, if f.first then 1 else n + 1) l.contexts }

/-- A flit that fails on a stack's link has failed its CRC or its tag, which of the two is free; the link counts tag failures
(R361, DESIGN CHOICE, log 86). -/
def State.stackFails (s : State) (id : LinkId) : State :=
  match stackOf id with
  | none => s
  | some n =>
    let (k, s) := s.fresh
    let l := s.link (.stack n)
    if bitAt (Config.freeWord k).toNat 0 then s.setLink (.stack n) { l with tagFails := min (2 ^ 32 - 1) (l.tagFails + 1) } else s

/-- FLIT_RECEIVE (R304, R361): a flit that fails its CRC or its SEQ, or on a stack's link its tag, is discarded with every later one,
and a resend is asked for. -/
def execFlitReceive (id : LinkId) (corrupt : Bool) (s : State) : Res :=
  let l := s.link id
  .next (if l.retraining then s
  else match l.wire with
  | [] => s
  | f :: rest =>
    let l := { l with wire := rest }
    if l.resend.isSome then s.setLink id l
    else if corrupt then (s.setLink id { l with resend := some l.expect }).stackFails id
    else if f.seq ≠ l.expect then s.setLink id { l with resend := some l.expect }
    else (s.setLink id l).gatherFlit id f)

/-! ## Resends, retraining, torn packets -/

/-- The flits from sequence number q on. -/
def flitsFrom (q : BitVec 8) : List Flit → List Flit
  | [] => []
  | f :: rest => if f.seq = q then f :: rest else flitsFrom q rest

/-- The flits after sequence number q. -/
def flitsAfter (q : BitVec 8) (l : List Flit) : List Flit := (flitsFrom q l).drop 1

/-- LINK_RESEND_REQUEST (R304): the flits from SEQ on go again in the slots of their partitions; the ninth request in a row is
not made, the link retrains (R305). A port's receiver is the peer's (R392). -/
def execLinkResendRequest (id : LinkId) (seq : BitVec 8) (s : State) : Res :=
  let l := s.link id
  .next (if l.retraining || (innerLink id && l.resend ≠ some seq) || 8 ≤ l.fails then s
  else s.setLink id { l with resend := none, wire := [], again := flitsFrom seq l.retry, fails := l.fails + 1 })

/-- LINK_ACK (R304): flits that the receiver has accepted are released, up to SEQ. -/
def execLinkAck (id : LinkId) (seq : BitVec 8) (s : State) : Res :=
  let l := s.link id
  .next (if (!innerLink id || (l.expect - 1#8 - seq).toNat < 64) && l.retry.any (fun f => f.seq == seq) then
    s.setLink id { l with retry := flitsAfter seq l.retry, fails := if innerLink id then l.fails else 0 }
  else s)

/-- LINK_RETRAIN (R305): eight resends in a row have failed. -/
def execLinkRetrain (id : LinkId) (s : State) : Res :=
  let l := s.link id
  .next (if 8 ≤ l.fails && (l.resend.isSome || !innerLink id) then s.setLink id { l with retraining := true } else s)

/-- Number flits anew from q. -/
def renumber (q : BitVec 8) : List Flit → List Flit
  | [] => []
  | f :: rest => { f with seq := q } :: renumber (q + 1#8) rest

/-- LINK_RETRAIN_DONE (R305): the packets held in part are torn: their flits leave the link. The others' flits that were
not accepted are sent again (DESIGN CHOICE, log 43). -/
def execLinkRetrainDone (id : LinkId) (s : State) : Res :=
  let l := s.link id
  .next (if !l.retraining then s
  else
    let torn := (AMap.vals l.contexts).map Prod.fst
    let left := match l.resend with
      | some q => (flitsFrom q l.retry).filter (fun f => !torn.contains f.rid)
      | none => if innerLink id then [] else l.retry
    let again := renumber l.expect left
    s.setLink id { l with
      retraining := false, fails := 0, resend := none, contexts := [], wire := [], again := again, retry := again,
      nextSeq := l.expect + BitVec.ofNat 8 again.length, progress := l.progress.filter (fun e => !torn.contains e.1) })

/-- The link holds the packet or part of it. -/
def Link.holdsPacket (l : Link) (rid : Nat) : Bool :=
  l.ready.any (fun e => e.1 == rid) || l.progress.any (fun e => e.1 == rid) || (l.wire ++ l.again).any (fun f => f.rid == rid)
    || l.contexts.any (fun e => e.2.1 == rid) || match l.resend with
      | some q => (flitsFrom q l.retry).any (fun f => f.rid == rid)
      | none => false

/-- TORN_STATUS (R305): a packet that no link holds any more was torn; its source sends it again in full. -/
def execTornStatus (rid : Nat) (s : State) : Res :=
  .next (match AMap.find rid s.reqs with
  | none => s
  | some r =>
    if s.links.any (fun e => e.2.holdsPacket rid) then s
    else match r.st with
      | .transit => if r.atDoor then s else s.enqueue rid { r with hops := r.way }
      | .back _ => s.enqueue rid { r with hops := r.wayBack }
      | .arrived | .walking _ | .half _ _ _ _ | .heldWrite _ | .atPeer _ _ _ _ | .unitData _ => s)

/-! ## The stack links' keys (R362) -/

/-- LINK_REKEY (R362): one link of a die at a time; the event names it by its direction to the stack. -/
def execLinkRekey (id : LinkId) (s : State) : Res :=
  .next (match stackOf id with
  | none => s
  | some n =>
    if s.links.any (fun e => e.2.rekeying && stackDie e.1 == stackDie id) then s
    else s.setLink (.stack n) { s.link (.stack n) with rekeying := true })

/-- Nothing is in flight on a link: all that has started has been acknowledged. -/
def Link.settled (l : Link) : Bool := l.progress.isEmpty && l.wire.isEmpty && l.again.isEmpty && l.retry.isEmpty

/-- LINK_REKEY_SWITCH (R362): nothing is in flight towards the stack, and all that comes from it has come; both ends load the key,
their counters restart, and the link reopens. -/
def execLinkRekeySwitch (id : LinkId) (key : BitVec 128) (s : State) : Res :=
  .next (match stackOf id with
  | none => s
  | some n =>
    let l := s.link (.stack n)
    let up := s.link (.stackUp n)
    if !l.rekeying || !l.settled || !up.settled || !up.ready.isEmpty then s
    else s.setLink (.stack n) { l with rekeying := false, key := key, txCount := 0#64, rxCount := 0#64 })

/-! ## QUOTA_PERIOD_END (R303) -/

/-- The quotas of a station restart. -/
def execQuotaPeriodEnd (station : Nat) (s : State) : Res :=
  .next { s with parts := s.parts.map (fun e => (e.1, { e.2 with quota := e.2.quota.filter (fun q => q.1 / 4 != station) })) }

end Sys2Proof.Machine
end

