-- ==== Sys2Proof/Machine/Postmaster.lean ====
section
/-! DEFINITION. What the postmaster does: power-up and firmware (R385, R394), the partition map, creation and reset of
partitions (R307, R313, R365–R368), memory keys and their revocation (R360, R363, R364), poison from the stacks (R357),
power (R386), the state of a TDI (R369). -/

namespace Sys2Proof.Machine

/-! ## Bring-up (R365, R385, R394) -/

/-- POWER_UP: everything is as after reset, but that cores fenced off stay so (R294, R365); the counters of the model's
own go on, so that free values stay fresh (DESIGN CHOICE, log 44). -/
def execPowerUp (s : State) : Res :=
  .next { State.reset with
    cores := (s.cores.filter (fun e => e.2.fenced)).map (fun e => (e.1, { Core.reset with fenced := true })),
    agenda := s.agenda, nextId := s.nextId, freeTick := s.freeTick, netClock := s.netClock }

/-- The numbers under which units stand in the remap table. -/
def unitNumbers : List Nat :=
  List.range 384 ++ (List.range 640).map (· + 1000) ++ (List.range 48).map (· + 2000) ++ (List.range 32).map (· + 3000)

/-- FIRMWARE_CHECK (R385): a write of FWCTL = 1 with an image staged while the boot ROM waits (DESIGN CHOICE, log 44): it checks
from here on. -/
def execFirmwareCheck (image : List Byte) (s : State) : Res :=
  .next (if s.fwstat.toNat % 256 ≠ 0 || 2 ^ 23 < image.length then s
  else { s with fwctl := 1#64, staging := image, fwstat := 1#64, agenda := .boot :: s.agenda })

/-- The Ed448 signature over an image holds under the public key whose SHAKE256 hash is fused (R385). -/
def firmwareGood (image : List Byte) : Bool :=
  let key := Config.stagedKey image
  shake256 key == leBytes 64 Config.fusedKeyHash.toNat && ed448Verify key (Config.stagedSignature image) image

/-- The signature's check and the measurement: the image runs only when it holds (R385). -/
def State.bootCheck (s : State) : State :=
  if !firmwareGood s.staging then { s with fwstat := 2#64 }
  else { s with fwstat := 3#64, measurement := shake256 s.staging, agenda := .boot :: s.agenda }

/-- Training, the remap table, the station and the identity (R365, R385, R394); %cyc reads 0 from here on (R157). -/
def State.bootTrain (s : State) : State :=
  let (n, s) := s.fresh
  let bad := Config.trainingMask n
  if bad ≠ 0#32 then { s with fwstat := BitVec.ofNat 64 (bad.toNat * 2 ^ 32 + 4) }
  else
    let out (u : Nat) : Bool := Config.retired u || (decide (u < 384) && (s.core u).fenced)
    { s with fwstat := 5#64, dead := unitNumbers.foldl (fun m u => Sparse.set false m u (out u)) s.dead,
             cores := s.cores.map (fun e => (e.1, { e.2 with cyc := 0#64 })),
             station := Config.station.setWidth 32, identity := Config.identity }

/-- The next step of the bring-up: FWSTAT reads 0x01 checking, then 0x03 running (R385). -/
def State.bootStep (s : State) : State :=
  match s.fwstat.toNat % 256 with
  | 1 => s.bootCheck
  | 3 => s.bootTrain
  | _ => s

/-! ## The partition map (R365–R367) -/

/-- Bits of a map entry's word that are not reserved (Tables 20.1, 20.13); PPM is not among them. -/
def mapMask (n : Nat) : Nat :=
  if n = 0 then 0xE000FFFFFFFF0000
  else if n = 1 then 0xFFFF0000FFFFFFFF
  else if n = 2 then 0x000FFFFFFFFFF000
  else if n = 5 then 0x00000000FFFFFFFF
  else if n = 16 then 0x0000FFFFFFFFFFFF
  else if n = 17 then 3
  else if n < 82 then 2 ^ 64 - 1 else 0

/-- An entry as the map holds it. A partition exists from its creation on (DEDUCED, log 32): until then V stays 0. -/
def mapEntry (old : Partition) (entry : List (BitVec 64)) : List (BitVec 64) :=
  (List.range 128).map (fun n =>
    let w := entry.getD n 0#64 &&& BitVec.ofNat 64 (mapMask n)
    if n = 0 then
      let w := if old.valid then w else w &&& ~~~(1#64 <<< 63)
      w ||| (BitVec.setWidth 64 old.ppm) <<< 48
    else w)

/-- No resident block, no record in a sack (R365). -/
def State.idle (s : State) (p : Nat) : Bool :=
  !s.blocks.any (fun e => e.2.part == p && e.2.mode != .saved) && (s.part p).graphs.all (fun e => e.2.sacks.all (fun k => k.2.isEmpty))

/-- A stack that the remap table leaves out. -/
def State.deadStack (s : State) (k : Nat) : Bool := Sparse.get false s.dead (3000 + k)

/-- The constraints on an entry, given the others and the remap table (R365, R366) (DEDUCED, log 53): a cluster's other owners
share it by time, slot masks are disjoint, a die with a working cluster has a working slice and engine, and no range of a stack
that is left out is owned. -/
def State.mapFits (s : State) (p : Nat) (q : Partition) : Bool :=
  let others := ((List.range 8).filter (· != p)).map s.part
  let clusters := (List.range 96).filter (q.holds 4)
  let s := s.setPart p q
  others.all (fun o => clusters.all (fun c => !o.holds 4 c || (decide (o.tshare ≠ 0) && decide (q.tshare ≠ 0)))
      && (o.slots &&& q.slots) == 0)
    && (List.range 8).all (fun d => !clusters.any (fun c => c / 12 == d && (clusterCores c).any (s.hasCore p))
      || (!(s.slicesOn p d).isEmpty && (List.range 6).any (fun e => s.hasEngine p (6 * d + e))))
    && (List.range 32).all (fun k => !s.deadStack k || (List.range 64).all (fun r => !q.owns (64 * k + r)))

/-- The fenced cores leave the dense numbering (R294). -/
def State.retireFenced (s : State) (q : Partition) : State :=
  { s with dead := (s.cores.filter (fun e => e.2.fenced && q.holds 4 (e.1 / 4))).foldl (fun m e => Sparse.set false m e.1 true) s.dead }

/-- A cluster that is no longer shared, or not with the partition whose turn it serves, serves no turn (R368). -/
def State.endTurns (s : State) : State :=
  let keeps (n : Nat) (k : Cluster) : Bool :=
    s.sharedCluster n && match k.turn with
      | some p => (s.part p).valid && (s.part p).holds 4 n
      | none => true
  { s with clusters := s.clusters.map (fun e => (e.1, if keeps e.1 e.2 then e.2 else { e.2 with turn := none })) }

/-- PARTITION_MAP_CHANGE (R365): removed ways are left to be swept (R313). -/
def execPartitionMapChange (p : Nat) (entry : List (BitVec 64)) (s : State) : Res :=
  let q := s.part p
  let q' : Partition := { q with map := mapEntry q entry }
  .next (if 8 ≤ p || s.fwstat.toNat % 256 ≠ 5 || entry.length ≠ 128 || !s.idle p || !s.mapFits p q' then s
  else
    let removed := BitVec.ofNat 16 q.ways &&& ~~~(BitVec.ofNat 16 q'.ways)
    let q' : Partition := { q' with sweeping := q.sweeping ||| removed, sweepTo := if removed = 0#16 then q.sweepTo else 0 }
    ((s.setPart p q').retireFenced q').endTurns)

/-- A write-back of a partition that was sent before an id is not yet acknowledged. -/
def State.writeBackOut (s : State) (p upto : Nat) : Bool :=
  s.reqs.any (fun e => decide (e.1 < upto) && e.2.part == p && e.2.src == .stack 0)

/-- WAY_SWEEP_DONE (R313): the partition's blocks in removed ways leave, written back, and once the write-backs are acknowledged the
sweep is over. -/
def execWaySweepDone (p : Nat) (s : State) : Res :=
  let q := s.part p
  let keys := (s.l2.filter (fun e => e.1 / 2 ^ 52 == p && bitAt q.sweeping.toNat e.2.way)).map Prod.fst
  .next (if q.sweeping = 0#16 then s
  else if !keys.isEmpty || q.sweepTo = 0 then
    let s := keys.foldl State.evict s
    s.setPart p { s.part p with sweepTo := s.nextId }
  else if s.writeBackOut p q.sweepTo then s
  else s.setPart p { q with sweeping := 0#16, sweepTo := 0 })

/-! ## Creation and reset (R368) -/

/-- The largest V of one core (R273, R278): every granule that can be charged but one commit buffer, 32 groups with as many
replay packets as their counters admit, a grid with all tiles (DEDUCED, log 79). -/
def coreSaveBytes : Nat := 2048 * (coreGranules - 32) + 32 * (256 + 64 * 6 * 63) + 36864 + 4096 * 1296

/-- The save area lies in memory that the partition owns and holds its cores' largest V. -/
def Partition.saveOk (q : Partition) : Bool :=
  let base := bits (q.word 2) 51 12 * 4096
  let n := q.word 3
  decide (4 * coreSaveBytes * ((List.range 96).filter (q.holds 4)).length ≤ 4096 * n)
    && (decide (base + 4096 * n ≤ 2 ^ 51) && (rangesOf base n).all (fun a => q.paOk a true))

/-- PARTITION_CREATE (R368): no line of the owned ranges stays cached, in L2, in an instruction cache or in an L1, which may give
up any line; their sequence counts are 0. -/
def execPartitionCreate (p : Nat) (s : State) : Res :=
  let q := s.part p
  .next (if 8 ≤ p || s.fwstat.toNat % 256 ≠ 5 || q.valid || !q.saveOk then s
  else
    let owned (pa : Nat) : Bool := !bitAt pa 51 && q.owns (64 * bits pa 45 41 + bits pa 35 30)
    let s := s.zeroFill (bits (q.word 2) 51 12 * 4096) (q.word 3)
    let s : State := { s with
      l2 := s.l2.filter (fun e => !owned e.2.pa), seqs := s.seqs.filter (fun e => !owned (128 * e.1)),
      clusters := s.clusters.map (fun e => (e.1, { e.2 with icache := [] })),
      cores := s.cores.map (fun e => (e.1, e.2.l1Clear)) }
    let w := q.map.getD 0 0#64 ||| (1#64 <<< 63)
    s.setPart p { Partition.reset with map := w :: q.map.drop 1, bar4 := q.bar4 })

/-- Outside requests that wait to be performed are answered with aborts (R404). -/
def State.abortOutside (s : State) (p : Nat) : State :=
  s.reqs.foldl (fun s e =>
    if e.2.part ≠ p || !e.2.pending then s
    else match e.2.src with
      | .host _ | .peer _ _ => (s.unqueue e.1).abort e.1 e.2
      | .commit | .group _ _ _ | .engine _ _ | .walk _ | .stack _ | .device _ | .message _ _ _ => s) s

/-- What outlives a partition's reset: the accesses of the device itself, completion records among them, and completions to peers
(R381, R404, DEDUCED, log 33). -/
def Req.owed (r : Req) : Bool :=
  r.ofDevice || match r.src, r.st with
    | .peer _ _, .back _ => true
    | _, _ => false

/-- Held writes (R416), and what stands at a port or has come back for a unit, end with the partition's reset; every other
request is dropped where it stands next, in a slot of the partition (R307). -/
def State.dropServed (s : State) (p : Nat) : State :=
  s.reqs.foldl (fun s e =>
    if e.2.part ≠ p || e.2.owed then s
    else match e.2.st with
      | .heldWrite _ | .unitData _ => s.dropReq e.1
      | .atPeer _ _ _ _ => (s.unqueue e.1).dropReq e.1
      | .transit | .arrived | .walking _ | .half _ _ _ _ | .back _ => s) s

/-- The walks of a partition end with its reset: what goes on stands at its slice again. -/
def Req.offWalk (r : Req) : Req :=
  match r.st with
  | .walking _ => { r with st := .arrived }
  | .transit | .arrived | .half _ _ _ _ | .heldWrite _ | .atPeer _ _ _ _ | .unitData _ | .back _ => r

/-- What outlives the reset carries the new postmark. -/
def State.repost (s : State) (p : Nat) : State :=
  { s with reqs := s.reqs.map (fun e =>
      if e.2.part = p && e.2.owed then (e.1, { e.2.offWalk with ppm := (s.part p).ppm }) else e) }

/-- A record that waits for stores of a partition that is reset says so: they are discarded (R381, DEDUCED, log 33). -/
def Report.cut (p : Nat) (r : Report) : Report :=
  if r.part = p ∧ r.status ≤ 1 then { r with status := 4, trapkind := 0, aux := 0 } else r

/-- PARTITION_RESET (R307, R368, R404, R416): groups that had been launched report STATUS 0x04 (DEDUCED, log 33). -/
def execPartitionReset (p : Nat) (s : State) : Res :=
  .next (if 8 ≤ p || !(s.part p).valid then s
  else
    let s := (s.abortOutside p).dropServed p
    let s := ((s.blocks.filter (fun e => e.2.part == p)).map Prod.fst).foldl (fun s b => s.reportBlock b 4 true) s
    let s := (State.writeWhere { s with reports := s.reports.map (Report.cut p) } (fun r => r.part == p))
    let s : State := { s with
      blocks := s.blocks.filter (fun e => e.2.part != p), cohorts := s.cohorts.filter (fun e => e.2.part != p),
      walks := s.walks.filter (fun e => e.2.part != p) }
    let s := (List.range 32).foldl State.releaseHeld s
    let q := s.part p
    let w0 := q.map.getD 0 0#64
    let w0 := (w0 &&& ~~~(0xFF#64 <<< 48)) ||| (BitVec.setWidth 64 (q.ppm + 1#8)) <<< 48
    (s.setPart p { q with
      map := w0 :: q.map.drop 1, batches := [], graphs := q.graphs.map (fun e => (e.1, { e.2 with sacks := [] })),
      faults := [], drops := 0, dropped := false, colls := [], readies := [], behind := [] }).repost p)

/-! ## Keys (R360, R363, R364) -/

/-- MEMORY_KEY_PROGRAM (R360): a slot that is not being revoked; at most 96 contexts are resident (R412). -/
def execMemoryKeyProgram (key part : Nat) (context : Option Nat) (value : BitVec 512) (s : State) : Res :=
  let ctxs := match context with
    | some c => insertUp c s.contextIds
    | none => s.contextIds
  .next (if key = 0 || 255 < key || 8 ≤ part || s.sweepingKey key || 96 < ctxs.length then s
  else
    let e : KeySlot := { part := part, context := context, revoked := false, value := value }
    { s with keys := AMap.put key e s.keys })

/-- A revocation begins: no TLB entry carries the key, no later walk may use it, and held writes under it are discarded (R416). -/
def State.beginRevoke (s : State) (key : Nat) : State :=
  (s.reqs.filter (fun e => e.2.st == .heldWrite key)).foldl (fun s e => s.discard e.1 e.2)
    { s with tlb := s.tlb.filter (fun e => e.keyid != key), keys := AMap.adj key (fun k => { k with revoked := true }) s.keys,
             revoking := s.revoking ++ [(key, 0)] }

/-- The sweep's write-backs are on their way: they are awaited (R363). -/
def State.awaitFlush (s : State) (key : Nat) : State :=
  { s with revoking := s.revoking.map (fun e => if e.1 = key then (key, s.nextId) else e) }

/-- The write-backs of a sweep have been acknowledged: those of the partition that were sent before its end. -/
def State.flushed (s : State) (key : Nat) : Bool :=
  s.revoking.all (fun e => e.1 != key || !(AMap.find key s.keys).any (fun k => s.writeBackOut k.part e.2))

/-- The keys of the cached words that carry a memory key. -/
def State.wordsUnder (s : State) (key : Nat) : List Nat := (s.l2.filter (fun e => e.2.keyid == key)).map Prod.fst

/-- The slot is programmed, and no revocation of it runs. -/
def State.mayRevoke (s : State) (key : Nat) : Bool := (AMap.find key s.keys).isSome && !s.sweepingKey key

/-- KEY_REVOKE_FLUSH (R363): the slices' sweeps, taken at their start (R364). -/
def execKeyRevokeFlush (key : Nat) (s : State) : Res :=
  .next (if !s.mayRevoke key then s
  else ((s.wordsUnder key).foldl State.evict (s.beginRevoke key)).awaitFlush key)

/-- A word leaves without write-back; its sector is poisoned when the cache held data for it that memory lacks. -/
def State.loseWord (s : State) (key : Nat) : State :=
  match AMap.find key s.l2 with
  | none => s
  | some b =>
    let s := if b.dirty ≠ 0 then s.setPoison b.pa true else s
    { s with l2 := AMap.del key s.l2 }

/-- KEY_REVOKE_IMMEDIATE (R363). -/
def execKeyRevokeImmediate (key : Nat) (s : State) : Res :=
  .next (if !s.mayRevoke key then s
  else (s.wordsUnder key).foldl State.loseWord (s.beginRevoke key))

/-- KEY_REVOKE_COMPLETE (R363): every write-back has been acknowledged; the base dies clear the slot. -/
def execKeyRevokeComplete (key : Nat) (s : State) : Res :=
  .next (if !s.sweepingKey key || !(s.wordsUnder key).isEmpty || !s.flushed key then s
  else { s with keys := AMap.del key s.keys, revoking := s.revoking.filter (fun e => e.1 != key) })

/-! ## Memory errors, power, TDISP -/

/-- HBM_UNCORRECTABLE_ERROR (R357): the sector of a stack address is poisoned. -/
def execHbmUncorrectableError (pa : Nat) (s : State) : Res :=
  .next (if 2 ^ 51 ≤ pa || bits pa 50 46 ≠ 0 || bits pa 40 36 ≠ 0 then s else s.setPoison pa true)

/-- POWER_GATING (R386): the core's issue clock is gated or not. -/
def execPowerGating (core : Nat) (gated : Bool) (s : State) : Res :=
  .next (if 384 ≤ core then s else s.setCore core { s.core core with gated := gated })

/-- TDISP_REQUEST (R369): the partition's TDI moves into or out of the RUN state. -/
def execTdispRequest (p : Nat) (run : Bool) (s : State) : Res :=
  .next (if 8 ≤ p || s.fwstat.toNat % 256 ≠ 5 || !(s.part p).valid then s else s.setPart p { s.part p with tdiRun := run })

end Sys2Proof.Machine
end

