-- ==== Sys2Proof/Machine/Approx.lean ====
section
/-! DEFINITION. The functions of Table 5.3 that VFEXP2, VFLOG2, VFSIN, VFCOS and VFTANH approximate, to far more bits
than FP32 keeps, by fixed-point series; from them the values within the bound, of which the implementation gives one
(R114). -/

namespace Sys2Proof.Machine

/-- Fixed-point one: 200 fraction bits. -/
def fxBits : Nat := 200
def fxOne : Nat := 2 ^ 200

/-- Σ over k ≥ 0 of t_k with t_0 = t and t_(k+1) = t_k × x / ((a + k·b + c₀)…): here for exp: t_(k+1) = t_k·x/(k+1). -/
def expSeries : Nat → Nat → Nat → Nat → Nat
  | 0, _, _, _ => 0
  | n + 1, k, t, x => t + expSeries n (k + 1) (t * x / fxOne / k) x

/-- e^x for a fixed-point x below 2. -/
def fxExp (x : Nat) : Nat := expSeries 80 1 fxOne x

/-- (e^x − 1) / x for a fixed-point x below 2. -/
def fxExpm1Over (x : Nat) : Nat := expSeries 80 2 fxOne x

/-- Σ z^(2k) / (2k + 1): atanh(z) / z. -/
def atanhSeries : Nat → Nat → Nat → Nat → Nat
  | 0, _, _, _ => 0
  | n + 1, k, p, z2 => p / (2 * k + 1) + atanhSeries n (k + 1) (p * z2 / fxOne) z2

def fxAtanhOver (z2 : Nat) : Nat := atanhSeries 130 0 fxOne z2

/-- ln 2 = 2 atanh(1/3). -/
def fxLn2 : Nat := 2 * fxAtanhOver (fxOne / 9) / 3

/-- Alternating Σ (−1)^k / ((2k + 1) n^(2k + 1)): atan(1/n). -/
def atanSeries : Nat → Nat → Nat → Nat → Int
  | 0, _, _, _ => 0
  | n + 1, k, p, d => (p / (2 * k + 1) : Nat) - atanSeries n (k + 1) (p / (d * d)) d

def fxPi : Nat := (16 * atanSeries 100 0 (fxOne / 5) 5 - 4 * atanSeries 100 0 (fxOne / 239) 239).toNat

/-- Σ (−1)^k y^(2k) / (2k + 1)!: sin(y) / y, for y² fixed-point. -/
def sincSeries : Nat → Nat → Nat → Nat → Int
  | 0, _, _, _ => 0
  | n + 1, k, t, y2 => (t : Int) - sincSeries n (k + 1) (t * y2 / fxOne / ((2 * k + 2) * (2 * k + 3))) y2

/-- |x| with its last bit set, for a value that is never exact. -/
def stickyMag (m : Nat) (e : Int) : Nat × Int := (2 * m + 1, e - 1)

/-- sin(π d) for an exact dyadic 0 < d < 1/2, which lies below 1 however near. -/
def sinPi (m : Nat) (e : Int) : Nat × Int :=
  -- y = π m 2^e; y² in fixed point
  let d := if 0 ≤ e + fxBits then m * 2 ^ (e + fxBits).toNat else m / 2 ^ (-(e + fxBits)).toNat
  let y := d * fxPi / fxOne
  let sinc := (sincSeries 60 0 fxOne (y * y / fxOne)).toNat
  if 2 ^ (2 * fxBits - e).toNat ≤ m * fxPi * sinc then stickyMag (fxOne - 1) (-(fxBits : Int))
  else stickyMag (m * fxPi * sinc) (e - 2 * fxBits)

/-- 2^a for a finite a = (−1)^neg m 2^e with |a| < 2^9, not an integer. -/
def exp2Mag (neg : Bool) (m : Nat) (e : Int) : Nat × Int :=
  let den : Nat := 2 ^ (-e).toNat
  let v : Int := if neg then -(m : Int) else m
  let n : Int := v.fdiv (den : Int)
  let f : Nat := (v - n * (den : Int)).toNat
  stickyMag (fxExp (f * fxOne / den * fxLn2 / fxOne)) (n - fxBits)

/-- log₂ of m 2^e, not a power of two: its sign and magnitude. -/
def log2Mag (m : Nat) (e : Int) : Bool × Nat × Int :=
  -- x = m / 2^k in [0.707, 1.414); log₂ = t + log₂ x
  let len := bitLen m
  let big := decide (m * m > 2 ^ (2 * len - 1))
  let k := if big then len else len - 1
  let t : Int := e + k
  let p : Int := (m : Int) - 2 ^ k
  let q := m + 2 ^ k
  let z := p.natAbs * fxOne / q
  let l := 2 * (z * fxAtanhOver (z * z / fxOne) / fxOne) * fxOne / fxLn2
  let total : Int := t * fxOne + (if p < 0 then -(l : Int) else l)
  let (a, b) := stickyMag total.natAbs (-(fxBits : Int))
  (decide (total < 0), a, b)

/-- tanh of a positive m 2^e. -/
def tanhMag (m : Nat) (e : Int) : Nat × Int :=
  let top : Int := (bitLen m : Int) + e
  if 6 ≤ top then stickyMag (fxOne - 1) (-(fxBits : Int))
  else if top ≤ -60 then
    -- a − a³/3 and more: just below a
    (m * 2 ^ 100 - 1, e - 100)
  else
    let x := if 0 ≤ e + 1 + fxBits then m * 2 ^ (e + 1 + fxBits).toNat else m / 2 ^ (-(e + 1 + fxBits)).toNat
    if top ≤ 0 then
      -- (e^y − 1) / (e^y + 1), y = 2a < 2, with (e^y − 1) = y × s
      let s := fxExpm1Over x
      stickyMag (2 * m * s * 2 ^ 40 / (x * s / fxOne + 2 * fxOne)) (e - 40)
    else
      -- e^y = 2^n e^r
      let n := x / fxLn2
      let big := fxExp (x % fxLn2) * 2 ^ n
      stickyMag ((big - fxOne) * fxOne / (big + fxOne)) (-(fxBits : Int))

/-- 1 / √(m 2^e): the root of 2^(2k) / m, odd in its last place where it is not exact. -/
def rsqrtMag (m : Nat) (e : Int) : Nat × Int :=
  let (m1, e1) : Nat × Int := if e % 2 = 0 then (m, e) else (2 * m, e - 1)
  let k : Nat := 100
  let q := isqrt 102 (2 ^ (2 * k) / m1) 0
  if q * q * m1 = 2 ^ (2 * k) then (q, -(e1 / 2) - k) else stickyMag q (-(e1 / 2) - k)

/-- The magnitude of an FP32 code without its sign, m 2^e; the code past the largest stands for 2^128. -/
def codeMag (c : Nat) : Nat × Int := if c < 2 ^ 23 then (c, -149) else (2 ^ 23 + c % 2 ^ 23, (c / 2 ^ 23 : Nat) - 150)

/-- A code's value, of the other sign than the exact value m 2^e when `other`, is within so many units in the last place
at the exact value's binade (R114). -/
def withinUlps (bound m : Nat) (e : Int) (other : Bool) (c : Nat) : Bool :=
  let (p, g) := codeMag c
  let w := max ((Nat.log2 m : Int) + e) (-126) - 23
  let u := min e (min g w)
  let x : Int := ((m * 2 ^ (e - u).toNat : Nat) : Int)
  let y : Int := ((p * 2 ^ (g - u).toNat : Nat) : Int)
  decide ((x - (if other then -y else y)).natAbs ≤ bound * 2 ^ (w - u).toNat)

/-- The FP32 code of a result that is not exact, with its flags: any code within the bound, by the implementation's
choice, never past the code `top`, which the exact value lies below (R114). From the truncated code the choice goes up
to four codes down, past 0 to the other sign, and three up; one out of bounds stands for the truncated code. -/
def approxCode (pick bound top : Nat) (neg : Bool) (m : Nat) (e : Int) (ftz : Bool) : Nat × FFlags :=
  let base := min (top - 1) (Fmt.fp32.round .rz false false (.fin false m e)).1
  let want : Int := (base : Int) + (pick % 8 : Nat) - 4
  let other := decide (want < 0) || (want == 0 && 8 ≤ pick)
  let ok := decide (want ≤ top) && withinUlps bound m e other want.natAbs
  let code := if ok then want.natAbs else base
  let sign := if (ok && other) != neg then 2 ^ 31 else 0
  if 0x7F800000 ≤ code then (sign + 0x7F800000, flagOF ||| flagNX)
  else if code < 2 ^ 23 then (if ftz then sign else sign + code, flagUF ||| flagNX)
  else (sign + code, flagNX)

end Sys2Proof.Machine
end

