-- ==== Sys2Proof/Machine/Vfp.lean ====
section
/-! DEFINITION. The lane floating-point, packed and conversion instructions (ch. 05): VFP, VHFP, VCVT and their
halves. -/

namespace Sys2Proof.Machine

/-! ## One lane's result -/

/-- A lane's 32-bit result, the flags it raises and the counters it feeds (R122, R123). -/
structure LaneF where
  val : Nat
  flags : FFlags
  counts : List Nat
  deriving DecidableEq, Repr

/-- One rounded result in format `f`. -/
def LaneF.ofRes (f : Fmt) (r : FRes) : LaneF := { val := r.code, flags := r.flags, counts := r.counts f }

/-- Two 16-bit element results in one register (R70, R122). -/
def LaneF.pack (a b : LaneF) : LaneF :=
  { val := a.val % 65536 + b.val % 65536 * 65536, flags := a.flags ||| b.flags, counts := a.counts ++ b.counts }

/-- D := f(A, B, C) in every lane that takes part, all read before any is written; a helper lane raises no flag and
feeds no counter (R109, R122, R123). -/
def fop (x : FR) (f : Nat → Nat → Nat → LaneF) (c : Ctx) (g : Group) : Eff :=
  let rs := (g.parts x.g.toNat).map (fun j => (j, f (g.src c j x.a) (g.src c j x.b) (g.src c j x.c)))
  .ok (rs.foldl (fun acc (j, r) =>
      let acc := acc.setV j (regNum x.d) r.val
      if g.help j then acc else acc.raise j r.flags) g)
    (rs.flatMap (fun (j, r) => if g.help j then [] else r.counts))

/-! ## Modifier fields (Tables 5.1, 5.4) -/

def mdRm (md : Nat) : RMode := RMode.ofBits md
def mdFtz (md : Nat) : Bool := bitAt md 2
def mdSat (md : Nat) : Bool := bitAt md 3

/-- FMT of a packed instruction (Table 5.4). -/
def mdFmt (md : Nat) : Fmt := if bitAt md 4 then .bf16 else .fp16

/-! ## Rounded arithmetic (R109, R115) -/

/-- Round an exact result of `ops` into `f` under MD bits 3–0, with NV for a signalling operand (R77). -/
def rounded (f : Fmt) (md : Nat) (ops : List FVal) (x : FVal × FFlags) : LaneF :=
  LaneF.ofRes f (f.result (mdRm md) (mdFtz md) (mdSat md) x.1 (x.2 ||| sigFlags ops) (ops.any FVal.isNaN)
    (ops.any FVal.isInf))

/-- The exact results of Table 5.2, on values. -/
inductive FOp where
  | add | sub | mul | fma | fms | fnma | div | sqrt
  deriving DecidableEq, Repr

/-- Operands an exact result reads. -/
def FOp.arity : FOp → Nat
  | .sqrt => 1
  | .add | .sub | .mul | .div => 2
  | .fma | .fms | .fnma => 3

/-- a × b + c, exactly (R78). -/
def exactFma (mode : RMode) (a b c : FVal) : FVal × FFlags :=
  let (p, f) := a.mul b
  let (s, f') := FVal.sum mode [p, c]
  (s, f ||| f')

def FOp.exact (o : FOp) (mode : RMode) (a b c : FVal) : FVal × FFlags :=
  match o with
  | .add => FVal.sum mode [a, b]
  | .sub => FVal.sum mode [a, b.neg]
  | .mul => a.mul b
  | .fma => exactFma mode a b c
  | .fms => exactFma mode a b c.neg
  | .fnma => exactFma mode a.neg b c
  | .div => a.div b
  | .sqrt => a.sqrt

/-- One operation in format `f` on operand codes (R109, R115). -/
def farith (o : FOp) (f : Fmt) (md a b c : Nat) : LaneF :=
  let v := f.valueFtz (mdFtz md)
  rounded f md ([v a, v b, v c].take o.arity) (o.exact (mdRm md) (v a) (v b) (v c))

/-- The two elements of a register in turn (R115); each feeds the counters by its own operands (DEDUCED, log 63). -/
def perHalf (f : Nat → Nat → Nat → LaneF) (a b c : Nat) : LaneF :=
  (f (a % 65536) (b % 65536) (c % 65536)).pack (f (a / 65536) (b / 65536) (c / 65536))

/-! ## Minimum, maximum, comparison, class, rounding -/

/-- A subnormal code as the zero it reads as when flushing. -/
def flushCode (f : Fmt) (ftz : Bool) (code : Nat) : Nat :=
  match f.valueFtz ftz code with
  | .fin n 0 _ => f.signBit n
  | _ => code

/-- VFMIN, VFMAX and the packed forms (R110). -/
def fminmax (max num : Bool) (f : Fmt) (ftz : Bool) (a b : Nat) : LaneF :=
  let x := f.valueFtz ftz a
  let y := f.valueFtz ftz b
  let first := if max then y.below x else x.below y
  let code :=
    if x.isNaN && y.isNaN then f.nanCode
    else if x.isNaN then (if num then flushCode f ftz b else f.nanCode)
    else if y.isNaN then (if num then flushCode f ftz a else f.nanCode)
    else if first then flushCode f ftz a else flushCode f ftz b
  { val := code, flags := sigFlags [x, y], counts := [] }

/-- A floating-point condition and its flags (R111, Table 5.1). -/
def fcond (cc : Nat) (x y : FVal) : Bool × FFlags :=
  if x.isNaN || y.isNaN then
    (cc == 1 || cc == 6, if x.isSig || y.isSig || (decide (2 ≤ cc) && decide (cc ≤ 5)) then flagNV else 0#5)
  else
    let c := x.cmp y
    (match cc with
      | 0 => c == 0
      | 1 => c != 0
      | 2 => decide (c < 0)
      | 3 => decide (c ≤ 0)
      | 4 => decide (0 < c)
      | 5 => decide (0 ≤ c)
      | 6 => false
      | _ => true, 0#5)

/-- VFCMP: the predicate of each lane that takes part (R111). -/
def fcmpOp (x : FR) (c : Ctx) (g : Group) : Eff :=
  let md := x.md.toNat
  .ok ((g.parts x.g.toNat).foldl (fun acc j =>
    let v := Fmt.fp32.valueFtz (mdFtz md)
    let (p, fl) := fcond (bits md 6 4) (v (g.src c j x.a)) (v (g.src c j x.b))
    let acc := acc.setQ j (regNum x.d) p
    if g.help j then acc else acc.raise j fl) g) []

/-- VFCLASS (R112): the bit of the class. -/
def fclass (a : Nat) : Nat :=
  let neg := bitAt a 31
  let k := match Fmt.fp32.value a with
    | .nan s => if s then 8 else 9
    | .inf _ => if neg then 0 else 7
    | .fin _ m _ =>
      if m = 0 then (if neg then 3 else 4)
      else if m < 2 ^ 23 then (if neg then 2 else 5)
      else if neg then 1 else 6
  2 ^ k

/-- VFRND (R113). -/
def frnd (md a : Nat) : LaneF :=
  match Fmt.fp32.valueFtz (mdFtz md) a with
  | .nan s => { val := Fmt.fp32.nanCode, flags := if s then flagNV else 0#5, counts := [] }
  | .inf _ => { val := a, flags := 0#5, counts := [] }
  | .fin n m e =>
    { val := (Fmt.fp32.round .rz false false (.fin n (roundInt (mdRm md) n m e).1.natAbs 0)).1, flags := 0#5,
      counts := [] }

/-! ## Approximated functions (R114) -/

/-- A result listed as exact. -/
def exactRes (ftz : Bool) (x : FVal) (extra : FFlags) (opInf : Bool) : LaneF :=
  LaneF.ofRes .fp32 (Fmt.fp32.result .rn ftz false x extra false opInf)

/-- A result not listed as exact, of exact magnitude m 2^e (DESIGN CHOICE, log 20). -/
def nearRes (pick bound top : Nat) (ftz neg : Bool) (m : Nat) (e : Int) : LaneF :=
  let (code, fl) := approxCode pick bound top neg m e ftz
  LaneF.ofRes .fp32 { code := code, flags := fl, nan := false, inf := code % 2 ^ 31 == 0x7F800000 }

/-- An overflow to an infinity (R73, R114). -/
def overRes (neg : Bool) : LaneF :=
  LaneF.ofRes .fp32 { code := Fmt.fp32.signBit neg + Fmt.fp32.infCode, flags := flagOF ||| flagNX, nan := false, inf := true }

/-- The canonical NaN of a special operand. -/
def invalidRes : LaneF := LaneF.ofRes .fp32 { code := Fmt.fp32.nanCode, flags := flagNV, nan := true, inf := false }

/-- A NaN operand: canonical, NV when it was signalling. -/
def nanRes (s : Bool) : LaneF :=
  LaneF.ofRes .fp32 { code := Fmt.fp32.nanCode, flags := if s then flagNV else 0#5, nan := false, inf := false }

/-- m 2^e is a power of two: its exponent. -/
def pow2Exp (m : Nat) (e : Int) : Option Int := if m = 2 ^ Nat.log2 m then some ((Nat.log2 m : Int) + e) else none

/-- One code past every finite magnitude. -/
def codeInf : Nat := 0x7F800000

/-- The code of 1. -/
def codeOne : Nat := 0x3F800000

/-- VFRCP. A reciprocal past the largest finite value overflows (DEDUCED, log 23). -/
def frcp (pick : Nat) (ftz : Bool) : FVal → LaneF
  | .nan s => nanRes s
  | .inf n => exactRes ftz (.fin n 0 0) 0#5 true
  | .fin n m e =>
    if m = 0 then exactRes ftz (.inf n) flagFDZ false
    else match pow2Exp m e with
      | some k => if 127 < -k then overRes n else exactRes ftz (.fin n 1 (-k)) 0#5 false
      | none =>
        match (FVal.div (.fin false 1 0) (.fin false m e)).1 with
        | .fin _ q g => if 128 ≤ (Nat.log2 q : Int) + g then overRes n else nearRes pick 1 codeInf ftz n q g
        | _ => overRes n

/-- VFRSQ. -/
def frsq (pick : Nat) (ftz : Bool) : FVal → LaneF
  | .nan s => nanRes s
  | .inf n => if n then invalidRes else exactRes ftz (.fin false 0 0) 0#5 true
  | .fin n m e =>
    if m = 0 then exactRes ftz (.inf n) flagFDZ false
    else if n then invalidRes
    else match pow2Exp m e with
      | some k =>
        if k % 2 = 0 then exactRes ftz (.fin false 1 (-(k / 2))) 0#5 false
        else nearRes pick 1 codeInf ftz false (rsqrtMag m e).1 (rsqrtMag m e).2
      | none => nearRes pick 1 codeInf ftz false (rsqrtMag m e).1 (rsqrtMag m e).2

/-- VFEXP2. -/
def fexp2 (pick : Nat) (ftz : Bool) : FVal → LaneF
  | .nan s => nanRes s
  | .inf n => if n then exactRes ftz (.fin false 0 0) 0#5 true else exactRes ftz (.inf false) 0#5 true
  | .fin n m e =>
    let top : Int := (bitLen m : Int) + e
    if m = 0 then exactRes ftz (.fin false 1 0) 0#5 false
    else if 8 < top then (if n then nearRes pick 2 codeInf ftz false 1 (-400) else overRes false)
    else
      let (v, whole) := roundInt .rz n m e
      if whole then
        if 127 < v then overRes false
        else if v < -149 then nearRes pick 2 codeInf ftz false 1 (-400)
        else exactRes ftz (.fin false 1 v) 0#5 false
      else if 128 ≤ v then overRes false
      else nearRes pick 2 codeInf ftz false (exp2Mag n m e).1 (exp2Mag n m e).2

/-- VFLOG2. -/
def flog2 (pick : Nat) (ftz : Bool) : FVal → LaneF
  | .nan s => nanRes s
  | .inf n => if n then invalidRes else exactRes ftz (.inf false) 0#5 true
  | .fin n m e =>
    if m = 0 then exactRes ftz (.inf true) flagFDZ false
    else if n then invalidRes
    else match pow2Exp m e with
      | some k => exactRes ftz (FVal.ofInt k) 0#5 false
      | none =>
        let (neg, a, b) := log2Mag m e
        nearRes pick 2 codeInf ftz neg a b

/-- sin(π m 2^e) for a positive argument with e below 0: an exact 0 or ±1, or the reduced angle with its sign. -/
def sinReduce (m : Nat) (e : Int) : Bool × Nat × Nat :=
  let den : Nat := 2 ^ (-e).toNat
  let t := m % (2 * den)
  let neg := decide (den ≤ t)
  let t := t % den
  (neg, (if den < 2 * t then den - t else t), den)

/-- The value for a reduced angle. -/
def sinAngle (pick : Nat) (ftz neg : Bool) (m : Nat) (e : Int) : LaneF :=
  let (flip, t, den) := sinReduce m e
  if t = 0 then exactRes ftz (.fin false 0 0) 0#5 false
  else if 2 * t = den then exactRes ftz (.fin (neg != flip) 1 0) 0#5 false
  else nearRes pick 2 codeOne ftz (neg != flip) (sinPi t e).1 (sinPi t e).2

/-- VFSIN. -/
def fsin (pick : Nat) (ftz : Bool) : FVal → LaneF
  | .nan s => nanRes s
  | .inf _ => invalidRes
  | .fin n m e =>
    if m = 0 then exactRes ftz (.fin n 0 0) 0#5 false
    else if 0 ≤ e then exactRes ftz (.fin false 0 0) 0#5 false
    else sinAngle pick ftz n m e

/-- VFCOS: the sine a quarter turn on. -/
def fcos (pick : Nat) (ftz : Bool) : FVal → LaneF
  | .nan s => nanRes s
  | .inf _ => invalidRes
  | .fin _ m e =>
    if m = 0 then exactRes ftz (.fin false 1 0) 0#5 false
    else if 0 ≤ e then exactRes ftz (.fin (e == 0 && m % 2 == 1) 1 0) 0#5 false
    else sinAngle pick ftz false (2 * m + 2 ^ (-e).toNat) (e - 1)

/-- VFTANH. -/
def ftanh (pick : Nat) (ftz : Bool) : FVal → LaneF
  | .nan s => nanRes s
  | .inf n => exactRes ftz (.fin n 1 0) 0#5 true
  | .fin n m e =>
    if m = 0 then exactRes ftz (.fin n 0 0) 0#5 false
    else nearRes pick 2 codeOne ftz n (tanhMag m e).1 (tanhMag m e).2

/-- An approximated function on operand bits: a fixed function of them and FTZ (R114). -/
def approxOp (fn : Nat) (f : Nat → Bool → FVal → LaneF) (md a : Nat) : LaneF :=
  f (Config.approxPick fn (mdFtz md) (BitVec.ofNat 32 a)).toNat (mdFtz md) (Fmt.fp32.valueFtz (mdFtz md) a)

/-! ## Packed dot product and comparison (R116) -/

/-- VHDOT. -/
def hdot (md a b c : Nat) : LaneF :=
  let v := (mdFmt md).valueFtz (mdFtz md)
  let (a0, a1, b0, b1) := (v (a % 65536), v (a / 65536), v (b % 65536), v (b / 65536))
  let c := Fmt.fp32.valueFtz (mdFtz md) c
  let (p, f) := a0.mul b0
  let (q, f') := a1.mul b1
  let (s, f'') := FVal.sum (mdRm md) [c, p, q]
  rounded .fp32 md [a0, a1, b0, b1, c] (s, f ||| f' ||| f'')

/-- One element of VHCMP. -/
def hcmp (md a b _c : Nat) : LaneF :=
  let v := (mdFmt md).valueFtz (mdFtz md)
  let (p, fl) := fcond (bits md 7 5) (v a) (v b)
  { val := if p then 0xFFFF else 0, flags := fl, counts := [] }

/-! ## Conversion (R117, R118) -/

/-- A value into a floating-point format, rounded in direction `mode`, never flushed. -/
def toFmt (f : Fmt) (mode : RMode) (sat : Bool) (x : FVal) : LaneF :=
  LaneF.ofRes f (f.result mode false sat x 0#5 x.isNaN x.isInf)

/-- A value into a w-bit integer. -/
def toIntRes (w : Nat) (sgnd : Bool) (mode : RMode) (x : FVal) : LaneF :=
  let lo : Int := if sgnd then -(2 ^ (w - 1) : Int) else 0
  let hi : Int := if sgnd then 2 ^ (w - 1) - 1 else 2 ^ w - 1
  let (v, fl) := x.toInt mode lo hi
  { val := low w v, flags := fl, counts := [] }

/-- A scale into FP32 (R118): no flag. -/
def fromScale (a : Nat) : LaneF := toFmt .fp32 .rn false (e8m0Value (a % 256))

/-- The scale exponent of an FP32 value (R118). -/
def toScale (a : Nat) : LaneF :=
  { val := bits a 30 23, flags := if bits a 30 23 = 255 then flagNV else 0#5, counts := [] }

/-- The paths of Table 5.6. -/
def vcvt (md a _b _c : Nat) : LaneF :=
  let mode := RMode.ofBits (bits md 7 6)
  let sat := bitAt md 5
  let pair (f : Nat → LaneF) : LaneF := (f (a % 65536)).pack (f (a / 65536 % 65536))
  match bits md 4 0 with
  | 0x00 => toFmt .fp16 mode sat (Fmt.fp32.value a)
  | 0x01 => toFmt .bf16 mode sat (Fmt.fp32.value a)
  | 0x02 => toFmt .fp32 .rn false (Fmt.fp16.value (a % 65536))
  | 0x03 => toFmt .fp32 .rn false (Fmt.bf16.value (a % 65536))
  | 0x04 => toIntRes 32 true mode (Fmt.fp32.value a)
  | 0x05 => toIntRes 32 false mode (Fmt.fp32.value a)
  | 0x06 => toFmt .fp32 mode false (FVal.ofInt (sgn 32 a))
  | 0x07 => toFmt .fp32 mode false (FVal.ofInt (a % 2 ^ 32 : Nat))
  | 0x08 => pair (fun x => toFmt .bf16 mode sat (Fmt.fp16.value x))
  | 0x09 => pair (fun x => toFmt .fp16 mode sat (Fmt.bf16.value x))
  | 0x0A => pair (fun x => toIntRes 16 true mode (Fmt.fp16.value x))
  | 0x0B => pair (fun x => toFmt .fp16 mode false (FVal.ofInt (sgn 16 x)))
  | 0x0C => pair (fun x => toIntRes 16 true mode (Fmt.bf16.value x))
  | 0x0D => pair (fun x => toFmt .bf16 mode false (FVal.ofInt (sgn 16 x)))
  | 0x0E => toFmt .fp32 .rn false (Fmt.e4m3.value (a % 256))
  | 0x0F => toFmt .fp32 .rn false (Fmt.e5m2.value (a % 256))
  | 0x10 => toFmt .e4m3 mode sat (Fmt.fp32.value a)
  | 0x11 => toFmt .e5m2 mode sat (Fmt.fp32.value a)
  | 0x12 => fromScale a
  | _ => toScale a

/-- VPACK (R119). -/
def vpackVal (md a b _c : Nat) : LaneF :=
  let one (x : Nat) : LaneF :=
    let v := Fmt.fp32.valueFtz (mdFtz md) x
    rounded (mdFmt md) md [v] (v, 0#5)
  (one a).pack (one b)

/-- A NaN code of a 16-bit format in FP32: its sign and its mantissa, no flag (R75) (DEDUCED, log 41). -/
def widenNaN (f : Fmt) (e : Nat) : LaneF :=
  LaneF.ofRes .fp32
    { code := Fmt.fp32.signBit (bitAt e 15) + Fmt.fp32.infCode + e % 2 ^ f.mb * 2 ^ (23 - f.mb), flags := 0#5, nan := false,
      inf := false }

/-- VUNPK (R119): a packing move, through which a NaN passes unchanged (R75). -/
def vunpkVal (md a _b _c : Nat) : LaneF :=
  let e := if bitAt md 5 then a / 65536 % 65536 else a % 65536
  let v := (mdFmt md).valueFtz (mdFtz md) e
  if v.isNaN then widenNaN (mdFmt md) e else toFmt .fp32 .rn false v

/-- The floating-point format of EF 0–4 (Table 5.7). -/
def efFmt (ef : Nat) : Option Fmt :=
  match ef with
  | 0 => some .e4m3
  | 1 => some .e5m2
  | 2 => some .e2m3
  | 3 => some .e3m2
  | 4 => some .e2m1
  | _ => none

/-- The element width of EF (Table 5.7). -/
def efWidth (ef : Nat) : Nat := if ef = 4 || ef = 7 || ef = 8 then 4 else 8

/-- x × 2^k. -/
def FVal.scale (k : Int) : FVal → FVal
  | .nan s => .nan s
  | .inf n => .inf n
  | .fin n m e => .fin n m (e + k)

/-- The code of an FP32 value in element format EF (R120). -/
def efCode (md ef x : Nat) : LaneF :=
  let v := Fmt.fp32.valueFtz (mdFtz md) x
  match efFmt ef with
  | some f => rounded f md [v] (v, 0#5)
  | none =>
    match ef with
    | 5 => toIntRes 8 true (mdRm md) v
    | 6 => toIntRes 8 false (mdRm md) v
    | 7 => toIntRes 4 true (mdRm md) v
    | 8 => toIntRes 4 false (mdRm md) v
    | _ => toIntRes 8 true (mdRm md) (v.scale 6)

/-- VPK8 (R120) (DEDUCED, log 41). -/
def vpk8Val (md a b c : Nat) : LaneF :=
  let ef := bits md 7 4
  let w := efWidth ef
  let x := efCode md ef a
  let y := efCode md ef b
  { val := c % 2 ^ 32 / 2 ^ (2 * w) + x.val * 2 ^ (32 - 2 * w) + y.val * 2 ^ (32 - w), flags := x.flags ||| y.flags,
    counts := x.counts ++ y.counts }

/-- VUPK8 (R121): FTZ reads subnormal 8-bit float elements as zeros; in the 6-bit and 4-bit formats it acts on written
values alone (R74, DEDUCED, log 41). -/
def vupk8Val (md a b _c : Nat) : LaneF :=
  let ef := bits md 7 4
  let w := efWidth ef
  let e := a / 2 ^ (w * (b % (32 / w))) % 2 ^ w
  let v := match efFmt ef with
    | some f => f.valueFtz (mdFtz md && decide (ef ≤ 1)) (e % 2 ^ f.width)
    | none =>
      match ef with
      | 5 => FVal.ofInt (sgn 8 e)
      | 6 => FVal.ofInt e
      | 7 => FVal.ofInt (sgn 4 e)
      | 8 => FVal.ofInt e
      | _ => (FVal.ofInt (sgn 8 e)).scale (-6)
  toFmt .fp32 .rn false v

/-! ## Meanings -/

/-- VFADD (R109). -/
def execVfadd (x : FR) (s : State) : Res :=
  runLocal (.vfadd x) (x.spans 1 1 1) s (fop x (farith .add .fp32 x.md.toNat))

/-- VFSUB (R109). -/
def execVfsub (x : FR) (s : State) : Res :=
  runLocal (.vfsub x) (x.spans 1 1 1) s (fop x (farith .sub .fp32 x.md.toNat))

/-- VFMUL (R109). -/
def execVfmul (x : FR) (s : State) : Res :=
  runLocal (.vfmul x) (x.spans 1 1 1) s (fop x (farith .mul .fp32 x.md.toNat))

/-- VFMA (R109). -/
def execVfma (x : FR) (s : State) : Res :=
  runLocal (.vfma x) (x.spans 1 1 1) s (fop x (farith .fma .fp32 x.md.toNat))

/-- VFMS (R109). -/
def execVfms (x : FR) (s : State) : Res :=
  runLocal (.vfms x) (x.spans 1 1 1) s (fop x (farith .fms .fp32 x.md.toNat))

/-- VFNMA (R109). -/
def execVfnma (x : FR) (s : State) : Res :=
  runLocal (.vfnma x) (x.spans 1 1 1) s (fop x (farith .fnma .fp32 x.md.toNat))

/-- VFDIV (R109). -/
def execVfdiv (x : FR) (s : State) : Res :=
  runLocal (.vfdiv x) (x.spans 1 1 1) s (fop x (farith .div .fp32 x.md.toNat))

/-- VFSQRT (R109). -/
def execVfsqrt (x : FR) (s : State) : Res :=
  runLocal (.vfsqrt x) (x.spans 1 1 1) s (fop x (farith .sqrt .fp32 x.md.toNat))

/-- VFMIN (R110). -/
def execVfmin (x : FR) (s : State) : Res :=
  runLocal (.vfmin x) (x.spans 1 1 1) s (fop x (fun a b _ => fminmax false (bitAt x.md.toNat 4) .fp32 (mdFtz x.md.toNat) a b))

/-- VFMAX (R110). -/
def execVfmax (x : FR) (s : State) : Res :=
  runLocal (.vfmax x) (x.spans 1 1 1) s (fop x (fun a b _ => fminmax true (bitAt x.md.toNat 4) .fp32 (mdFtz x.md.toNat) a b))

/-- VFABS (Table 5.2, R112). -/
def execVfabs (x : FR) (s : State) : Res :=
  runLocal (.vfabs x) (x.spans 1 1 1) s (fop x (fun a _ _ => { val := a % 2 ^ 31, flags := 0#5, counts := [] }))

/-- VFNEG (Table 5.2, R112). -/
def execVfneg (x : FR) (s : State) : Res :=
  runLocal (.vfneg x) (x.spans 1 1 1) s (fop x (fun a _ _ => { val := a ^^^ 2 ^ 31, flags := 0#5, counts := [] }))

/-- VFCMP (R111). -/
def execVfcmp (x : FR) (s : State) : Res := runLocal (.vfcmp x) (x.spans 1 1 1) s (fcmpOp x)

/-- VFCLASS (R112). -/
def execVfclass (x : FR) (s : State) : Res :=
  runLocal (.vfclass x) (x.spans 1 1 1) s (fop x (fun a _ _ => { val := fclass a, flags := 0#5, counts := [] }))

/-- VFRCP (R114). -/
def execVfrcp (x : FR) (s : State) : Res :=
  runLocal (.vfrcp x) (x.spans 1 1 1) s (fop x (fun a _ _ => approxOp 14 frcp x.md.toNat a))

/-- VFRSQ (R114). -/
def execVfrsq (x : FR) (s : State) : Res :=
  runLocal (.vfrsq x) (x.spans 1 1 1) s (fop x (fun a _ _ => approxOp 15 frsq x.md.toNat a))

/-- VFEXP2 (R114). -/
def execVfexp2 (x : FR) (s : State) : Res :=
  runLocal (.vfexp2 x) (x.spans 1 1 1) s (fop x (fun a _ _ => approxOp 16 fexp2 x.md.toNat a))

/-- VFLOG2 (R114). -/
def execVflog2 (x : FR) (s : State) : Res :=
  runLocal (.vflog2 x) (x.spans 1 1 1) s (fop x (fun a _ _ => approxOp 17 flog2 x.md.toNat a))

/-- VFSIN (R114). -/
def execVfsin (x : FR) (s : State) : Res :=
  runLocal (.vfsin x) (x.spans 1 1 1) s (fop x (fun a _ _ => approxOp 18 fsin x.md.toNat a))

/-- VFCOS (R114). -/
def execVfcos (x : FR) (s : State) : Res :=
  runLocal (.vfcos x) (x.spans 1 1 1) s (fop x (fun a _ _ => approxOp 19 fcos x.md.toNat a))

/-- VFTANH (R114). -/
def execVftanh (x : FR) (s : State) : Res :=
  runLocal (.vftanh x) (x.spans 1 1 1) s (fop x (fun a _ _ => approxOp 20 ftanh x.md.toNat a))

/-- VFRND (R113). -/
def execVfrnd (x : FR) (s : State) : Res :=
  runLocal (.vfrnd x) (x.spans 1 1 1) s (fop x (fun a _ _ => frnd x.md.toNat a))

/-- VHADD (R115). -/
def execVhadd (x : FR) (s : State) : Res :=
  runLocal (.vhadd x) (x.spans 1 1 1) s (fop x (perHalf (farith .add (mdFmt x.md.toNat) x.md.toNat)))

/-- VHSUB (R115). -/
def execVhsub (x : FR) (s : State) : Res :=
  runLocal (.vhsub x) (x.spans 1 1 1) s (fop x (perHalf (farith .sub (mdFmt x.md.toNat) x.md.toNat)))

/-- VHMUL (R115). -/
def execVhmul (x : FR) (s : State) : Res :=
  runLocal (.vhmul x) (x.spans 1 1 1) s (fop x (perHalf (farith .mul (mdFmt x.md.toNat) x.md.toNat)))

/-- VHFMA (R115). -/
def execVhfma (x : FR) (s : State) : Res :=
  runLocal (.vhfma x) (x.spans 1 1 1) s (fop x (perHalf (farith .fma (mdFmt x.md.toNat) x.md.toNat)))

/-- VHMIN (R110, R115). -/
def execVhmin (x : FR) (s : State) : Res :=
  runLocal (.vhmin x) (x.spans 1 1 1) s (fop x (perHalf (fun a b _ => fminmax false (bitAt x.md.toNat 5) (mdFmt x.md.toNat) (mdFtz x.md.toNat) a b)))

/-- VHMAX (R110, R115). -/
def execVhmax (x : FR) (s : State) : Res :=
  runLocal (.vhmax x) (x.spans 1 1 1) s (fop x (perHalf (fun a b _ => fminmax true (bitAt x.md.toNat 5) (mdFmt x.md.toNat) (mdFtz x.md.toNat) a b)))

/-- VHDOT (R116). -/
def execVhdot (x : FR) (s : State) : Res :=
  runLocal (.vhdot x) (x.spans 1 1 1) s (fop x (hdot x.md.toNat))

/-- VHCMP (R116). -/
def execVhcmp (x : FR) (s : State) : Res :=
  runLocal (.vhcmp x) (x.spans 1 1 1) s (fop x (perHalf (hcmp x.md.toNat)))

/-- VCVT (R117, R118). -/
def execVcvt (x : FR) (s : State) : Res :=
  runLocal (.vcvt x) (x.spans 1 1 1) s (fop x (vcvt x.md.toNat))

/-- VPACK (R119). -/
def execVpack (x : FR) (s : State) : Res :=
  runLocal (.vpack x) (x.spans 1 1 1) s (fop x (vpackVal x.md.toNat))

/-- VUNPK (R119). -/
def execVunpk (x : FR) (s : State) : Res :=
  runLocal (.vunpk x) (x.spans 1 1 1) s (fop x (vunpkVal x.md.toNat))

/-- VPK8 (R120). -/
def execVpk8 (x : FR) (s : State) : Res :=
  runLocal (.vpk8 x) (x.spans 1 1 1) s (fop x (vpk8Val x.md.toNat))

/-- VUPK8 (R121). -/
def execVupk8 (x : FR) (s : State) : Res :=
  runLocal (.vupk8 x) (x.spans 1 1 1) s (fop x (vupk8Val x.md.toNat))

/-- The half VFADD. -/
def execVfaddHalf (x : Half) (s : State) : Res :=
  runHalf (.vfaddHalf x) (x.bin.spans 1 1 1) s (fop x.bin (farith .add .fp32 x.m5.toNat))

/-- The half VFSUB. -/
def execVfsubHalf (x : Half) (s : State) : Res :=
  runHalf (.vfsubHalf x) (x.bin.spans 1 1 1) s (fop x.bin (farith .sub .fp32 x.m5.toNat))

/-- The half VFMUL. -/
def execVfmulHalf (x : Half) (s : State) : Res :=
  runHalf (.vfmulHalf x) (x.bin.spans 1 1 1) s (fop x.bin (farith .mul .fp32 x.m5.toNat))

/-- The half VFMIN. -/
def execVfminHalf (x : Half) (s : State) : Res :=
  runHalf (.vfminHalf x) (x.bin.spans 1 1 1) s (fop x.bin (fun a b _ => fminmax false (bitAt x.m5.toNat 4) .fp32 (mdFtz x.m5.toNat) a b))

/-- The half VFMAX. -/
def execVfmaxHalf (x : Half) (s : State) : Res :=
  runHalf (.vfmaxHalf x) (x.bin.spans 1 1 1) s (fop x.bin (fun a b _ => fminmax true (bitAt x.m5.toNat 4) .fp32 (mdFtz x.m5.toNat) a b))

/-- The half VFABS. -/
def execVfabsHalf (x : Half) (s : State) : Res :=
  runHalf (.vfabsHalf x) (x.un.spans 1 1 1) s (fop x.un (fun a _ _ => { val := a % 2 ^ 31, flags := 0#5, counts := [] }))

/-- The half VFNEG. -/
def execVfnegHalf (x : Half) (s : State) : Res :=
  runHalf (.vfnegHalf x) (x.un.spans 1 1 1) s (fop x.un (fun a _ _ => { val := a ^^^ 2 ^ 31, flags := 0#5, counts := [] }))

/-- The half VHADD. -/
def execVhaddHalf (x : Half) (s : State) : Res :=
  runHalf (.vhaddHalf x) (x.bin.spans 1 1 1) s (fop x.bin (perHalf (farith .add (mdFmt x.m5.toNat) x.m5.toNat)))

/-- The half VHMUL. -/
def execVhmulHalf (x : Half) (s : State) : Res :=
  runHalf (.vhmulHalf x) (x.bin.spans 1 1 1) s (fop x.bin (perHalf (farith .mul (mdFmt x.m5.toNat) x.m5.toNat)))

/-- The half VCVT. -/
def execVcvtHalf (x : Half) (s : State) : Res :=
  runHalf (.vcvtHalf x) (x.un.spans 1 1 1) s (fop x.un (vcvt x.m5.toNat))

end Sys2Proof.Machine
end

