-- ==== Sys2Proof/Machine/Xlane.lean ====
section
/-! DEFINITION. Exchange between lanes (ch. 08): the XLANE family. -/

namespace Sys2Proof.Machine

/-- The segment width of SEG (Table 8.1). -/
def segWidth (md : Nat) : Nat :=
  match bits md 2 0 with
  | 0 => 96
  | 1 => 32
  | 2 => 16
  | 3 => 8
  | _ => 4

/-- SegBase(j) (R187). -/
def segBase (w j : Nat) : Nat := w * (j / w)

/-! ## Moving one value to each lane (R186, R189) -/

/-- Fetch(j, s, x): the value, and whether it was filtered (R186). -/
def Group.fetch (g : Group) (c : Ctx) (x : FR) (j : Nat) (src : Option Nat) : Nat × Bool :=
  match src with
  | none => (g.src c j x.c, false)
  | some i =>
    match AMap.find i g.lanes with
    | none => (g.src c j x.c, false)
    | some _ => if g.shares j i then (g.src c i x.a, false) else (g.src c j x.c, true)

/-- Set FILT in lane j when `f` holds (R60). -/
def Group.filt (g : Group) (j : Nat) (f : Bool) : Group := if f then g.setStat j statFILT else g

/-- D(j) := Fetch(j, src(j), A) in every lane that takes part (R189); `src` gets j and B(j). -/
def moveOp (x : FR) (src : Nat → Nat → Option Nat) (c : Ctx) (g : Group) : Eff :=
  .ok ((g.parts x.g.toNat).foldl (fun acc j =>
    let r := g.fetch c x j (src j (g.src c j x.b))
    (acc.setV j (regNum x.d) r.1).filt j r.2) g) []

/-- The sources of R189's table. -/
def srcShuf (w j b : Nat) : Option Nat := if b < w then some (segBase w j + b) else none

def srcUp (w j b : Nat) : Option Nat := if segBase w j + b ≤ j then some (j - b) else none

def srcDown (w j b : Nat) : Option Nat := if j + b < segBase w j + w then some (j + b) else none

def srcXor (w j b : Nat) : Option Nat :=
  let m := if w = 96 then b % 128 else b % w
  let o := (j - segBase w j) ^^^ m
  if o < w then some (segBase w j + o) else none

def srcLane (_j b : Nat) : Option Nat := if b < 96 then some b else none

def srcQuadXor (j b : Nat) : Option Nat := some (4 * (j / 4) + (j % 4 ^^^ b % 4))

def srcQuad (j b : Nat) : Option Nat := some (4 * (j / 4) + b % 4)

/-- VBCAST with a scalar destination (R190, Table 8.4). -/
def bcastScalar (x : FR) (c : Ctx) (g : Group) : Eff :=
  let b := g.src c 0 x.b
  let bad := Eff.trap 0x03 (0x43 + min b 127 * 256)
  match g.ownerCheck, g.leading with
  | some info, _ => .trap 0x03 info
  | none, none => bad
  | none, some lead =>
    match AMap.find b g.lanes with
    | none => bad
    | some _ =>
      if !g.shares lead b then bad
      else if (g.parts x.g.toNat).isEmpty then .ok g []
      else .ok (g.setS (regNum x.d) (g.src c b x.a)) []

/-! ## Scans and reductions (R191–R194) -/

/-- Combine (Table 8.2), with the flags of a rounding step. -/
def combine (opr a b : Nat) : Nat × FFlags :=
  match opr with
  | 0 => ((a + b) % 2 ^ 32, 0#5)
  | 1 => (if sgn 32 a ≤ sgn 32 b then a else b, 0#5)
  | 2 => (if sgn 32 a ≤ sgn 32 b then b else a, 0#5)
  | 3 => (min a b, 0#5)
  | 4 => (max a b, 0#5)
  | 5 => (a &&& b, 0#5)
  | 6 => (a ||| b, 0#5)
  | 7 => (a ^^^ b, 0#5)
  | 8 => let r := farith .add .fp32 0 a b 0
         (r.val, r.flags)
  | 9 => let r := fminmax false false .fp32 false a b
         (r.val, r.flags)
  | _ => let r := fminmax true false .fp32 false a b
         (r.val, r.flags)

/-- The left fold of Combine over a non-empty list, with every step's flags; a single contributor passes as it is, a NaN
among them (DEDUCED, log 64). -/
def foldOp (opr : Nat) (a : Nat) (rest : List Nat) : Nat × FFlags :=
  rest.foldl (fun acc b =>
    let r := combine opr acc.1 b
    (r.1, acc.2 ||| r.2)) (a, 0#5)

/-- What a fold's result feeds to the FP32 counters, for the float operations (R194): an overflow or underflow of any
step counts (DEDUCED, log 64). -/
def foldCounts (opr : Nat) (xs : List Nat) (r : Nat × FFlags) : List Nat :=
  if opr < 8 then []
  else
    let v := Fmt.fp32.value r.1
    FRes.counts .fp32
      { code := r.1, flags := r.2, nan := v.isNaN && !(xs.any (fun x => (Fmt.fp32.value x).isNaN)),
        inf := v.isInf && !(xs.any (fun x => (Fmt.fp32.value x).isInf)) }

/-- One lane's outcome: its value or none for the dead letter, flags, counters. -/
def foldLane (opr : Nat) (xs : List Nat) : Option Nat × FFlags × List Nat :=
  match xs with
  | [] => (none, 0#5, [])
  | a :: rest =>
    let r := foldOp opr a rest
    (some r.1, r.2, foldCounts opr xs r)

/-- VSCAN and VRED: `within j k` says that contributor k stands in lane j's scope (R191, R192). -/
def scanOp (x : FR) (within : Nat → Nat → Bool) (c : Ctx) (g : Group) : Eff :=
  let ls := g.parts x.g.toNat
  let opr := bits x.md.toNat 6 3
  let rs := ls.map (fun j =>
    let near := ls.filter (within j)
    (j, near.any (fun k => !g.shares j k),
      foldLane opr ((near.filter (g.shares j)).map (fun k => g.src c k x.a))))
  .ok (rs.foldl (fun acc e =>
      let (j, f, v, fl, _) := e
      let acc := (acc.setV j (regNum x.d) (v.getD (g.src c j x.c))).filt j f
      if g.help j then acc else acc.raise j fl) g)
    (rs.flatMap (fun e => if g.help e.1 then [] else e.2.2.2.2))

/-- VRDS (R193, R194). -/
def reduceScalar (x : FR) (c : Ctx) (g : Group) : Eff :=
  match g.ownerCheck with
  | some info => .trap 0x03 info
  | none =>
    let ls := g.parts x.g.toNat
    let opr := bits x.md.toNat 6 3
    match foldLane opr (ls.map (fun k => g.src c k x.a)) with
    | (none, _, _) => .ok g []
    | (some v, fl, counts) =>
      let r := if opr ≤ 2 then low 64 (sgn 32 v) else v
      .ok ((ls.filter (fun j => !g.help j)).foldl (fun acc j => acc.raise j fl) (g.setS (regNum x.d) r)) counts

/-! ## Votes and matches (R195–R197) -/

/-- The voters of an instruction (R195). -/
def Group.voters (g : Group) (guard : Nat) : List Nat := (g.parts guard).filter (fun j => !g.help j)

/-- Write a triple of mask words into a lane. -/
def Group.setTriple (g : Group) (j d : Nat) (ls : List Nat) : Group :=
  ((g.setV j d (laneWord ls 0)).setV j (d + 1) (laneWord ls 1)).setV j (d + 2) (laneWord ls 2)

/-- Every destination lane j that takes part gets `put j` of the voters that share with it; FILT where another voter
exists (R196). -/
def ballot (x : FR) (put : Group → Nat → List Nat → Group) (g : Group) : Eff :=
  let vs := g.voters x.g.toNat
  .ok ((g.parts x.g.toNat).foldl (fun acc j =>
    (put acc j (vs.filter (g.shares j))).filt j (vs.any (fun k => !g.shares j k))) g) []

/-- VOTE (R196). -/
def voteOp (x : FR) (_c : Ctx) (g : Group) : Eff :=
  match bits x.md.toNat 6 3 with
  | 0 =>
    if kScal x.d then
      match g.ownerCheck with
      | some info => .trap 0x03 info
      | none =>
        if (g.parts x.g.toNat).isEmpty then .ok g []
        else
          let ls := (g.voters x.g.toNat).filter (fun k => g.pred k x.a)
          let d := regNum x.d
          .ok (((g.setS d (laneWord ls 0)).setS (d + 1) (laneWord ls 1)).setS (d + 2) (laneWord ls 2)) []
    else ballot x (fun acc j vs => acc.setTriple j (regNum x.d) (vs.filter (fun k => g.pred k x.a))) g
  | 1 => ballot x (fun acc j vs => acc.setQ j (regNum x.d) (vs.any (fun k => g.pred k x.a))) g
  | _ => ballot x (fun acc j vs => acc.setQ j (regNum x.d) (vs.all (fun k => g.pred k x.a))) g

/-- VMATCH (R197). -/
def matchOp (x : FR) (c : Ctx) (g : Group) : Eff :=
  ballot x (fun acc j vs => acc.setTriple j (regNum x.d) (vs.filter (fun k => g.src c k x.a == g.src c j x.a))) g

/-! ## Meanings -/

/-- VSHUF (R189). -/
def execVshuf (x : FR) (s : State) : Res :=
  runLocal (.vshuf x) (x.spans 1 1 1) s (moveOp x (srcShuf (segWidth x.md.toNat)))

/-- VSHUFUP (R189). -/
def execVshufup (x : FR) (s : State) : Res :=
  runLocal (.vshufup x) (x.spans 1 1 1) s (moveOp x (srcUp (segWidth x.md.toNat)))

/-- VSHUFDN (R189). -/
def execVshufdn (x : FR) (s : State) : Res :=
  runLocal (.vshufdn x) (x.spans 1 1 1) s (moveOp x (srcDown (segWidth x.md.toNat)))

/-- VSHUFX (R189). -/
def execVshufx (x : FR) (s : State) : Res :=
  runLocal (.vshufx x) (x.spans 1 1 1) s (moveOp x (srcXor (segWidth x.md.toNat)))

/-- VBCAST (R189, R190). -/
def execVbcast (x : FR) (s : State) : Res :=
  runLocal (.vbcast x) (x.spans 1 1 1) s (if kScal x.d then bcastScalar x else moveOp x srcLane)

/-- QSWAP (R189). -/
def execQswap (x : FR) (s : State) : Res := runLocal (.qswap x) (x.spans 1 1 1) s (moveOp x srcQuadXor)

/-- QBCAST (R189). -/
def execQbcast (x : FR) (s : State) : Res := runLocal (.qbcast x) (x.spans 1 1 1) s (moveOp x srcQuad)

/-- VSCAN (R191). -/
def execVscan (x : FR) (s : State) : Res :=
  let w := segWidth x.md.toNat
  runLocal (.vscan x) (x.spans 1 1 1) s
    (scanOp x (fun j k => segBase w j == segBase w k && (decide (k < j) || (!bitAt x.md.toNat 7 && k == j))))

/-- VRED (R192). -/
def execVred (x : FR) (s : State) : Res :=
  let w := segWidth x.md.toNat
  runLocal (.vred x) (x.spans 1 1 1) s (scanOp x (fun j k => segBase w j == segBase w k))

/-- VRDS (R193). -/
def execVrds (x : FR) (s : State) : Res := runLocal (.vrds x) (x.spans 1 1 1) s (reduceScalar x)

/-- VOTE (R196). -/
def execVote (x : FR) (s : State) : Res := runLocal (.vote x) (x.spans 3 1 1) s (voteOp x)

/-- VMATCH (R197). -/
def execVmatch (x : FR) (s : State) : Res := runLocal (.vmatch x) (x.spans 3 1 1) s (matchOp x)

end Sys2Proof.Machine
end

