-- ==== Sys2Proof/Machine/Dispatch.lean ====
section
/-! DEFINITION. One arm per instruction and event of the opcode table, each one call of its meaning. -/

namespace Sys2Proof.Machine

def exec (i : Instr) (s : State) : Host.Outcome State Fault Refusal :=
  match i with
  | .nop x => Sys2Proof.Machine.execNop x s
  | .endGroup x => Sys2Proof.Machine.execEndGroup x s
  | .yield x => Sys2Proof.Machine.execYield x s
  | .trap x => Sys2Proof.Machine.execTrap x s
  | .tret x => Sys2Proof.Machine.execTret x s
  | .srd x => Sys2Proof.Machine.execSrd x s
  | .swr x => Sys2Proof.Machine.execSwr x s
  | .grow x => Sys2Proof.Machine.execGrow x s
  | .shrink x => Sys2Proof.Machine.execShrink x s
  | .emit x => Sys2Proof.Machine.execEmit x s
  | .waitc x => Sys2Proof.Machine.execWaitc x s
  | .sadd x => Sys2Proof.Machine.execSadd x s
  | .ssub x => Sys2Proof.Machine.execSsub x s
  | .smul x => Sys2Proof.Machine.execSmul x s
  | .smulh x => Sys2Proof.Machine.execSmulh x s
  | .sdiv x => Sys2Proof.Machine.execSdiv x s
  | .srem x => Sys2Proof.Machine.execSrem x s
  | .sand x => Sys2Proof.Machine.execSand x s
  | .sor x => Sys2Proof.Machine.execSor x s
  | .sxor x => Sys2Proof.Machine.execSxor x s
  | .sandn x => Sys2Proof.Machine.execSandn x s
  | .sshl x => Sys2Proof.Machine.execSshl x s
  | .sshr x => Sys2Proof.Machine.execSshr x s
  | .ssra x => Sys2Proof.Machine.execSsra x s
  | .srot x => Sys2Proof.Machine.execSrot x s
  | .smin x => Sys2Proof.Machine.execSmin x s
  | .smax x => Sys2Proof.Machine.execSmax x s
  | .sclz x => Sys2Proof.Machine.execSclz x s
  | .spopc x => Sys2Proof.Machine.execSpopc x s
  | .ssel x => Sys2Proof.Machine.execSsel x s
  | .scmp x => Sys2Proof.Machine.execScmp x s
  | .sbfe x => Sys2Proof.Machine.execSbfe x s
  | .sbfi x => Sys2Proof.Machine.execSbfi x s
  | .saddi x => Sys2Proof.Machine.execSaddi x s
  | .sandi x => Sys2Proof.Machine.execSandi x s
  | .sori x => Sys2Proof.Machine.execSori x s
  | .sxori x => Sys2Proof.Machine.execSxori x s
  | .sshli x => Sys2Proof.Machine.execSshli x s
  | .sshri x => Sys2Proof.Machine.execSshri x s
  | .ssrai x => Sys2Proof.Machine.execSsrai x s
  | .scmpi x => Sys2Proof.Machine.execScmpi x s
  | .smovi x => Sys2Proof.Machine.execSmovi x s
  | .smovhi x => Sys2Proof.Machine.execSmovhi x s
  | .msave x => Sys2Proof.Machine.execMsave x s
  | .mrest x => Sys2Proof.Machine.execMrest x s
  | .mset x => Sys2Proof.Machine.execMset x s
  | .mand x => Sys2Proof.Machine.execMand x s
  | .mandn x => Sys2Proof.Machine.execMandn x s
  | .mcnt x => Sys2Proof.Machine.execMcnt x s
  | .mfirst x => Sys2Proof.Machine.execMfirst x s
  | .bra x => Sys2Proof.Machine.execBra x s
  | .bcmp x => Sys2Proof.Machine.execBcmp x s
  | .bcmpi x => Sys2Proof.Machine.execBcmpi x s
  | .call x => Sys2Proof.Machine.execCall x s
  | .ret x => Sys2Proof.Machine.execRet x s
  | .jmpr x => Sys2Proof.Machine.execJmpr x s
  | .bany x => Sys2Proof.Machine.execBany x s
  | .ball x => Sys2Proof.Machine.execBall x s
  | .bnone x => Sys2Proof.Machine.execBnone x s
  | .sld x => Sys2Proof.Machine.execSld x s
  | .sst x => Sys2Proof.Machine.execSst x s
  | .sldc x => Sys2Proof.Machine.execSldc x s
  | .vadd x => Sys2Proof.Machine.execVadd x s
  | .vsub x => Sys2Proof.Machine.execVsub x s
  | .vmul x => Sys2Proof.Machine.execVmul x s
  | .vmulh x => Sys2Proof.Machine.execVmulh x s
  | .vmad x => Sys2Proof.Machine.execVmad x s
  | .vaddc x => Sys2Proof.Machine.execVaddc x s
  | .vsubb x => Sys2Proof.Machine.execVsubb x s
  | .vdiv x => Sys2Proof.Machine.execVdiv x s
  | .vrem x => Sys2Proof.Machine.execVrem x s
  | .vabs x => Sys2Proof.Machine.execVabs x s
  | .vneg x => Sys2Proof.Machine.execVneg x s
  | .vmin x => Sys2Proof.Machine.execVmin x s
  | .vmax x => Sys2Proof.Machine.execVmax x s
  | .vand x => Sys2Proof.Machine.execVand x s
  | .vor x => Sys2Proof.Machine.execVor x s
  | .vxor x => Sys2Proof.Machine.execVxor x s
  | .vandn x => Sys2Proof.Machine.execVandn x s
  | .vnot x => Sys2Proof.Machine.execVnot x s
  | .vshl x => Sys2Proof.Machine.execVshl x s
  | .vshr x => Sys2Proof.Machine.execVshr x s
  | .vsra x => Sys2Proof.Machine.execVsra x s
  | .vrot x => Sys2Proof.Machine.execVrot x s
  | .vclz x => Sys2Proof.Machine.execVclz x s
  | .vpopc x => Sys2Proof.Machine.execVpopc x s
  | .vbrev x => Sys2Proof.Machine.execVbrev x s
  | .vbfe x => Sys2Proof.Machine.execVbfe x s
  | .vbfi x => Sys2Proof.Machine.execVbfi x s
  | .vsel x => Sys2Proof.Machine.execVsel x s
  | .vcmp x => Sys2Proof.Machine.execVcmp x s
  | .vmov x => Sys2Proof.Machine.execVmov x s
  | .vadds x => Sys2Proof.Machine.execVadds x s
  | .vsubs x => Sys2Proof.Machine.execVsubs x s
  | .vdot4 x => Sys2Proof.Machine.execVdot4 x s
  | .vdot2 x => Sys2Proof.Machine.execVdot2 x s
  | .vaddi x => Sys2Proof.Machine.execVaddi x s
  | .vandi x => Sys2Proof.Machine.execVandi x s
  | .vori x => Sys2Proof.Machine.execVori x s
  | .vxori x => Sys2Proof.Machine.execVxori x s
  | .vshli x => Sys2Proof.Machine.execVshli x s
  | .vshri x => Sys2Proof.Machine.execVshri x s
  | .vsrai x => Sys2Proof.Machine.execVsrai x s
  | .vcmpi x => Sys2Proof.Machine.execVcmpi x s
  | .vmovi x => Sys2Proof.Machine.execVmovi x s
  | .vlea x => Sys2Proof.Machine.execVlea x s
  | .vaddw x => Sys2Proof.Machine.execVaddw x s
  | .vsubw x => Sys2Proof.Machine.execVsubw x s
  | .vfadd x => Sys2Proof.Machine.execVfadd x s
  | .vfsub x => Sys2Proof.Machine.execVfsub x s
  | .vfmul x => Sys2Proof.Machine.execVfmul x s
  | .vfma x => Sys2Proof.Machine.execVfma x s
  | .vfms x => Sys2Proof.Machine.execVfms x s
  | .vfnma x => Sys2Proof.Machine.execVfnma x s
  | .vfmin x => Sys2Proof.Machine.execVfmin x s
  | .vfmax x => Sys2Proof.Machine.execVfmax x s
  | .vfabs x => Sys2Proof.Machine.execVfabs x s
  | .vfneg x => Sys2Proof.Machine.execVfneg x s
  | .vfcmp x => Sys2Proof.Machine.execVfcmp x s
  | .vfclass x => Sys2Proof.Machine.execVfclass x s
  | .vfdiv x => Sys2Proof.Machine.execVfdiv x s
  | .vfsqrt x => Sys2Proof.Machine.execVfsqrt x s
  | .vfrcp x => Sys2Proof.Machine.execVfrcp x s
  | .vfrsq x => Sys2Proof.Machine.execVfrsq x s
  | .vfexp2 x => Sys2Proof.Machine.execVfexp2 x s
  | .vflog2 x => Sys2Proof.Machine.execVflog2 x s
  | .vfsin x => Sys2Proof.Machine.execVfsin x s
  | .vfcos x => Sys2Proof.Machine.execVfcos x s
  | .vftanh x => Sys2Proof.Machine.execVftanh x s
  | .vfrnd x => Sys2Proof.Machine.execVfrnd x s
  | .vhadd x => Sys2Proof.Machine.execVhadd x s
  | .vhsub x => Sys2Proof.Machine.execVhsub x s
  | .vhmul x => Sys2Proof.Machine.execVhmul x s
  | .vhfma x => Sys2Proof.Machine.execVhfma x s
  | .vhmin x => Sys2Proof.Machine.execVhmin x s
  | .vhmax x => Sys2Proof.Machine.execVhmax x s
  | .vhdot x => Sys2Proof.Machine.execVhdot x s
  | .vhcmp x => Sys2Proof.Machine.execVhcmp x s
  | .vcvt x => Sys2Proof.Machine.execVcvt x s
  | .vpack x => Sys2Proof.Machine.execVpack x s
  | .vunpk x => Sys2Proof.Machine.execVunpk x s
  | .vpk8 x => Sys2Proof.Machine.execVpk8 x s
  | .vupk8 x => Sys2Proof.Machine.execVupk8 x s
  | .vshuf x => Sys2Proof.Machine.execVshuf x s
  | .vshufup x => Sys2Proof.Machine.execVshufup x s
  | .vshufdn x => Sys2Proof.Machine.execVshufdn x s
  | .vshufx x => Sys2Proof.Machine.execVshufx x s
  | .vbcast x => Sys2Proof.Machine.execVbcast x s
  | .qswap x => Sys2Proof.Machine.execQswap x s
  | .qbcast x => Sys2Proof.Machine.execQbcast x s
  | .vscan x => Sys2Proof.Machine.execVscan x s
  | .vred x => Sys2Proof.Machine.execVred x s
  | .vrds x => Sys2Proof.Machine.execVrds x s
  | .vote x => Sys2Proof.Machine.execVote x s
  | .vmatch x => Sys2Proof.Machine.execVmatch x s
  | .vld x => Sys2Proof.Machine.execVld x s
  | .vst x => Sys2Proof.Machine.execVst x s
  | .vlds x => Sys2Proof.Machine.execVlds x s
  | .vsts x => Sys2Proof.Machine.execVsts x s
  | .vldw x => Sys2Proof.Machine.execVldw x s
  | .vstw x => Sys2Proof.Machine.execVstw x s
  | .vpref x => Sys2Proof.Machine.execVpref x s
  | .vamo op x => Sys2Proof.Machine.execVamo op x s
  | .samo op x => Sys2Proof.Machine.execSamo op x s
  | .cpy x => Sys2Proof.Machine.execCpy x s
  | .cpyt x => Sys2Proof.Machine.execCpyt x s
  | .discard x => Sys2Proof.Machine.execDiscard x s
  | .ttag x => Sys2Proof.Machine.execTtag x s
  | .xputSend x => Sys2Proof.Machine.execXputSend x s
  | .xputRead x => Sys2Proof.Machine.execXputRead x s
  | .coll x => Sys2Proof.Machine.execColl x s
  | .fence x => Sys2Proof.Machine.execFence x s
  | .tfence x => Sys2Proof.Machine.execTfence x s
  | .binit x => Sys2Proof.Machine.execBinit x s
  | .barv x => Sys2Proof.Machine.execBarv x s
  | .bwait x => Sys2Proof.Machine.execBwait x s
  | .bsync x => Sys2Proof.Machine.execBsync x s
  | .cbar x => Sys2Proof.Machine.execCbar x s
  | .cmt x => Sys2Proof.Machine.execCmt x s
  | .mres x => Sys2Proof.Machine.execMres x s
  | .mrel x => Sys2Proof.Machine.execMrel x s
  | .modeM x => Sys2Proof.Machine.execModeM x s
  | .modeV x => Sys2Proof.Machine.execModeV x s
  | .mzero x => Sys2Proof.Machine.execMzero x s
  | .ald x => Sys2Proof.Machine.execAld x s
  | .ast x => Sys2Proof.Machine.execAst x s
  | .aacc x => Sys2Proof.Machine.execAacc x s
  | .acpy x => Sys2Proof.Machine.execAcpy x s
  | .ldsc x => Sys2Proof.Machine.execLdsc x s
  | .mopa x => Sys2Proof.Machine.execMopa x s
  | .vaddHalf x => Sys2Proof.Machine.execVaddHalf x s
  | .vsubHalf x => Sys2Proof.Machine.execVsubHalf x s
  | .vmulHalf x => Sys2Proof.Machine.execVmulHalf x s
  | .vandHalf x => Sys2Proof.Machine.execVandHalf x s
  | .vorHalf x => Sys2Proof.Machine.execVorHalf x s
  | .vxorHalf x => Sys2Proof.Machine.execVxorHalf x s
  | .vandnHalf x => Sys2Proof.Machine.execVandnHalf x s
  | .vshlHalf x => Sys2Proof.Machine.execVshlHalf x s
  | .vshrHalf x => Sys2Proof.Machine.execVshrHalf x s
  | .vsraHalf x => Sys2Proof.Machine.execVsraHalf x s
  | .vminHalf x => Sys2Proof.Machine.execVminHalf x s
  | .vmaxHalf x => Sys2Proof.Machine.execVmaxHalf x s
  | .vmovHalf x => Sys2Proof.Machine.execVmovHalf x s
  | .vnegHalf x => Sys2Proof.Machine.execVnegHalf x s
  | .vnotHalf x => Sys2Proof.Machine.execVnotHalf x s
  | .vabsHalf x => Sys2Proof.Machine.execVabsHalf x s
  | .vfaddHalf x => Sys2Proof.Machine.execVfaddHalf x s
  | .vfsubHalf x => Sys2Proof.Machine.execVfsubHalf x s
  | .vfmulHalf x => Sys2Proof.Machine.execVfmulHalf x s
  | .vfminHalf x => Sys2Proof.Machine.execVfminHalf x s
  | .vfmaxHalf x => Sys2Proof.Machine.execVfmaxHalf x s
  | .vfabsHalf x => Sys2Proof.Machine.execVfabsHalf x s
  | .vfnegHalf x => Sys2Proof.Machine.execVfnegHalf x s
  | .vhaddHalf x => Sys2Proof.Machine.execVhaddHalf x s
  | .vhmulHalf x => Sys2Proof.Machine.execVhmulHalf x s
  | .vcvtHalf x => Sys2Proof.Machine.execVcvtHalf x s
  | .saddHalf x => Sys2Proof.Machine.execSaddHalf x s
  | .ssubHalf x => Sys2Proof.Machine.execSsubHalf x s
  | .sandHalf x => Sys2Proof.Machine.execSandHalf x s
  | .sorHalf x => Sys2Proof.Machine.execSorHalf x s
  | .sxorHalf x => Sys2Proof.Machine.execSxorHalf x s
  | .sshlHalf x => Sys2Proof.Machine.execSshlHalf x s
  | .sshrHalf x => Sys2Proof.Machine.execSshrHalf x s
  | .ssraHalf x => Sys2Proof.Machine.execSsraHalf x s
  | .smovHalf x => Sys2Proof.Machine.execSmovHalf x s
  | .sminHalf x => Sys2Proof.Machine.execSminHalf x s
  | .smaxHalf x => Sys2Proof.Machine.execSmaxHalf x s
  | .smulHalf x => Sys2Proof.Machine.execSmulHalf x s
  | .saddi8Half x => Sys2Proof.Machine.execSaddi8Half x s
  | .smovi8Half x => Sys2Proof.Machine.execSmovi8Half x s
  | .nopHalf rest => Sys2Proof.Machine.execNopHalf rest s
  | .stampreg p => Sys2Proof.Machine.execStampreg p s
  | .stampdel p => Sys2Proof.Machine.execStampdel p s
  | .rangeinv p => Sys2Proof.Machine.execRangeinv p s
  | .zerofill p => Sys2Proof.Machine.execZerofill p s
  | .load p => Sys2Proof.Machine.execLoad p s
  | .unload p => Sys2Proof.Machine.execUnload p s
  | .chanreg p => Sys2Proof.Machine.execChanreg p s
  | .attest p => Sys2Proof.Machine.execAttest p s
  | .collset p => Sys2Proof.Machine.execCollset p s
  | .replay p => Sys2Proof.Machine.execReplay p s
  | .tlbiAll p val => Sys2Proof.Machine.execTlbiAll p val s
  | .tlbiStage1Range p val => Sys2Proof.Machine.execTlbiStage1Range p val s
  | .tlbiStage2Range p val => Sys2Proof.Machine.execTlbiStage2Range p val s
  | .tlbiDone p => Sys2Proof.Machine.execTlbiDone p s
  | .ttbWrite p second val => Sys2Proof.Machine.execTtbWrite p second val s
  | .qopenAll p => Sys2Proof.Machine.execQopenAll p s
  | .qopenId p id => Sys2Proof.Machine.execQopenId p id s
  | .gaugeClear u val => Sys2Proof.Machine.execGaugeClear u val s
  | .exceptionCounterClear p slot fmt kind => Sys2Proof.Machine.execExceptionCounterClear p slot fmt kind s
  | .emitlostClear p slot => Sys2Proof.Machine.execEmitlostClear p slot s
  | .xarmWrite p n val => Sys2Proof.Machine.execXarmWrite p n val s
  | .submitRecord p stamp slot word => Sys2Proof.Machine.execSubmitRecord p stamp slot word s
  | .channelCommand p stamp => Sys2Proof.Machine.execChannelCommand p stamp s
  | .channelCommandComplete p chan hostData => Sys2Proof.Machine.execChannelCommandComplete p chan hostData s
  | .firmwareCheck image => Sys2Proof.Machine.execFirmwareCheck image s
  | .registerWrite r val => Sys2Proof.Machine.execRegisterWrite r val s
  | .powerUp => Sys2Proof.Machine.execPowerUp s
  | .hostIaWrite p ia data => Sys2Proof.Machine.execHostIaWrite p ia data s
  | .hostIaRead p ia n => Sys2Proof.Machine.execHostIaRead p ia n s
  | .hostAtomic p ia op n x c => Sys2Proof.Machine.execHostAtomic p ia op n x c s
  | .peerRequest peer off op => Sys2Proof.Machine.execPeerRequest peer off op s
  | .peerCompletion p d rid epoch data abort => Sys2Proof.Machine.execPeerCompletion p d rid epoch data abort s
  | .peerQuarantine p d => Sys2Proof.Machine.execPeerQuarantine p d s
  | .completerDeadline rid => Sys2Proof.Machine.execCompleterDeadline rid s
  | .collReady p set tag member digest => Sys2Proof.Machine.execCollReady p set tag member digest s
  | .collHandshakeTimeout p set tag => Sys2Proof.Machine.execCollHandshakeTimeout p set tag s
  | .collComplete p set tag contribs order => Sys2Proof.Machine.execCollComplete p set tag contribs order s
  | .evidenceRequest peer nonce => Sys2Proof.Machine.execEvidenceRequest peer nonce s
  | .recordArrival p graph node => Sys2Proof.Machine.execRecordArrival p graph node s
  | .batchWindowClose p batch => Sys2Proof.Machine.execBatchWindowClose p batch s
  | .batchDispatch p => Sys2Proof.Machine.execBatchDispatch p s
  | .preemptionRequest block bound => Sys2Proof.Machine.execPreemptionRequest block bound s
  | .saveComplete block => Sys2Proof.Machine.execSaveComplete block s
  | .blockResume block core => Sys2Proof.Machine.execBlockResume block core s
  | .tshareTurnEnd cluster next => Sys2Proof.Machine.execTshareTurnEnd cluster next s
  | .clearSequence cluster dirty => Sys2Proof.Machine.execClearSequence cluster dirty s
  | .coreFenceOff core => Sys2Proof.Machine.execCoreFenceOff core s
  | .shadowLatchReplay core => Sys2Proof.Machine.execShadowLatchReplay core s
  | .parkingEvent gid op => Sys2Proof.Machine.execParkingEvent gid op s
  | .parkCourse gid => Sys2Proof.Machine.execParkCourse gid s
  | .splitCopyDone gid => Sys2Proof.Machine.execSplitCopyDone gid s
  | .loadDataArrival gid op lanes => Sys2Proof.Machine.execLoadDataArrival gid op lanes s
  | .storeAck gid op => Sys2Proof.Machine.execStoreAck gid op s
  | .atomicResponse gid op => Sys2Proof.Machine.execAtomicResponse gid op s
  | .engineComplete gid op => Sys2Proof.Machine.execEngineComplete gid op s
  | .acpyComplete gid op => Sys2Proof.Machine.execAcpyComplete gid op s
  | .mxComplete gid op => Sys2Proof.Machine.execMxComplete gid op s
  | .xputComplete gid op => Sys2Proof.Machine.execXputComplete gid op s
  | .sealRelease gid => Sys2Proof.Machine.execSealRelease gid s
  | .waitcResume gid => Sys2Proof.Machine.execWaitcResume gid s
  | .growDone gid => Sys2Proof.Machine.execGrowDone gid s
  | .shrinkDone gid => Sys2Proof.Machine.execShrinkDone gid s
  | .fenceDone gid => Sys2Proof.Machine.execFenceDone gid s
  | .tfenceDone gid => Sys2Proof.Machine.execTfenceDone gid s
  | .modeMEnter gid => Sys2Proof.Machine.execModeMEnter gid s
  | .modeVDrained gid => Sys2Proof.Machine.execModeVDrained gid s
  | .groupEnd gid => Sys2Proof.Machine.execGroupEnd gid s
  | .barvRegister gid point => Sys2Proof.Machine.execBarvRegister gid point s
  | .bwaitResume gid => Sys2Proof.Machine.execBwaitResume gid s
  | .cbarRegister gid => Sys2Proof.Machine.execCbarRegister gid s
  | .releasePerform gid op => Sys2Proof.Machine.execReleasePerform gid op s
  | .commitBufferRoom gid => Sys2Proof.Machine.execCommitBufferRoom gid s
  | .activeSlotTimeout core slot => Sys2Proof.Machine.execActiveSlotTimeout core slot s
  | .pendingPromotion gid => Sys2Proof.Machine.execPendingPromotion gid s
  | .sliceRequest rid high => Sys2Proof.Machine.execSliceRequest rid high s
  | .walkComplete wid fresh => Sys2Proof.Machine.execWalkComplete wid fresh s
  | .hbmUncorrectableError pa => Sys2Proof.Machine.execHbmUncorrectableError pa s
  | .keyRevokeFlush key => Sys2Proof.Machine.execKeyRevokeFlush key s
  | .keyRevokeImmediate key => Sys2Proof.Machine.execKeyRevokeImmediate key s
  | .keyRevokeComplete key => Sys2Proof.Machine.execKeyRevokeComplete key s
  | .partitionMapChange p entry => Sys2Proof.Machine.execPartitionMapChange p entry s
  | .waySweepDone p => Sys2Proof.Machine.execWaySweepDone p s
  | .partitionCreate p => Sys2Proof.Machine.execPartitionCreate p s
  | .partitionReset p => Sys2Proof.Machine.execPartitionReset p s
  | .flitReceive link corrupt => Sys2Proof.Machine.execFlitReceive link corrupt s
  | .linkResendRequest link seq => Sys2Proof.Machine.execLinkResendRequest link seq s
  | .linkAck link seq => Sys2Proof.Machine.execLinkAck link seq s
  | .linkRetrain link => Sys2Proof.Machine.execLinkRetrain link s
  | .linkRetrainDone link => Sys2Proof.Machine.execLinkRetrainDone link s
  | .tornStatus rid => Sys2Proof.Machine.execTornStatus rid s
  | .linkRekey link => Sys2Proof.Machine.execLinkRekey link s
  | .linkRekeySwitch link key => Sys2Proof.Machine.execLinkRekeySwitch link key s
  | .quotaPeriodEnd station => Sys2Proof.Machine.execQuotaPeriodEnd station s
  | .gaugeQueueSample u => Sys2Proof.Machine.execGaugeQueueSample u s
  | .commandEnd p => Sys2Proof.Machine.execCommandEnd p s
  | .attestMemberTimeout p => Sys2Proof.Machine.execAttestMemberTimeout p s
  | .frameSlot link => Sys2Proof.Machine.execFrameSlot link s
  | .powerGating core gated => Sys2Proof.Machine.execPowerGating core gated s
  | .tdispRequest p run => Sys2Proof.Machine.execTdispRequest p run s
  | .atsCompletion wid hostPa => Sys2Proof.Machine.execAtsCompletion wid hostPa s
  | .hostCompleterDeadline rid => Sys2Proof.Machine.execHostCompleterDeadline rid s
  | .memoryKeyProgram key part context value => Sys2Proof.Machine.execMemoryKeyProgram key part context value s

end Sys2Proof.Machine
end

