-- ==== Sys2Proof/Machine/Clock.lean ====
section
/-! DEFINITION. What moves: the issue of one word of a group (R32, R51, R55, R170, R215), an arithmetic clock of a core
(R216, R218, R270, R386), and the machine's own moves that no row names. -/

namespace Sys2Proof.Machine

/-! ## Issuing a word -/

/-- Go on from a next state. -/
def thenDo (r : Res) (f : State → Res) : Res :=
  match r with
  | .next s => f s
  | .fault x => .fault x
  | .refused x => .refused x

/-- Change the issuing group; a group that is gone stays gone. -/
def State.adjCur (s : State) (gid : Nat) (f : Group → Group) : State := s.adjGroup gid f

/-- A pair word raised a trap in one half: nothing of the word stands but the trap (R55). -/
def State.pairTrap (before after : State) (gid : Nat) (g : Group) : State :=
  match AMap.find gid after.groups with
  | some g' => before.enterTrap gid g g'.trapkind.toNat g'.trapinfo.toNat g.pc
  | none => before

/-- The group stands inside the word: its operand latch is still set. -/
def State.latchHeld (s : State) (gid : Nat) : Bool :=
  match AMap.find gid s.groups with
  | some g => g.latch.isSome
  | none => false

/-- A pair word that passed its checks: both halves read the latched operands, then the PC moves (R51). -/
def runPair (gid : Nat) (g : Group) (h0 h1 : Instr) (s : State) : Res :=
  thenDo (exec h0 (s.adjCur gid (fun g => g.latched 0))) (fun s0 =>
    if !s0.latchHeld gid then .next (s.pairTrap s0 gid g)
    else thenDo (exec h1 (s0.adjCur gid (fun g => g.latched 1))) (fun s1 =>
      if !s1.latchHeld gid then .next (s.pairTrap s1 gid g)
      else .next (s1.adjCur gid Group.unlatch)))

/-- Execute a word on the issuing group. -/
def runBody (gid : Nat) (g : Group) (w : Nat) (s : State) : Res :=
  match decodeBody w with
  | .bad r => .next (s.enterTrap gid g 0x01 r g.pc)
  | .full i => exec i s
  | .pair (some h0) (some h1) =>
    match pairCheck w with
    | some (k, info) => .next (s.enterTrap gid g k info g.pc)
    | none => if !pairFits g.alloc w then .next (s.enterTrap gid g 0x09 0x21 g.pc) else runPair gid g h0 h1 s
  | .pair _ _ =>
    match pairCheck w with
    | some (k, info) => .next (s.enterTrap gid g k info g.pc)
    | none => .next s

/-- The word w of group gid issues on a core. -/
def issueWord (core gid : Nat) (g : Group) (w : Nat) (s : State) : Res :=
  let s1 : State := { s with cur := some gid }
  thenDo (runBody gid g w s1) (fun s2 =>
    let s3 := (s2.sealAfter gid g w).issued core gid g w
    .next { s3 with cur := none })

/-- The chosen group issues its next word, or takes the trap of an offset past the end of .text. -/
def issueNext (core gid : Nat) (s : State) : Res :=
  match AMap.find gid s.groups with
  | none => .next s
  | some g =>
    match s.blockOf g with
    | none => .next s
    | some b =>
      if b.node.textSize ≤ g.pc then .next (s.enterTrap gid g 0x08 0x35 g.pc)
      else match s.cachedWord g b with
        | none => .next s
        | some w => issueWord core gid g w s

/-! ## An arithmetic clock -/

/-- The next state of a move that ends in one. -/
def State.orStay (s : State) (r : Res) : State :=
  match r with
  | .next s' => s'
  | .fault _ | .refused _ => s

/-- The courses due on a core are taken at their groups' word boundaries (R270). -/
def State.takeCourses (s : State) (core : Nat) : State :=
  ((s.groupsOn core).filter (fun e => !e.2.courses.isEmpty)).foldl (fun s e => s.orStay (execParkCourse e.1 s)) s

/-- Pre-emptions and REPLAYs that waited for a split (R281). -/
def State.afterSplits (s : State) (core : Nat) : State := (s.serveAsked core).applyWaiting

/-- What comes before the choice of a clock: courses at word boundaries, what waited for them, the sets, the fetches (R215, R218,
R270, R281). -/
def State.prepare (s : State) (core : Nat) : State := (((s.takeCourses core).afterSplits core).arrange core).fetchNext core

/-- One arithmetic clock of a core: at most one word issues (R216); none while its issue clock is gated (R386). -/
def clockCore (core : Nat) (s : State) : Res :=
  if (s.core core).gated then .next ((s.afterSplits core).tickCore core)
  else
    let s := s.prepare core
    let won := s.chosen core
    let s := s.passCounts core won
    match won with
    | none => .next (s.tickCore core)
    | some gid => thenDo (issueNext core gid s) (fun s => .next (s.tickCore core))

/-! ## What the core store lends to L1 (R205, R208, R209, R212, R213) -/

/-- How the core keeps one 128-byte row of a register, 32 lanes of it (R209). -/
inductive RowForm where
  | uniform | baseDelta | raw
  deriving DecidableEq, Repr

/-- The lanes of row k: register k / 3, beat k mod 3 (DESIGN CHOICE, log 74). A lane outside the roster reads 0. -/
def Group.row (g : Group) (k : Nat) : List Nat := (List.range 32).map (fun i => g.getV (32 * (k % 3) + i) (k / 3))

/-- The difference of two lanes lies within −128 and 127. -/
def nearLane (a b : Nat) : Bool := decide ((b + 128 + 2 ^ 32 - a) % 2 ^ 32 < 256)

def rowForm (row : List Nat) : RowForm :=
  let a := row.headD 0
  if row.all (fun x => x == a) then .uniform else if row.all (nearLane a) then .baseDelta else .raw

/-- Bytes of a row as kept: one value, or one value and a byte for each lane (DESIGN CHOICE, log 74). -/
def RowForm.bytes : RowForm → Nat
  | .uniform => 4
  | .baseDelta => 36
  | .raw => 128

/-- The row pair 2k and 2k + 1 fits in 128 bytes. -/
def Group.lendsPair (g : Group) (k : Nat) : Bool :=
  decide ((rowForm (g.row (2 * k))).bytes + (rowForm (g.row (2 * k + 1))).bytes ≤ 128)

/-- The lines that the row pairs of a group's allocated registers lend to L1 (R209). -/
def Group.lentLines (g : Group) : Nat := ((List.range (24 * g.alloc)).filter g.lendsPair).length

/-- Granules that L1 has on a core: those not charged, and those lent whole while unused (R212, R213). -/
def State.l1Granules (s : State) (core : Nat) : Nat :=
  1024 - s.charged core
    + (s.blocks.filter (fun e => e.2.core == core && e.2.mode != .saved)).foldl (fun n e => n + e.2.spare.length) 0
    + (s.groupsOn core).foldl (fun n e => n + (e.2.grans.length - 3 * e.2.alloc)) 0

/-- Lines of 128 bytes that L1 can hold on a core, those lent by row pairs among them. -/
def State.l1Room (s : State) (core : Nat) : Nat :=
  (s.groupsOn core).foldl (fun n e => n + e.2.lentLines) (16 * s.l1Granules core)

/-- The lines that L1 holds of a core. -/
def Core.l1Lines (c : Core) : List Nat := (c.l1.map (fun e => e.1 / 8)).eraseDups

/-- L1 gives up n lines, which ones the spec does not say (DESIGN CHOICE, log 73). -/
def State.evictL1 (core : Nat) : Nat → State → State
  | 0, s => s
  | n + 1, s =>
    let (t, s) := s.fresh
    let c := s.core core
    let lines := c.l1Lines
    let line := lines.getD ((Config.freeWord t).toNat % lines.length) 0
    State.evictL1 core n (s.setCore core { c with l1 := c.l1.filter (fun e => e.1 / 8 != line) })

/-- A core's L1 holds no more lines than the core store leaves it: a charge, a growth and a write that makes a row pair
larger evict (R208, R209). -/
def State.fitL1 (s : State) (core : Nat) : State :=
  let n := (s.core core).l1Lines.length
  if n = 0 || n ≤ 16 * s.l1Granules core || n ≤ s.l1Room core then s else State.evictL1 core (n - s.l1Room core) s

/-- The same for every core, after each move. -/
def State.fitL1s (s : State) : State := (s.cores.map Prod.fst).foldl State.fitL1 s

/-! ## The other moves -/

/-- A core's L1 gives up a word. -/
def State.dropL1 (s : State) (core key : Nat) : State :=
  let c := s.core core
  s.setCore core { c with l1 := AMap.del key c.l1 }

/-- An instruction cache gives up a word. -/
def State.dropCode (s : State) (cluster key : Nat) : State :=
  let k := s.cluster cluster
  s.setCluster cluster { k with icache := AMap.del key k.icache }

/-- The host stores to its own memory (DESIGN CHOICE, log 35). -/
def State.hostMemory (s : State) (pa : Nat) (data : List Byte) : State :=
  { s with mem := putBytes s.mem (2 ^ 51 + pa % 2 ^ 50) data.length (leVal data) }

/-- What a pending move does. -/
def move (m : Pending) (s : State) : Res :=
  match m with
  | .event i => exec i s
  | .clock core => clockCore core s
  | .memBusy core n => .next (s.setCore core { s.core core with memFree := (s.core core).clk + n })
  | .tick n => .next { s with netClock := s.netClock + n }
  | .writeBack part word => .next (s.evict (2 ^ 52 * part + word))
  | .l1Drop core key => .next (s.dropL1 core key)
  | .tlbDrop n => .next { s with tlb := s.tlb.eraseIdx n }
  | .hostStore pa data => .next (s.hostMemory pa data)
  | .sendLands cohort n => .next (s.landSend cohort n)
  | .icacheDrop cluster key => .next (s.dropCode cluster key)
  | .boot => .next s.bootStep
  | .credits port dest granted => .next (s.setCredits port dest granted)
  | .engineBurst gid op => .next (s.engineBurst gid op)
  | .channelRead part chan data => .next (s.channelRead part chan data)
  | .consume gid what => .next (s.consume gid what)
  | .takeReply => .next { s with replies := s.replies.drop 1 }

end Sys2Proof.Machine
end

