-- ==== Sys2Proof/Machine/Window.lean ====
section
/-! DEFINITION. What the host reads: the registers of a partition's management window (Table 20.2, R352–R356, R372, R384,
R401), a fault-buffer entry as Table 19.7 lays it out, a record port's status byte (R382), the registers of a gauge
(Table 15.5). A read changes nothing. -/

namespace Sys2Proof.Machine

/-- A fault-buffer entry (Table 19.7). -/
def FaultRec.bits256 (r : FaultRec) : Nat :=
  r.serial.toNat * 2 ^ 224 + r.dup % 2 ^ 32 * 2 ^ 160 + r.sect % 128 * 2 ^ 128 + r.lane % 128 * 2 ^ 118
    + r.group % 32 * 2 ^ 113 + r.core % 512 * 2 ^ 104 + r.part % 8 * 2 ^ 96 + r.stamp % 65536 * 2 ^ 80
    + r.access % 16 * 2 ^ 72 + r.kind % 256 * 2 ^ 64 + r.page % 2 ^ 45 * 2 ^ 12

/-- FBSTAT (Table 19.9). -/
def Partition.fbstat (q : Partition) : Nat :=
  q.serial.toNat * 2 ^ 32 + q.drops % 65536 * 65536 + q.dropped.toNat * 256 + q.faults.length % 16

/-- TLBISTAT (Table 19.4). -/
def Partition.tlbistat (q : Partition) : Nat := q.tlbiDone.toNat * 2 ^ 32 + q.issued.toNat

/-- Word w of FBENTn: entry n while n < COUNT, else 0 (R355). -/
def Partition.fbent (q : Partition) (n w : Nat) : Nat :=
  match q.faults[n]? with
  | some r => r.bits256 / 2 ^ (64 * w) % 2 ^ 64
  | none => 0

/-- QSTATn (Table 22.2). -/
def Partition.qstat (q : Partition) (n : Nat) : Nat :=
  (List.range 64).foldl (fun x b => if Sparse.get false q.quarantined (64 * n + b) then x + 2 ^ b else x) 0

/-- A 64-bit read of BAR 0 below the counters. -/
def Partition.control (q : Partition) (off : Nat) : Nat :=
  if off = 0x00 then q.pcmd.toNat
  else if 0x08 ≤ off && off ≤ 0x30 then (q.parg.getD (off / 8 - 1) 0#64).toNat
  else if off = 0x38 then q.pstat.toNat
  else if off = 0x1000 then q.ttb1.toNat
  else if off = 0x1008 then q.ttb2.toNat
  else if off = 0x1010 then q.tlbicmd.toNat
  else if off = 0x1018 then q.tlbistat
  else if off = 0x1020 then q.fbstat
  else if 0x1040 ≤ off && off < 0x1140 then q.fbent ((off - 0x1040) / 32) ((off - 0x1040) / 8 % 4)
  else if off = 0x1148 then q.xthr.toNat
  else if 0x1150 ≤ off && off < 0x11D0 then (q.xarm.getD ((off - 0x1150) / 8) 0#64).toNat
  else if 0x2000 ≤ off && off < 0x2080 then q.qstat ((off - 0x2000) / 8)
  else if 0x2080 ≤ off && off < 0x2100 then (q.peerin.getD ((off - 0x2080) / 8) 0#64).toNat
  else if off = 0x2108 then q.late % 2 ^ 32 * 2 ^ 32 + q.trips % 2 ^ 32
  else 0

/-- A 32-bit read of an exception counter or an EMITLOST counter (R384). -/
def Partition.counter (q : Partition) (off : Nat) : Nat :=
  if 0x10000 ≤ off && off < 0x30000 then Sparse.get 0 q.counters ((off - 0x10000) / 4)
  else if 0x30000 ≤ off && off < 0x31000 then Sparse.get 0 q.emitlost ((off - 0x30000) / 4)
  else 0

/-- A register of a gauge (Table 15.5): GCFG, whose CLR reads 0, GMIN, GMAX, and GHISTb from 0x40 on (DESIGN CHOICE, log
81). -/
def Gauge.reg (g : Gauge) (off : Nat) : Nat :=
  if off = 0 then g.en.toNat * 2 ^ 31 + g.src
  else if off = 4 then g.lo
  else if off = 8 then g.hi
  else if 0x40 ≤ off && off < 0x80 && off % 4 == 0 then Sparse.get 0 g.hist ((off - 0x40) / 4)
  else 0

/-- A 32-bit read in the gauges' window: of a unit that the partition has. -/
def State.gaugeWord (s : State) (p off : Nat) : Nat :=
  match gaugeAt p off with
  | none => 0
  | some u =>
    match s.gaugeUnit u with
    | some n => (s.gauge u.slice n u.index).reg (off % 128)
    | none => 0

/-- What the host reads at an aligned offset of a partition's BAR 0; nothing answers before the bring-up is done or
where no partition exists (R385). -/
def State.bar0 (s : State) (p off : Nat) : Option Nat :=
  if s.fwstat.toNat % 256 ≠ 5 || 8 ≤ p || !(s.part p).valid then none
  else some (if off < 0x10000 then (s.part p).control off
    else if off < 0x100000 then (s.part p).counter off else s.gaugeWord p off)

/-- The status byte of a record port's slot; slot 31's reads 0x05 (R382). Outside the RUN state only the management window is
read (R369). -/
def State.portStatus (s : State) (p stamp slot : Nat) : Option Nat :=
  if !s.mayAccess p then none else some (if slot = 31 then 5 else ((s.part p).slot stamp slot).status)

end Sys2Proof.Machine
end

