-- ==== Sys2Proof/Machine/Place.lean ====
section
/-! DEFINITION. A program put in place from outside (DESIGN CHOICE, log 3): a kernel of one word, launched as a block of one group with
one record lane on core 0, whose word the cluster's instruction cache holds. What withFetchWord sets. -/

namespace Sys2Proof.Machine

/-- A node whose kernel is two words long, placed at IA 0, with every register and a scratch window. -/
def placedNode : Node :=
  { kernel := 0, threshold := 1, quadPack := false, cls := 0, strict := false, groups := 1, blocks := 1, window := 0,
    recSize := 64, ports := 0, cycles := 0, regs := 256, scratch := 4096, xbank := 4096, grid := true, trap := some 0,
    textIa := 0, textSize := 16, dataIa := 0, dataSize := 0 }

/-- Its record: stamp 1, a payload of zeros. -/
def placedRecord : Rec := { stamp := 1, payload := [], bound := 0, solo := false, cls := 0, arrival := 0 }

def placedBatch : Batch :=
  { graph := 0, node := 0, cls := 0, prot := none, slots := [[placedRecord]], closedSlots := [], opened := 0,
    closed := true, readyAt := 0, relaunch := 0, killed := false, postmark := 0#8, avoid := none }

/-- The instruction of `w` stands where the next step fetches: the group of a fresh block is the only one on core 0,
core 0's clock comes next, and the cluster's instruction cache holds the word. -/
def State.placeWord (s : State) (w : Nat) : State :=
  let cid := s.nextId
  let bid := s.nextId + 1
  let gid := s.nextId + 2
  let mine := (s.groupsOn 0).map Prod.fst
  let k := s.cluster 0
  let c := s.core 0
  let s := s.setCluster 0 { k with icache := AMap.put (fetchKey 0 0) (BitVec.ofNat 64 w) k.icache }
  let s := s.setCore 0 { c with gated := false, pipeFree := [0, 0], gridFree := 0, portFree := 0, memFree := 0 }
  let s : State := { s with groups := s.groups.filter (fun e => !mine.contains e.1), agenda := [], turn := 0, nextId := s.nextId + 3 }
  let grans := s.takeGrans 0 86
  let s := s.setBlock bid (newBlock 0 placedBatch placedNode 0 0 cid [[placedRecord]] (grans.drop 48))
  let s := s.setGroup gid { s.newGroup 0 bid 0 placedNode 0 0 0 [placedRecord] (grans.take 48) with inActive := true }
  s.setCohort cid { part := 0, cluster := 0, blocks := [bid], phase := 0, expect := 1, count := 0, sends := [] }

end Sys2Proof.Machine
end

