-- ==== Sys2Proof/Machine/Step.lean ====
section
/-! DEFINITION. One step of the machine: the oldest pending move, or a clock of the core whose turn it is. -/

namespace Sys2Proof.Machine

/-- One step (DESIGN CHOICE, log 1). What the core stores lend to L1 may have become less (R208, R209). -/
def step (s : State) : Host.Outcome State Fault Refusal :=
  thenDo (match s.agenda with
    | [] => clockCore s.turn s
    | m :: rest => move m { s with agenda := rest }) (fun s => .next s.fitL1s)

/-- The state whose next step fetches and runs the instruction with the bits w (DESIGN CHOICE, log 3). -/
def State.withFetchWord (s : State) (nbits w : Nat) : State := s.placeWord (w % 2 ^ nbits)

end Sys2Proof.Machine
end

