-- ==== Sys2Proof/WellFormed.lean ====
section
/-! DEFINITION. Which instructions are well formed: those that pass checks 3 to 11 of Table 2.12, which depend on the
word alone (R55). The checks themselves stand in Machine/Checks.lean, where the meanings use them. -/

namespace Sys2Proof

/-- The instruction passes every check that depends on its own bits. -/
def Instr.wf (i : Instr) : Bool := i.check.isNone

end Sys2Proof
end

