-- ==== Sys2Proof/Laws/Encoding.lean ====
section
/-! SUPPORT. The encoder and the decoder meet, field by field: operand codes, then each format's word. -/

namespace Sys2Proof

open Machine

/-! ## Operand codes -/

theorem Special.all_index (x : Special) : Special.all[x.index]? = some x := by cases x <;> rfl

theorem Special.index_lt (x : Special) : x.index < 14 := by cases x <;> decide

theorem Operand.ofCode_code (o : Operand) (h : o.isReserved = false) : Operand.ofCode o.code = o := by
  cases o with
  | v n =>
    have := n.isLt
    simp [Operand.code, Operand.ofCode, this]
  | s n =>
    have := n.isLt
    rw [show Operand.code (.s n) = 0x100 + n.toNat from rfl]
    unfold Operand.ofCode
    rw [if_neg (show ¬ 0x100 + n.toNat < 0x100 by omega), if_pos (show 0x100 + n.toNat < 0x140 by omega)]
    congr 1
    apply BitVec.eq_of_toNat_eq
    simp only [BitVec.toNat_ofNat]
    omega
  | q n =>
    have := n.isLt
    rw [show Operand.code (.q n) = 0x140 + n.toNat from rfl]
    unfold Operand.ofCode
    rw [if_neg (show ¬ 0x140 + n.toNat < 0x100 by omega), if_neg (show ¬ 0x140 + n.toNat < 0x140 by omega),
      if_pos (show 0x140 + n.toNat < 0x148 by omega)]
    congr 1
    apply BitVec.eq_of_toNat_eq
    simp only [BitVec.toNat_ofNat]
    omega
  | sp x =>
    have := x.index_lt
    rw [show Operand.code (.sp x) = 0x160 + x.index from rfl]
    unfold Operand.ofCode
    rw [if_neg (show ¬ 0x160 + x.index < 0x100 by omega), if_neg (show ¬ 0x160 + x.index < 0x140 by omega),
      if_neg (show ¬ 0x160 + x.index < 0x148 by omega), if_neg (show ¬ 0x160 + x.index < 0x160 by omega),
      if_pos (show 0x160 + x.index < 0x180 by omega), Nat.add_sub_cancel_left, Special.all_index]
  | imm n =>
    have := n.isLt
    rw [show Operand.code (.imm n) = 0x180 + n.toNat from rfl]
    unfold Operand.ofCode
    rw [if_neg (show ¬ 0x180 + n.toNat < 0x100 by omega), if_neg (show ¬ 0x180 + n.toNat < 0x140 by omega),
      if_neg (show ¬ 0x180 + n.toNat < 0x148 by omega), if_neg (show ¬ 0x180 + n.toNat < 0x160 by omega),
      if_neg (show ¬ 0x180 + n.toNat < 0x180 by omega)]
    congr 1
    apply BitVec.eq_of_toNat_eq
    simp only [BitVec.toNat_ofNat]
    omega
  | reserved c => simp [Operand.isReserved] at h

theorem Operand.code_lt (o : Operand) : o.code < 512 := by
  cases o with
  | v n => have := n.isLt; simp only [Operand.code]; omega
  | s n => have := n.isLt; simp only [Operand.code]; omega
  | q n => have := n.isLt; simp only [Operand.code]; omega
  | sp x => have := x.index_lt; simp only [Operand.code]; omega
  | imm n => have := n.isLt; simp only [Operand.code]; omega
  | reserved c => exact c.isLt

theorem HOperand.ofCode_code (o : HOperand) (h : o.isReserved = false) : HOperand.ofCode o.code = o := by
  cases o with
  | v n =>
    have := n.isLt
    rw [show HOperand.code (.v n) = n.toNat from rfl]
    unfold HOperand.ofCode
    rw [if_pos (show n.toNat < 0x80 by omega)]
    simp
  | s n =>
    have := n.isLt
    rw [show HOperand.code (.s n) = 0x80 + n.toNat from rfl]
    unfold HOperand.ofCode
    rw [if_neg (show ¬ 0x80 + n.toNat < 0x80 by omega), if_pos (show 0x80 + n.toNat < 0xC0 by omega)]
    congr 1
    apply BitVec.eq_of_toNat_eq
    simp only [BitVec.toNat_ofNat]
    omega
  | imm n =>
    have := n.isLt
    rw [show HOperand.code (.imm n) = 0xC0 + n.toNat from rfl]
    unfold HOperand.ofCode
    rw [if_neg (show ¬ 0xC0 + n.toNat < 0x80 by omega), if_neg (show ¬ 0xC0 + n.toNat < 0xC0 by omega),
      if_pos (show 0xC0 + n.toNat < 0xE0 by omega)]
    congr 1
    apply BitVec.eq_of_toNat_eq
    simp only [BitVec.toNat_ofNat]
    omega
  | sp x =>
    have := x.index_lt
    rw [show HOperand.code (.sp x) = 0xE0 + x.index from rfl]
    unfold HOperand.ofCode
    rw [if_neg (show ¬ 0xE0 + x.index < 0x80 by omega), if_neg (show ¬ 0xE0 + x.index < 0xC0 by omega),
      if_neg (show ¬ 0xE0 + x.index < 0xE0 by omega), Nat.add_sub_cancel_left, Special.all_index]
  | reserved c => simp [HOperand.isReserved] at h

theorem HOperand.code_lt (o : HOperand) : o.code < 256 := by
  cases o with
  | v n => have := n.isLt; simp only [HOperand.code]; omega
  | s n => have := n.isLt; simp only [HOperand.code]; omega
  | sp x => have := x.index_lt; simp only [HOperand.code]; omega
  | imm n => have := n.isLt; simp only [HOperand.code]; omega
  | reserved c => exact c.isLt

/-! ## Formats -/

/-- The fields of an F-R word (Table 2.2). -/
theorem FR.word_fields (x : FR) {maj fn : Nat} (hm : maj < 64) (hf : fn < 256) :
    x.word maj fn < 2 ^ 62 ∧ bits (x.word maj fn) 61 56 = maj ∧ bits (x.word maj fn) 55 52 = x.g.toNat
      ∧ bits (x.word maj fn) 51 43 = x.d.code ∧ bits (x.word maj fn) 42 34 = x.a.code
      ∧ bits (x.word maj fn) 33 25 = x.b.code ∧ bits (x.word maj fn) 24 16 = x.c.code
      ∧ bits (x.word maj fn) 15 8 = fn ∧ bits (x.word maj fn) 7 0 = x.md.toNat := by
  have hg := x.g.isLt
  have hd := x.d.code_lt
  have ha := x.a.code_lt
  have hb := x.b.code_lt
  have hc := x.c.code_lt
  have hmd := x.md.isLt
  simp only [FR.word, bits]
  omega

theorem FR.ofWord_word (x : FR) {maj fn : Nat} (hm : maj < 64) (hf : fn < 256) (hd : x.d.isReserved = false)
    (ha : x.a.isReserved = false) (hb : x.b.isReserved = false) (hc : x.c.isReserved = false) :
    FR.ofWord (x.word maj fn) = x := by
  obtain ⟨_, _, h1, h2, h3, h4, h5, _, h6⟩ := x.word_fields hm hf
  simp only [FR.ofWord, h1, h2, h3, h4, h5, h6, Operand.ofCode_code _ hd, Operand.ofCode_code _ ha,
    Operand.ofCode_code _ hb, Operand.ofCode_code _ hc, BitVec.ofNat_toNat, BitVec.setWidth_eq]

/-- The fields of an F-I word (Table 2.3). -/
theorem FI.word_fields (x : FI) {maj fn : Nat} (hm : maj < 64) (hf : fn < 256) :
    x.word maj fn < 2 ^ 62 ∧ bits (x.word maj fn) 61 56 = maj ∧ bits (x.word maj fn) 55 52 = x.g.toNat
      ∧ bits (x.word maj fn) 51 43 = x.d.code ∧ bits (x.word maj fn) 42 34 = x.a.code
      ∧ bits (x.word maj fn) 33 26 = fn ∧ bits (x.word maj fn) 25 24 = x.md.toNat
      ∧ bits (x.word maj fn) 23 0 = x.imm.toNat := by
  have hg := x.g.isLt
  have hd := x.d.code_lt
  have ha := x.a.code_lt
  have hi := x.imm.isLt
  have hmd := x.md.isLt
  simp only [FI.word, bits]
  omega

theorem FI.ofWord_word (x : FI) {maj fn : Nat} (hm : maj < 64) (hf : fn < 256) (hd : x.d.isReserved = false)
    (ha : x.a.isReserved = false) : FI.ofWord (x.word maj fn) = x := by
  obtain ⟨_, _, h1, h2, h3, _, h5, h6⟩ := x.word_fields hm hf
  simp only [FI.ofWord, h1, h2, h3, h5, h6, Operand.ofCode_code _ hd, Operand.ofCode_code _ ha, BitVec.ofNat_toNat,
    BitVec.setWidth_eq]

/-- The fields of an F-M word (Table 2.4). -/
theorem FM.word_fields (x : FM) {maj op : Nat} (hm : maj < 64) (hf : op < 16) :
    x.word maj op < 2 ^ 62 ∧ bits (x.word maj op) 61 56 = maj ∧ bits (x.word maj op) 55 52 = x.g.toNat
      ∧ bits (x.word maj op) 51 43 = x.d.code ∧ bits (x.word maj op) 42 34 = x.a.code
      ∧ bits (x.word maj op) 33 25 = x.b.code ∧ bits (x.word maj op) 24 22 = x.sz.toNat
      ∧ bits (x.word maj op) 21 20 = x.cl.toNat ∧ bits (x.word maj op) 19 17 = x.sc.toNat
      ∧ bits (x.word maj op) 16 13 = op ∧ bits (x.word maj op) 12 0 = x.off.toNat := by
  have hg := x.g.isLt
  have hd := x.d.code_lt
  have ha := x.a.code_lt
  have hb := x.b.code_lt
  have h1 := x.sz.isLt
  have h2 := x.cl.isLt
  have h3 := x.sc.isLt
  have h4 := x.off.isLt
  simp only [FM.word, bits]
  omega

theorem FM.ofWord_word (x : FM) {maj op : Nat} (hm : maj < 64) (hf : op < 16) (hd : x.d.isReserved = false)
    (ha : x.a.isReserved = false) (hb : x.b.isReserved = false) : FM.ofWord (x.word maj op) = x := by
  obtain ⟨_, _, h1, h2, h3, h4, h5, h6, h7, _, h8⟩ := x.word_fields hm hf
  simp only [FM.ofWord, h1, h2, h3, h4, h5, h6, h7, h8, Operand.ofCode_code _ hd, Operand.ofCode_code _ ha,
    Operand.ofCode_code _ hb, BitVec.ofNat_toNat, BitVec.setWidth_eq]

/-- The fields of an F-B word (Table 2.5). -/
theorem FB.word_fields (x : FB) {maj fn : Nat} (hm : maj < 64) (hf : fn < 32) :
    x.word maj fn < 2 ^ 62 ∧ bits (x.word maj fn) 61 56 = maj ∧ bits (x.word maj fn) 55 52 = x.g.toNat
      ∧ bits (x.word maj fn) 51 46 = x.sa.toNat ∧ bits (x.word maj fn) 45 40 = x.sb.toNat
      ∧ bits (x.word maj fn) 39 37 = x.cnd.toNat ∧ bits (x.word maj fn) 36 32 = fn
      ∧ bits (x.word maj fn) 31 0 = x.off.toNat := by
  have hg := x.g.isLt
  have h1 := x.sa.isLt
  have h2 := x.sb.isLt
  have h3 := x.cnd.isLt
  have h4 := x.off.isLt
  simp only [FB.word, bits]
  omega

theorem FB.ofWord_word (x : FB) {maj fn : Nat} (hm : maj < 64) (hf : fn < 32) : FB.ofWord (x.word maj fn) = x := by
  obtain ⟨_, _, h1, h2, h3, h4, _, h5⟩ := x.word_fields hm hf
  simp only [FB.ofWord, h1, h2, h3, h4, h5, BitVec.ofNat_toNat, BitVec.setWidth_eq]

/-- The fields of an F-X word (Table 2.6). -/
theorem FX.word_fields (x : FX) :
    x.word < 2 ^ 62 ∧ bits x.word 61 56 = 0x2D ∧ bits x.word 55 52 = x.g.toNat ∧ bits x.word 51 43 = x.f.code
      ∧ bits x.word 42 34 = x.a.code ∧ bits x.word 33 25 = x.b.code ∧ bits x.word 24 16 = x.sa.code
      ∧ bits x.word 15 7 = x.sb.code ∧ bits x.word 6 4 = x.rsv.toNat ∧ bitAt x.word 3 = x.acc
      ∧ bitAt x.word 2 = x.np ∧ bitAt x.word 1 = x.ge ∧ bitAt x.word 0 = x.gs := by
  have hg := x.g.isLt
  have hd := x.f.code_lt
  have ha := x.a.code_lt
  have hb := x.b.code_lt
  have hc := x.sa.code_lt
  have he := x.sb.code_lt
  have hr := x.rsv.isLt
  have h1 := Bool.toNat_lt x.acc
  have h2 := Bool.toNat_lt x.np
  have h3 := Bool.toNat_lt x.ge
  have h4 := Bool.toNat_lt x.gs
  have bit (b : Bool) (n : Nat) (h : n = b.toNat) : (n == 1) = b := by subst h; cases b <;> rfl
  simp only [FX.word, bits, bitAt]
  refine ⟨by omega, by omega, by omega, by omega, by omega, by omega, by omega, by omega, by omega, ?_, ?_, ?_, ?_⟩
  all_goals
    apply bit
    omega

theorem FX.ofWord_word (x : FX) (hd : x.f.isReserved = false) (ha : x.a.isReserved = false)
    (hb : x.b.isReserved = false) (hc : x.sa.isReserved = false) (he : x.sb.isReserved = false) :
    FX.ofWord x.word = x := by
  obtain ⟨_, _, h1, h2, h3, h4, h5, h6, h7, h8, h9, h10, h11⟩ := x.word_fields
  simp only [FX.ofWord, h1, h2, h3, h4, h5, h6, h7, h8, h9, h10, h11, Operand.ofCode_code _ hd,
    Operand.ofCode_code _ ha, Operand.ofCode_code _ hb, Operand.ofCode_code _ hc, Operand.ofCode_code _ he,
    BitVec.ofNat_toNat, BitVec.setWidth_eq]

/-- The fields of a half (Table 2.8). -/
theorem Half.word_fields (x : Half) {op : Nat} (hm : op < 128) :
    x.word op < 2 ^ 31 ∧ bits (x.word op) 30 24 = op ∧ bits (x.word op) 23 16 = x.d.code
      ∧ bits (x.word op) 15 8 = x.s.code ∧ bits (x.word op) 7 5 = x.g3.toNat ∧ bits (x.word op) 4 0 = x.m5.toNat := by
  have h1 := x.d.code_lt
  have h2 := x.s.code_lt
  have h3 := x.g3.isLt
  have h4 := x.m5.isLt
  simp only [Half.word, bits]
  omega

theorem Half.ofBits_word (x : Half) {op : Nat} (hm : op < 128) (hd : x.d.isReserved = false)
    (hs : x.s.isReserved = false) : Half.ofBits (x.word op) = x := by
  obtain ⟨_, _, h1, h2, h3, h4⟩ := x.word_fields hm
  simp only [Half.ofBits, h1, h2, h3, h4, HOperand.ofCode_code _ hd, HOperand.ofCode_code _ hs, BitVec.ofNat_toNat,
    BitVec.setWidth_eq]

theorem HalfI.word_fields (x : HalfI) {op : Nat} (hm : op < 128) :
    x.word op < 2 ^ 31 ∧ bits (x.word op) 30 24 = op ∧ bits (x.word op) 23 16 = x.d.code
      ∧ bits (x.word op) 15 8 = x.imm.toNat ∧ bits (x.word op) 7 5 = x.g3.toNat ∧ bits (x.word op) 4 0 = x.m5.toNat := by
  have h1 := x.d.code_lt
  have h2 := x.imm.isLt
  have h3 := x.g3.isLt
  have h4 := x.m5.isLt
  simp only [HalfI.word, bits]
  omega

theorem HalfI.ofBits_word (x : HalfI) {op : Nat} (hm : op < 128) (hd : x.d.isReserved = false) :
    HalfI.ofBits (x.word op) = x := by
  obtain ⟨_, _, h1, h2, h3, h4⟩ := x.word_fields hm
  simp only [HalfI.ofBits, h1, h2, h3, h4, HOperand.ofCode_code _ hd, BitVec.ofNat_toNat, BitVec.setWidth_eq]

/-! ## A word that passes its checks names no reserved operand (check 5) -/

theorem FR.check_reserved {x : FR} {r : RRule} (h : x.check r = none) :
    x.d.isReserved = false ∧ x.a.isReserved = false ∧ x.b.isReserved = false ∧ x.c.isReserved = false := by
  simp only [FR.check] at h
  repeat' split at h
  all_goals simp_all

theorem FR.check_md {x : FR} {r : RRule} (h : x.check r = none) : r.md x.md.toNat = true := by
  simp only [FR.check] at h
  repeat' split at h
  all_goals simp_all

theorem FI.check_reserved {x : FI} {u : Bool} {d a : Operand → Bool} {i : Nat → Nat → Bool} (h : x.check u d a i = none) :
    x.d.isReserved = false ∧ x.a.isReserved = false := by
  simp only [FI.check] at h
  repeat' split at h
  all_goals simp_all

theorem FM.check_reserved {x : FM} {u : Bool} {d a b : Operand → Bool} {i : Nat → Nat → Nat → Bool}
    (h : x.check u d a b i = none) : x.d.isReserved = false ∧ x.a.isReserved = false ∧ x.b.isReserved = false := by
  simp only [FM.check] at h
  repeat' split at h
  all_goals simp_all

theorem FX.check_reserved {x : FX} (h : x.check = none) :
    x.f.isReserved = false ∧ x.a.isReserved = false ∧ x.b.isReserved = false ∧ x.sa.isReserved = false
      ∧ x.sb.isReserved = false := by
  simp only [FX.check] at h
  repeat' split at h
  all_goals simp_all

theorem Half.check_reserved {x : Half} {f : FR} {r : RRule} (h : x.check f r = none) :
    x.d.isReserved = false ∧ x.s.isReserved = false := by
  simp only [Half.check] at h
  split at h
  · simp at h
  · simp_all

theorem HalfI.check_reserved {x : HalfI} {f : FI} {a : Operand → Bool} (h : x.check f a = none) :
    x.d.isReserved = false := by
  simp only [HalfI.check] at h
  split at h
  · simp at h
  · simp_all

/-! ## Whole words -/

/-- An F-R word of a family's list decodes to what the list says. -/
theorem decodeFull_fr {x : FR} {r : RRule} {maj fn : Nat} (h : x.check r = none) (hm : maj < 64) (hf : fn < 256) :
    x.word maj fn < 2 ^ 62 ∧ bits (x.word maj fn) 61 56 = maj ∧ bits (x.word maj fn) 15 8 = fn
      ∧ FR.ofWord (x.word maj fn) = x := by
  obtain ⟨h1, h2, h3, h4⟩ := FR.check_reserved h
  obtain ⟨h5, h6, _, _, _, _, _, h7, _⟩ := x.word_fields hm hf
  exact ⟨h5, h6, h7, x.ofWord_word hm hf h1 h2 h3 h4⟩

theorem decodeFull_fi {x : FI} {u : Bool} {d a : Operand → Bool} {i : Nat → Nat → Bool} {maj fn : Nat}
    (h : x.check u d a i = none) (hm : maj < 64) (hf : fn < 256) :
    x.word maj fn < 2 ^ 62 ∧ bits (x.word maj fn) 61 56 = maj ∧ bits (x.word maj fn) 33 26 = fn
      ∧ FI.ofWord (x.word maj fn) = x := by
  obtain ⟨h1, h2⟩ := FI.check_reserved h
  obtain ⟨h5, h6, _, _, _, h7, _⟩ := x.word_fields hm hf
  exact ⟨h5, h6, h7, x.ofWord_word hm hf h1 h2⟩

theorem decodeFull_fm {x : FM} {u : Bool} {d a b : Operand → Bool} {i : Nat → Nat → Nat → Bool} {maj op : Nat}
    (h : x.check u d a b i = none) (hm : maj < 64) (hf : op < 16) :
    x.word maj op < 2 ^ 62 ∧ bits (x.word maj op) 61 56 = maj ∧ bits (x.word maj op) 16 13 = op
      ∧ FM.ofWord (x.word maj op) = x := by
  obtain ⟨h1, h2, h3⟩ := FM.check_reserved h
  obtain ⟨h5, h6, _, _, _, _, _, _, _, h7, _⟩ := x.word_fields hm hf
  exact ⟨h5, h6, h7, x.ofWord_word hm hf h1 h2 h3⟩

theorem decodeFull_fb (x : FB) {maj fn : Nat} (hm : maj < 64) (hf : fn < 32) :
    x.word maj fn < 2 ^ 62 ∧ bits (x.word maj fn) 61 56 = maj ∧ bits (x.word maj fn) 36 32 = fn
      ∧ FB.ofWord (x.word maj fn) = x := by
  obtain ⟨h5, h6, _, _, _, _, h7, _⟩ := x.word_fields hm hf
  exact ⟨h5, h6, h7, x.ofWord_word hm hf⟩

end Sys2Proof
end

