-- ==== Sys2Proof/Laws/PerInstr.lean ====
section
/-! SUPPORT. Per instruction: what the encoder writes, the decoder reads back (ch. 02). -/

namespace Sys2Proof.Laws.RoundTrip

open Sys2Proof Machine

/-- A well-formed full-form instruction has a word below 2^62 that decodes to it, a half has 31 bits that decode to it,
and an event has no encoding. -/
def Statement (i : Instr) : Prop :=
  i.wf = true →
    match i.form with
    | .full => ∃ w, encode i = some w ∧ w < 2 ^ 62 ∧ decodeFull w = .full i
    | .half => ∃ w, encode i = some w ∧ w < 2 ^ 31 ∧ decodeHalf w = some i
    | .event => encode i = none

theorem of_wf {i : Instr} (h : i.wf = true) : i.check = none := Option.isNone_iff_eq_none.1 h

theorem full_fr {x : FR} {i : Instr} (maj fn : Nat) {r : RRule} (h : x.check r = none) (hm : maj < 64) (hf : fn < 256)
    (hd : ∀ w, bits w 61 56 = maj → bits w 15 8 = fn → FR.ofWord w = x → decodeFull w = .full i) :
    ∃ w, some (x.word maj fn) = some w ∧ w < 2 ^ 62 ∧ decodeFull w = .full i :=
  have k := decodeFull_fr h hm hf
  ⟨_, rfl, k.1, hd _ k.2.1 k.2.2.1 k.2.2.2⟩

theorem full_fi {x : FI} {i : Instr} (maj fn : Nat) {u : Bool} {d a : Operand → Bool} {p : Nat → Nat → Bool}
    (h : x.check u d a p = none) (hm : maj < 64) (hf : fn < 256)
    (hd : ∀ w, bits w 61 56 = maj → bits w 33 26 = fn → FI.ofWord w = x → decodeFull w = .full i) :
    ∃ w, some (x.word maj fn) = some w ∧ w < 2 ^ 62 ∧ decodeFull w = .full i :=
  have k := decodeFull_fi h hm hf
  ⟨_, rfl, k.1, hd _ k.2.1 k.2.2.1 k.2.2.2⟩

theorem full_fm {x : FM} {i : Instr} (maj op : Nat) {u : Bool} {d a b : Operand → Bool} {p : Nat → Nat → Nat → Bool}
    (h : x.check u d a b p = none) (hm : maj < 64) (hf : op < 16)
    (hd : ∀ w, bits w 61 56 = maj → bits w 16 13 = op → FM.ofWord w = x → decodeFull w = .full i) :
    ∃ w, some (x.word maj op) = some w ∧ w < 2 ^ 62 ∧ decodeFull w = .full i :=
  have k := decodeFull_fm h hm hf
  ⟨_, rfl, k.1, hd _ k.2.1 k.2.2.1 k.2.2.2⟩

theorem full_fb {x : FB} {i : Instr} (maj fn : Nat) (hm : maj < 64) (hf : fn < 32)
    (hd : ∀ w, bits w 61 56 = maj → bits w 36 32 = fn → FB.ofWord w = x → decodeFull w = .full i) :
    ∃ w, some (x.word maj fn) = some w ∧ w < 2 ^ 62 ∧ decodeFull w = .full i :=
  have k := decodeFull_fb x hm hf
  ⟨_, rfl, k.1, hd _ k.2.1 k.2.2.1 k.2.2.2⟩

theorem half_op {x : Half} {i : Instr} (op : Nat) {f : FR} {r : RRule} (h : x.check f r = none) (ho : op < 128)
    (hd : ∀ w, bits w 30 24 = op → Half.ofBits w = x → decodeHalf w = some i) :
    ∃ w, some (x.word op) = some w ∧ w < 2 ^ 31 ∧ decodeHalf w = some i :=
  have k := Half.check_reserved h
  have l := x.word_fields ho
  ⟨_, rfl, l.1, hd _ l.2.1 (x.ofBits_word ho k.1 k.2)⟩

theorem half_imm {x : HalfI} {i : Instr} (op : Nat) {f : FI} {a : Operand → Bool} (h : x.check f a = none) (ho : op < 128)
    (hd : ∀ w, bits w 30 24 = op → HalfI.ofBits w = x → decodeHalf w = some i) :
    ∃ w, some (x.word op) = some w ∧ w < 2 ^ 31 ∧ decodeHalf w = some i :=
  have k := HalfI.check_reserved h
  have l := x.word_fields ho
  ⟨_, rfl, l.1, hd _ l.2.1 (x.ofBits_word ho k)⟩

theorem nop (x : FR) : Statement (.nop x) := fun h => full_fr 0x00 0 (of_wf h) (by decide) (by decide)
  (fun w h1 h2 h3 => by simp only [decodeFull, h1, h2, h3]; rfl)
theorem endGroup (x : FR) : Statement (.endGroup x) := fun h => full_fr 0x00 1 (of_wf h) (by decide) (by decide)
  (fun w h1 h2 h3 => by simp only [decodeFull, h1, h2, h3]; rfl)
theorem yield (x : FR) : Statement (.yield x) := fun h => full_fr 0x00 2 (of_wf h) (by decide) (by decide)
  (fun w h1 h2 h3 => by simp only [decodeFull, h1, h2, h3]; rfl)
theorem trap (x : FR) : Statement (.trap x) := fun h => full_fr 0x00 3 (of_wf h) (by decide) (by decide)
  (fun w h1 h2 h3 => by simp only [decodeFull, h1, h2, h3]; rfl)
theorem tret (x : FR) : Statement (.tret x) := fun h => full_fr 0x00 4 (of_wf h) (by decide) (by decide)
  (fun w h1 h2 h3 => by simp only [decodeFull, h1, h2, h3]; rfl)
theorem srd (x : FR) : Statement (.srd x) := fun h => full_fr 0x00 5 (of_wf h) (by decide) (by decide)
  (fun w h1 h2 h3 => by simp only [decodeFull, h1, h2, h3]; rfl)
theorem swr (x : FR) : Statement (.swr x) := fun h => full_fr 0x00 6 (of_wf h) (by decide) (by decide)
  (fun w h1 h2 h3 => by simp only [decodeFull, h1, h2, h3]; rfl)
theorem grow (x : FR) : Statement (.grow x) := fun h => full_fr 0x00 7 (of_wf h) (by decide) (by decide)
  (fun w h1 h2 h3 => by simp only [decodeFull, h1, h2, h3]; rfl)
theorem shrink (x : FR) : Statement (.shrink x) := fun h => full_fr 0x00 8 (of_wf h) (by decide) (by decide)
  (fun w h1 h2 h3 => by simp only [decodeFull, h1, h2, h3]; rfl)
theorem emit (x : FR) : Statement (.emit x) := fun h => full_fr 0x00 9 (of_wf h) (by decide) (by decide)
  (fun w h1 h2 h3 => by simp only [decodeFull, h1, h2, h3]; rfl)
theorem waitc (x : FR) : Statement (.waitc x) := fun h => full_fr 0x00 10 (of_wf h) (by decide) (by decide)
  (fun w h1 h2 h3 => by simp only [decodeFull, h1, h2, h3]; rfl)
theorem sadd (x : FR) : Statement (.sadd x) := fun h => full_fr 0x01 0 (of_wf h) (by decide) (by decide)
  (fun w h1 h2 h3 => by simp only [decodeFull, h1, h2, h3]; rfl)
theorem ssub (x : FR) : Statement (.ssub x) := fun h => full_fr 0x01 1 (of_wf h) (by decide) (by decide)
  (fun w h1 h2 h3 => by simp only [decodeFull, h1, h2, h3]; rfl)
theorem smul (x : FR) : Statement (.smul x) := fun h => full_fr 0x01 2 (of_wf h) (by decide) (by decide)
  (fun w h1 h2 h3 => by simp only [decodeFull, h1, h2, h3]; rfl)
theorem smulh (x : FR) : Statement (.smulh x) := fun h => full_fr 0x01 3 (of_wf h) (by decide) (by decide)
  (fun w h1 h2 h3 => by simp only [decodeFull, h1, h2, h3]; rfl)
theorem sdiv (x : FR) : Statement (.sdiv x) := fun h => full_fr 0x01 4 (of_wf h) (by decide) (by decide)
  (fun w h1 h2 h3 => by simp only [decodeFull, h1, h2, h3]; rfl)
theorem srem (x : FR) : Statement (.srem x) := fun h => full_fr 0x01 5 (of_wf h) (by decide) (by decide)
  (fun w h1 h2 h3 => by simp only [decodeFull, h1, h2, h3]; rfl)
theorem sand (x : FR) : Statement (.sand x) := fun h => full_fr 0x01 6 (of_wf h) (by decide) (by decide)
  (fun w h1 h2 h3 => by simp only [decodeFull, h1, h2, h3]; rfl)
theorem sor (x : FR) : Statement (.sor x) := fun h => full_fr 0x01 7 (of_wf h) (by decide) (by decide)
  (fun w h1 h2 h3 => by simp only [decodeFull, h1, h2, h3]; rfl)
theorem sxor (x : FR) : Statement (.sxor x) := fun h => full_fr 0x01 8 (of_wf h) (by decide) (by decide)
  (fun w h1 h2 h3 => by simp only [decodeFull, h1, h2, h3]; rfl)
theorem sandn (x : FR) : Statement (.sandn x) := fun h => full_fr 0x01 9 (of_wf h) (by decide) (by decide)
  (fun w h1 h2 h3 => by simp only [decodeFull, h1, h2, h3]; rfl)
theorem sshl (x : FR) : Statement (.sshl x) := fun h => full_fr 0x01 10 (of_wf h) (by decide) (by decide)
  (fun w h1 h2 h3 => by simp only [decodeFull, h1, h2, h3]; rfl)
theorem sshr (x : FR) : Statement (.sshr x) := fun h => full_fr 0x01 11 (of_wf h) (by decide) (by decide)
  (fun w h1 h2 h3 => by simp only [decodeFull, h1, h2, h3]; rfl)
theorem ssra (x : FR) : Statement (.ssra x) := fun h => full_fr 0x01 12 (of_wf h) (by decide) (by decide)
  (fun w h1 h2 h3 => by simp only [decodeFull, h1, h2, h3]; rfl)
theorem srot (x : FR) : Statement (.srot x) := fun h => full_fr 0x01 13 (of_wf h) (by decide) (by decide)
  (fun w h1 h2 h3 => by simp only [decodeFull, h1, h2, h3]; rfl)
theorem smin (x : FR) : Statement (.smin x) := fun h => full_fr 0x01 14 (of_wf h) (by decide) (by decide)
  (fun w h1 h2 h3 => by simp only [decodeFull, h1, h2, h3]; rfl)
theorem smax (x : FR) : Statement (.smax x) := fun h => full_fr 0x01 15 (of_wf h) (by decide) (by decide)
  (fun w h1 h2 h3 => by simp only [decodeFull, h1, h2, h3]; rfl)
theorem sclz (x : FR) : Statement (.sclz x) := fun h => full_fr 0x01 16 (of_wf h) (by decide) (by decide)
  (fun w h1 h2 h3 => by simp only [decodeFull, h1, h2, h3]; rfl)
theorem spopc (x : FR) : Statement (.spopc x) := fun h => full_fr 0x01 17 (of_wf h) (by decide) (by decide)
  (fun w h1 h2 h3 => by simp only [decodeFull, h1, h2, h3]; rfl)
theorem ssel (x : FR) : Statement (.ssel x) := fun h => full_fr 0x01 18 (of_wf h) (by decide) (by decide)
  (fun w h1 h2 h3 => by simp only [decodeFull, h1, h2, h3]; rfl)
theorem scmp (x : FR) : Statement (.scmp x) := fun h => full_fr 0x01 19 (of_wf h) (by decide) (by decide)
  (fun w h1 h2 h3 => by simp only [decodeFull, h1, h2, h3]; rfl)
theorem sbfe (x : FR) : Statement (.sbfe x) := fun h => full_fr 0x01 20 (of_wf h) (by decide) (by decide)
  (fun w h1 h2 h3 => by simp only [decodeFull, h1, h2, h3]; rfl)
theorem sbfi (x : FR) : Statement (.sbfi x) := fun h => full_fr 0x01 21 (of_wf h) (by decide) (by decide)
  (fun w h1 h2 h3 => by simp only [decodeFull, h1, h2, h3]; rfl)
theorem saddi (x : FI) : Statement (.saddi x) := fun h => full_fi 0x02 0 (of_wf h) (by decide) (by decide)
  (fun w h1 h2 h3 => by simp only [decodeFull, h1, h2, h3]; rfl)
theorem sandi (x : FI) : Statement (.sandi x) := fun h => full_fi 0x02 1 (of_wf h) (by decide) (by decide)
  (fun w h1 h2 h3 => by simp only [decodeFull, h1, h2, h3]; rfl)
theorem sori (x : FI) : Statement (.sori x) := fun h => full_fi 0x02 2 (of_wf h) (by decide) (by decide)
  (fun w h1 h2 h3 => by simp only [decodeFull, h1, h2, h3]; rfl)
theorem sxori (x : FI) : Statement (.sxori x) := fun h => full_fi 0x02 3 (of_wf h) (by decide) (by decide)
  (fun w h1 h2 h3 => by simp only [decodeFull, h1, h2, h3]; rfl)
theorem sshli (x : FI) : Statement (.sshli x) := fun h => full_fi 0x02 4 (of_wf h) (by decide) (by decide)
  (fun w h1 h2 h3 => by simp only [decodeFull, h1, h2, h3]; rfl)
theorem sshri (x : FI) : Statement (.sshri x) := fun h => full_fi 0x02 5 (of_wf h) (by decide) (by decide)
  (fun w h1 h2 h3 => by simp only [decodeFull, h1, h2, h3]; rfl)
theorem ssrai (x : FI) : Statement (.ssrai x) := fun h => full_fi 0x02 6 (of_wf h) (by decide) (by decide)
  (fun w h1 h2 h3 => by simp only [decodeFull, h1, h2, h3]; rfl)
theorem scmpi (x : FI) : Statement (.scmpi x) := fun h => full_fi 0x02 7 (of_wf h) (by decide) (by decide)
  (fun w h1 h2 h3 => by simp only [decodeFull, h1, h2, h3]; rfl)
theorem smovi (x : FI) : Statement (.smovi x) := fun h => full_fi 0x02 8 (of_wf h) (by decide) (by decide)
  (fun w h1 h2 h3 => by simp only [decodeFull, h1, h2, h3]; rfl)
theorem smovhi (x : FI) : Statement (.smovhi x) := fun h => full_fi 0x02 9 (of_wf h) (by decide) (by decide)
  (fun w h1 h2 h3 => by simp only [decodeFull, h1, h2, h3]; rfl)
theorem msave (x : FR) : Statement (.msave x) := fun h => full_fr 0x03 0 (of_wf h) (by decide) (by decide)
  (fun w h1 h2 h3 => by simp only [decodeFull, h1, h2, h3]; rfl)
theorem mrest (x : FR) : Statement (.mrest x) := fun h => full_fr 0x03 1 (of_wf h) (by decide) (by decide)
  (fun w h1 h2 h3 => by simp only [decodeFull, h1, h2, h3]; rfl)
theorem mset (x : FR) : Statement (.mset x) := fun h => full_fr 0x03 2 (of_wf h) (by decide) (by decide)
  (fun w h1 h2 h3 => by simp only [decodeFull, h1, h2, h3]; rfl)
theorem mand (x : FR) : Statement (.mand x) := fun h => full_fr 0x03 3 (of_wf h) (by decide) (by decide)
  (fun w h1 h2 h3 => by simp only [decodeFull, h1, h2, h3]; rfl)
theorem mandn (x : FR) : Statement (.mandn x) := fun h => full_fr 0x03 4 (of_wf h) (by decide) (by decide)
  (fun w h1 h2 h3 => by simp only [decodeFull, h1, h2, h3]; rfl)
theorem mcnt (x : FR) : Statement (.mcnt x) := fun h => full_fr 0x03 5 (of_wf h) (by decide) (by decide)
  (fun w h1 h2 h3 => by simp only [decodeFull, h1, h2, h3]; rfl)
theorem mfirst (x : FR) : Statement (.mfirst x) := fun h => full_fr 0x03 6 (of_wf h) (by decide) (by decide)
  (fun w h1 h2 h3 => by simp only [decodeFull, h1, h2, h3]; rfl)
theorem bra (x : FB) : Statement (.bra x) := fun _ => full_fb 0x04 0 (by decide) (by decide)
  (fun w h1 h2 h3 => by simp only [decodeFull, h1, h2, h3]; rfl)
theorem bcmp (x : FB) : Statement (.bcmp x) := fun _ => full_fb 0x04 1 (by decide) (by decide)
  (fun w h1 h2 h3 => by simp only [decodeFull, h1, h2, h3]; rfl)
theorem bcmpi (x : FB) : Statement (.bcmpi x) := fun _ => full_fb 0x04 2 (by decide) (by decide)
  (fun w h1 h2 h3 => by simp only [decodeFull, h1, h2, h3]; rfl)
theorem call (x : FB) : Statement (.call x) := fun _ => full_fb 0x04 3 (by decide) (by decide)
  (fun w h1 h2 h3 => by simp only [decodeFull, h1, h2, h3]; rfl)
theorem ret (x : FB) : Statement (.ret x) := fun _ => full_fb 0x04 4 (by decide) (by decide)
  (fun w h1 h2 h3 => by simp only [decodeFull, h1, h2, h3]; rfl)
theorem jmpr (x : FB) : Statement (.jmpr x) := fun _ => full_fb 0x04 5 (by decide) (by decide)
  (fun w h1 h2 h3 => by simp only [decodeFull, h1, h2, h3]; rfl)
theorem bany (x : FB) : Statement (.bany x) := fun _ => full_fb 0x04 6 (by decide) (by decide)
  (fun w h1 h2 h3 => by simp only [decodeFull, h1, h2, h3]; rfl)
theorem ball (x : FB) : Statement (.ball x) := fun _ => full_fb 0x04 7 (by decide) (by decide)
  (fun w h1 h2 h3 => by simp only [decodeFull, h1, h2, h3]; rfl)
theorem bnone (x : FB) : Statement (.bnone x) := fun _ => full_fb 0x04 8 (by decide) (by decide)
  (fun w h1 h2 h3 => by simp only [decodeFull, h1, h2, h3]; rfl)
theorem sld (x : FM) : Statement (.sld x) := fun h => full_fm 0x05 0 (of_wf h) (by decide) (by decide)
  (fun w h1 h2 h3 => by simp only [decodeFull, h1, h2, h3]; rfl)
theorem sst (x : FM) : Statement (.sst x) := fun h => full_fm 0x05 1 (of_wf h) (by decide) (by decide)
  (fun w h1 h2 h3 => by simp only [decodeFull, h1, h2, h3]; rfl)
theorem sldc (x : FM) : Statement (.sldc x) := fun h => full_fm 0x05 2 (of_wf h) (by decide) (by decide)
  (fun w h1 h2 h3 => by simp only [decodeFull, h1, h2, h3]; rfl)
theorem vadd (x : FR) : Statement (.vadd x) := fun h => full_fr 0x08 0 (of_wf h) (by decide) (by decide)
  (fun w h1 h2 h3 => by simp only [decodeFull, h1, h2, h3]; rfl)
theorem vsub (x : FR) : Statement (.vsub x) := fun h => full_fr 0x08 1 (of_wf h) (by decide) (by decide)
  (fun w h1 h2 h3 => by simp only [decodeFull, h1, h2, h3]; rfl)
theorem vmul (x : FR) : Statement (.vmul x) := fun h => full_fr 0x08 2 (of_wf h) (by decide) (by decide)
  (fun w h1 h2 h3 => by simp only [decodeFull, h1, h2, h3]; rfl)
theorem vmulh (x : FR) : Statement (.vmulh x) := fun h => full_fr 0x08 3 (of_wf h) (by decide) (by decide)
  (fun w h1 h2 h3 => by simp only [decodeFull, h1, h2, h3]; rfl)
theorem vmad (x : FR) : Statement (.vmad x) := fun h => full_fr 0x08 4 (of_wf h) (by decide) (by decide)
  (fun w h1 h2 h3 => by simp only [decodeFull, h1, h2, h3]; rfl)
theorem vaddc (x : FR) : Statement (.vaddc x) := fun h => full_fr 0x08 5 (of_wf h) (by decide) (by decide)
  (fun w h1 h2 h3 => by simp only [decodeFull, h1, h2, h3]; rfl)
theorem vsubb (x : FR) : Statement (.vsubb x) := fun h => full_fr 0x08 6 (of_wf h) (by decide) (by decide)
  (fun w h1 h2 h3 => by simp only [decodeFull, h1, h2, h3]; rfl)
theorem vdiv (x : FR) : Statement (.vdiv x) := fun h => full_fr 0x08 7 (of_wf h) (by decide) (by decide)
  (fun w h1 h2 h3 => by simp only [decodeFull, h1, h2, h3]; rfl)
theorem vrem (x : FR) : Statement (.vrem x) := fun h => full_fr 0x08 8 (of_wf h) (by decide) (by decide)
  (fun w h1 h2 h3 => by simp only [decodeFull, h1, h2, h3]; rfl)
theorem vabs (x : FR) : Statement (.vabs x) := fun h => full_fr 0x08 9 (of_wf h) (by decide) (by decide)
  (fun w h1 h2 h3 => by simp only [decodeFull, h1, h2, h3]; rfl)
theorem vneg (x : FR) : Statement (.vneg x) := fun h => full_fr 0x08 10 (of_wf h) (by decide) (by decide)
  (fun w h1 h2 h3 => by simp only [decodeFull, h1, h2, h3]; rfl)
theorem vmin (x : FR) : Statement (.vmin x) := fun h => full_fr 0x08 11 (of_wf h) (by decide) (by decide)
  (fun w h1 h2 h3 => by simp only [decodeFull, h1, h2, h3]; rfl)
theorem vmax (x : FR) : Statement (.vmax x) := fun h => full_fr 0x08 12 (of_wf h) (by decide) (by decide)
  (fun w h1 h2 h3 => by simp only [decodeFull, h1, h2, h3]; rfl)
theorem vand (x : FR) : Statement (.vand x) := fun h => full_fr 0x08 13 (of_wf h) (by decide) (by decide)
  (fun w h1 h2 h3 => by simp only [decodeFull, h1, h2, h3]; rfl)
theorem vor (x : FR) : Statement (.vor x) := fun h => full_fr 0x08 14 (of_wf h) (by decide) (by decide)
  (fun w h1 h2 h3 => by simp only [decodeFull, h1, h2, h3]; rfl)
theorem vxor (x : FR) : Statement (.vxor x) := fun h => full_fr 0x08 15 (of_wf h) (by decide) (by decide)
  (fun w h1 h2 h3 => by simp only [decodeFull, h1, h2, h3]; rfl)
theorem vandn (x : FR) : Statement (.vandn x) := fun h => full_fr 0x08 16 (of_wf h) (by decide) (by decide)
  (fun w h1 h2 h3 => by simp only [decodeFull, h1, h2, h3]; rfl)
theorem vnot (x : FR) : Statement (.vnot x) := fun h => full_fr 0x08 17 (of_wf h) (by decide) (by decide)
  (fun w h1 h2 h3 => by simp only [decodeFull, h1, h2, h3]; rfl)
theorem vshl (x : FR) : Statement (.vshl x) := fun h => full_fr 0x08 18 (of_wf h) (by decide) (by decide)
  (fun w h1 h2 h3 => by simp only [decodeFull, h1, h2, h3]; rfl)
theorem vshr (x : FR) : Statement (.vshr x) := fun h => full_fr 0x08 19 (of_wf h) (by decide) (by decide)
  (fun w h1 h2 h3 => by simp only [decodeFull, h1, h2, h3]; rfl)
theorem vsra (x : FR) : Statement (.vsra x) := fun h => full_fr 0x08 20 (of_wf h) (by decide) (by decide)
  (fun w h1 h2 h3 => by simp only [decodeFull, h1, h2, h3]; rfl)
theorem vrot (x : FR) : Statement (.vrot x) := fun h => full_fr 0x08 21 (of_wf h) (by decide) (by decide)
  (fun w h1 h2 h3 => by simp only [decodeFull, h1, h2, h3]; rfl)
theorem vclz (x : FR) : Statement (.vclz x) := fun h => full_fr 0x08 22 (of_wf h) (by decide) (by decide)
  (fun w h1 h2 h3 => by simp only [decodeFull, h1, h2, h3]; rfl)
theorem vpopc (x : FR) : Statement (.vpopc x) := fun h => full_fr 0x08 23 (of_wf h) (by decide) (by decide)
  (fun w h1 h2 h3 => by simp only [decodeFull, h1, h2, h3]; rfl)
theorem vbrev (x : FR) : Statement (.vbrev x) := fun h => full_fr 0x08 24 (of_wf h) (by decide) (by decide)
  (fun w h1 h2 h3 => by simp only [decodeFull, h1, h2, h3]; rfl)
theorem vbfe (x : FR) : Statement (.vbfe x) := fun h => full_fr 0x08 25 (of_wf h) (by decide) (by decide)
  (fun w h1 h2 h3 => by simp only [decodeFull, h1, h2, h3]; rfl)
theorem vbfi (x : FR) : Statement (.vbfi x) := fun h => full_fr 0x08 26 (of_wf h) (by decide) (by decide)
  (fun w h1 h2 h3 => by simp only [decodeFull, h1, h2, h3]; rfl)
theorem vsel (x : FR) : Statement (.vsel x) := fun h => full_fr 0x08 27 (of_wf h) (by decide) (by decide)
  (fun w h1 h2 h3 => by simp only [decodeFull, h1, h2, h3]; rfl)
theorem vcmp (x : FR) : Statement (.vcmp x) := fun h => full_fr 0x08 28 (of_wf h) (by decide) (by decide)
  (fun w h1 h2 h3 => by simp only [decodeFull, h1, h2, h3]; rfl)
theorem vmov (x : FR) : Statement (.vmov x) := fun h => full_fr 0x08 29 (of_wf h) (by decide) (by decide)
  (fun w h1 h2 h3 => by simp only [decodeFull, h1, h2, h3]; rfl)
theorem vadds (x : FR) : Statement (.vadds x) := fun h => full_fr 0x08 30 (of_wf h) (by decide) (by decide)
  (fun w h1 h2 h3 => by simp only [decodeFull, h1, h2, h3]; rfl)
theorem vsubs (x : FR) : Statement (.vsubs x) := fun h => full_fr 0x08 31 (of_wf h) (by decide) (by decide)
  (fun w h1 h2 h3 => by simp only [decodeFull, h1, h2, h3]; rfl)
theorem vdot4 (x : FR) : Statement (.vdot4 x) := fun h => full_fr 0x08 32 (of_wf h) (by decide) (by decide)
  (fun w h1 h2 h3 => by simp only [decodeFull, h1, h2, h3]; rfl)
theorem vdot2 (x : FR) : Statement (.vdot2 x) := fun h => full_fr 0x08 33 (of_wf h) (by decide) (by decide)
  (fun w h1 h2 h3 => by simp only [decodeFull, h1, h2, h3]; rfl)
theorem vaddi (x : FI) : Statement (.vaddi x) := fun h => full_fi 0x09 0 (of_wf h) (by decide) (by decide)
  (fun w h1 h2 h3 => by simp only [decodeFull, h1, h2, h3]; rfl)
theorem vandi (x : FI) : Statement (.vandi x) := fun h => full_fi 0x09 1 (of_wf h) (by decide) (by decide)
  (fun w h1 h2 h3 => by simp only [decodeFull, h1, h2, h3]; rfl)
theorem vori (x : FI) : Statement (.vori x) := fun h => full_fi 0x09 2 (of_wf h) (by decide) (by decide)
  (fun w h1 h2 h3 => by simp only [decodeFull, h1, h2, h3]; rfl)
theorem vxori (x : FI) : Statement (.vxori x) := fun h => full_fi 0x09 3 (of_wf h) (by decide) (by decide)
  (fun w h1 h2 h3 => by simp only [decodeFull, h1, h2, h3]; rfl)
theorem vshli (x : FI) : Statement (.vshli x) := fun h => full_fi 0x09 4 (of_wf h) (by decide) (by decide)
  (fun w h1 h2 h3 => by simp only [decodeFull, h1, h2, h3]; rfl)
theorem vshri (x : FI) : Statement (.vshri x) := fun h => full_fi 0x09 5 (of_wf h) (by decide) (by decide)
  (fun w h1 h2 h3 => by simp only [decodeFull, h1, h2, h3]; rfl)
theorem vsrai (x : FI) : Statement (.vsrai x) := fun h => full_fi 0x09 6 (of_wf h) (by decide) (by decide)
  (fun w h1 h2 h3 => by simp only [decodeFull, h1, h2, h3]; rfl)
theorem vcmpi (x : FI) : Statement (.vcmpi x) := fun h => full_fi 0x09 7 (of_wf h) (by decide) (by decide)
  (fun w h1 h2 h3 => by simp only [decodeFull, h1, h2, h3]; rfl)
theorem vmovi (x : FI) : Statement (.vmovi x) := fun h => full_fi 0x09 8 (of_wf h) (by decide) (by decide)
  (fun w h1 h2 h3 => by simp only [decodeFull, h1, h2, h3]; rfl)
theorem vlea (x : FR) : Statement (.vlea x) := fun h => full_fr 0x0A 0 (of_wf h) (by decide) (by decide)
  (fun w h1 h2 h3 => by simp only [decodeFull, h1, h2, h3]; rfl)
theorem vaddw (x : FR) : Statement (.vaddw x) := fun h => full_fr 0x0A 1 (of_wf h) (by decide) (by decide)
  (fun w h1 h2 h3 => by simp only [decodeFull, h1, h2, h3]; rfl)
theorem vsubw (x : FR) : Statement (.vsubw x) := fun h => full_fr 0x0A 2 (of_wf h) (by decide) (by decide)
  (fun w h1 h2 h3 => by simp only [decodeFull, h1, h2, h3]; rfl)
theorem vfadd (x : FR) : Statement (.vfadd x) := fun h => full_fr 0x10 0 (of_wf h) (by decide) (by decide)
  (fun w h1 h2 h3 => by simp only [decodeFull, h1, h2, h3]; rfl)
theorem vfsub (x : FR) : Statement (.vfsub x) := fun h => full_fr 0x10 1 (of_wf h) (by decide) (by decide)
  (fun w h1 h2 h3 => by simp only [decodeFull, h1, h2, h3]; rfl)
theorem vfmul (x : FR) : Statement (.vfmul x) := fun h => full_fr 0x10 2 (of_wf h) (by decide) (by decide)
  (fun w h1 h2 h3 => by simp only [decodeFull, h1, h2, h3]; rfl)
theorem vfma (x : FR) : Statement (.vfma x) := fun h => full_fr 0x10 3 (of_wf h) (by decide) (by decide)
  (fun w h1 h2 h3 => by simp only [decodeFull, h1, h2, h3]; rfl)
theorem vfms (x : FR) : Statement (.vfms x) := fun h => full_fr 0x10 4 (of_wf h) (by decide) (by decide)
  (fun w h1 h2 h3 => by simp only [decodeFull, h1, h2, h3]; rfl)
theorem vfnma (x : FR) : Statement (.vfnma x) := fun h => full_fr 0x10 5 (of_wf h) (by decide) (by decide)
  (fun w h1 h2 h3 => by simp only [decodeFull, h1, h2, h3]; rfl)
theorem vfmin (x : FR) : Statement (.vfmin x) := fun h => full_fr 0x10 6 (of_wf h) (by decide) (by decide)
  (fun w h1 h2 h3 => by simp only [decodeFull, h1, h2, h3]; rfl)
theorem vfmax (x : FR) : Statement (.vfmax x) := fun h => full_fr 0x10 7 (of_wf h) (by decide) (by decide)
  (fun w h1 h2 h3 => by simp only [decodeFull, h1, h2, h3]; rfl)
theorem vfabs (x : FR) : Statement (.vfabs x) := fun h => full_fr 0x10 8 (of_wf h) (by decide) (by decide)
  (fun w h1 h2 h3 => by simp only [decodeFull, h1, h2, h3]; rfl)
theorem vfneg (x : FR) : Statement (.vfneg x) := fun h => full_fr 0x10 9 (of_wf h) (by decide) (by decide)
  (fun w h1 h2 h3 => by simp only [decodeFull, h1, h2, h3]; rfl)
theorem vfcmp (x : FR) : Statement (.vfcmp x) := fun h => full_fr 0x10 10 (of_wf h) (by decide) (by decide)
  (fun w h1 h2 h3 => by simp only [decodeFull, h1, h2, h3]; rfl)
theorem vfclass (x : FR) : Statement (.vfclass x) := fun h => full_fr 0x10 11 (of_wf h) (by decide) (by decide)
  (fun w h1 h2 h3 => by simp only [decodeFull, h1, h2, h3]; rfl)
theorem vfdiv (x : FR) : Statement (.vfdiv x) := fun h => full_fr 0x10 12 (of_wf h) (by decide) (by decide)
  (fun w h1 h2 h3 => by simp only [decodeFull, h1, h2, h3]; rfl)
theorem vfsqrt (x : FR) : Statement (.vfsqrt x) := fun h => full_fr 0x10 13 (of_wf h) (by decide) (by decide)
  (fun w h1 h2 h3 => by simp only [decodeFull, h1, h2, h3]; rfl)
theorem vfrcp (x : FR) : Statement (.vfrcp x) := fun h => full_fr 0x10 14 (of_wf h) (by decide) (by decide)
  (fun w h1 h2 h3 => by simp only [decodeFull, h1, h2, h3]; rfl)
theorem vfrsq (x : FR) : Statement (.vfrsq x) := fun h => full_fr 0x10 15 (of_wf h) (by decide) (by decide)
  (fun w h1 h2 h3 => by simp only [decodeFull, h1, h2, h3]; rfl)
theorem vfexp2 (x : FR) : Statement (.vfexp2 x) := fun h => full_fr 0x10 16 (of_wf h) (by decide) (by decide)
  (fun w h1 h2 h3 => by simp only [decodeFull, h1, h2, h3]; rfl)
theorem vflog2 (x : FR) : Statement (.vflog2 x) := fun h => full_fr 0x10 17 (of_wf h) (by decide) (by decide)
  (fun w h1 h2 h3 => by simp only [decodeFull, h1, h2, h3]; rfl)
theorem vfsin (x : FR) : Statement (.vfsin x) := fun h => full_fr 0x10 18 (of_wf h) (by decide) (by decide)
  (fun w h1 h2 h3 => by simp only [decodeFull, h1, h2, h3]; rfl)
theorem vfcos (x : FR) : Statement (.vfcos x) := fun h => full_fr 0x10 19 (of_wf h) (by decide) (by decide)
  (fun w h1 h2 h3 => by simp only [decodeFull, h1, h2, h3]; rfl)
theorem vftanh (x : FR) : Statement (.vftanh x) := fun h => full_fr 0x10 20 (of_wf h) (by decide) (by decide)
  (fun w h1 h2 h3 => by simp only [decodeFull, h1, h2, h3]; rfl)
theorem vfrnd (x : FR) : Statement (.vfrnd x) := fun h => full_fr 0x10 21 (of_wf h) (by decide) (by decide)
  (fun w h1 h2 h3 => by simp only [decodeFull, h1, h2, h3]; rfl)
theorem vhadd (x : FR) : Statement (.vhadd x) := fun h => full_fr 0x11 0 (of_wf h) (by decide) (by decide)
  (fun w h1 h2 h3 => by simp only [decodeFull, h1, h2, h3]; rfl)
theorem vhsub (x : FR) : Statement (.vhsub x) := fun h => full_fr 0x11 1 (of_wf h) (by decide) (by decide)
  (fun w h1 h2 h3 => by simp only [decodeFull, h1, h2, h3]; rfl)
theorem vhmul (x : FR) : Statement (.vhmul x) := fun h => full_fr 0x11 2 (of_wf h) (by decide) (by decide)
  (fun w h1 h2 h3 => by simp only [decodeFull, h1, h2, h3]; rfl)
theorem vhfma (x : FR) : Statement (.vhfma x) := fun h => full_fr 0x11 3 (of_wf h) (by decide) (by decide)
  (fun w h1 h2 h3 => by simp only [decodeFull, h1, h2, h3]; rfl)
theorem vhmin (x : FR) : Statement (.vhmin x) := fun h => full_fr 0x11 4 (of_wf h) (by decide) (by decide)
  (fun w h1 h2 h3 => by simp only [decodeFull, h1, h2, h3]; rfl)
theorem vhmax (x : FR) : Statement (.vhmax x) := fun h => full_fr 0x11 5 (of_wf h) (by decide) (by decide)
  (fun w h1 h2 h3 => by simp only [decodeFull, h1, h2, h3]; rfl)
theorem vhdot (x : FR) : Statement (.vhdot x) := fun h => full_fr 0x11 6 (of_wf h) (by decide) (by decide)
  (fun w h1 h2 h3 => by simp only [decodeFull, h1, h2, h3]; rfl)
theorem vhcmp (x : FR) : Statement (.vhcmp x) := fun h => full_fr 0x11 7 (of_wf h) (by decide) (by decide)
  (fun w h1 h2 h3 => by simp only [decodeFull, h1, h2, h3]; rfl)
theorem vcvt (x : FR) : Statement (.vcvt x) := fun h => full_fr 0x12 0 (of_wf h) (by decide) (by decide)
  (fun w h1 h2 h3 => by simp only [decodeFull, h1, h2, h3]; rfl)
theorem vpack (x : FR) : Statement (.vpack x) := fun h => full_fr 0x12 1 (of_wf h) (by decide) (by decide)
  (fun w h1 h2 h3 => by simp only [decodeFull, h1, h2, h3]; rfl)
theorem vunpk (x : FR) : Statement (.vunpk x) := fun h => full_fr 0x12 2 (of_wf h) (by decide) (by decide)
  (fun w h1 h2 h3 => by simp only [decodeFull, h1, h2, h3]; rfl)
theorem vpk8 (x : FR) : Statement (.vpk8 x) := fun h => full_fr 0x12 3 (of_wf h) (by decide) (by decide)
  (fun w h1 h2 h3 => by simp only [decodeFull, h1, h2, h3]; rfl)
theorem vupk8 (x : FR) : Statement (.vupk8 x) := fun h => full_fr 0x12 4 (of_wf h) (by decide) (by decide)
  (fun w h1 h2 h3 => by simp only [decodeFull, h1, h2, h3]; rfl)
theorem vshuf (x : FR) : Statement (.vshuf x) := fun h => full_fr 0x18 0 (of_wf h) (by decide) (by decide)
  (fun w h1 h2 h3 => by simp only [decodeFull, h1, h2, h3]; rfl)
theorem vshufup (x : FR) : Statement (.vshufup x) := fun h => full_fr 0x18 1 (of_wf h) (by decide) (by decide)
  (fun w h1 h2 h3 => by simp only [decodeFull, h1, h2, h3]; rfl)
theorem vshufdn (x : FR) : Statement (.vshufdn x) := fun h => full_fr 0x18 2 (of_wf h) (by decide) (by decide)
  (fun w h1 h2 h3 => by simp only [decodeFull, h1, h2, h3]; rfl)
theorem vshufx (x : FR) : Statement (.vshufx x) := fun h => full_fr 0x18 3 (of_wf h) (by decide) (by decide)
  (fun w h1 h2 h3 => by simp only [decodeFull, h1, h2, h3]; rfl)
theorem vbcast (x : FR) : Statement (.vbcast x) := fun h => full_fr 0x18 4 (of_wf h) (by decide) (by decide)
  (fun w h1 h2 h3 => by simp only [decodeFull, h1, h2, h3]; rfl)
theorem qswap (x : FR) : Statement (.qswap x) := fun h => full_fr 0x18 5 (of_wf h) (by decide) (by decide)
  (fun w h1 h2 h3 => by simp only [decodeFull, h1, h2, h3]; rfl)
theorem qbcast (x : FR) : Statement (.qbcast x) := fun h => full_fr 0x18 6 (of_wf h) (by decide) (by decide)
  (fun w h1 h2 h3 => by simp only [decodeFull, h1, h2, h3]; rfl)
theorem vscan (x : FR) : Statement (.vscan x) := fun h => full_fr 0x18 7 (of_wf h) (by decide) (by decide)
  (fun w h1 h2 h3 => by simp only [decodeFull, h1, h2, h3]; rfl)
theorem vred (x : FR) : Statement (.vred x) := fun h => full_fr 0x18 8 (of_wf h) (by decide) (by decide)
  (fun w h1 h2 h3 => by simp only [decodeFull, h1, h2, h3]; rfl)
theorem vrds (x : FR) : Statement (.vrds x) := fun h => full_fr 0x18 9 (of_wf h) (by decide) (by decide)
  (fun w h1 h2 h3 => by simp only [decodeFull, h1, h2, h3]; rfl)
theorem vote (x : FR) : Statement (.vote x) := fun h => full_fr 0x18 10 (of_wf h) (by decide) (by decide)
  (fun w h1 h2 h3 => by simp only [decodeFull, h1, h2, h3]; rfl)
theorem vmatch (x : FR) : Statement (.vmatch x) := fun h => full_fr 0x18 11 (of_wf h) (by decide) (by decide)
  (fun w h1 h2 h3 => by simp only [decodeFull, h1, h2, h3]; rfl)
theorem vld (x : FM) : Statement (.vld x) := fun h => full_fm 0x1C 0 (of_wf h) (by decide) (by decide)
  (fun w h1 h2 h3 => by simp only [decodeFull, h1, h2, h3]; rfl)
theorem vst (x : FM) : Statement (.vst x) := fun h => full_fm 0x1C 1 (of_wf h) (by decide) (by decide)
  (fun w h1 h2 h3 => by simp only [decodeFull, h1, h2, h3]; rfl)
theorem vlds (x : FM) : Statement (.vlds x) := fun h => full_fm 0x1C 2 (of_wf h) (by decide) (by decide)
  (fun w h1 h2 h3 => by simp only [decodeFull, h1, h2, h3]; rfl)
theorem vsts (x : FM) : Statement (.vsts x) := fun h => full_fm 0x1C 3 (of_wf h) (by decide) (by decide)
  (fun w h1 h2 h3 => by simp only [decodeFull, h1, h2, h3]; rfl)
theorem vldw (x : FM) : Statement (.vldw x) := fun h => full_fm 0x1C 4 (of_wf h) (by decide) (by decide)
  (fun w h1 h2 h3 => by simp only [decodeFull, h1, h2, h3]; rfl)
theorem vstw (x : FM) : Statement (.vstw x) := fun h => full_fm 0x1C 5 (of_wf h) (by decide) (by decide)
  (fun w h1 h2 h3 => by simp only [decodeFull, h1, h2, h3]; rfl)
theorem vpref (x : FM) : Statement (.vpref x) := fun h => full_fm 0x1C 6 (of_wf h) (by decide) (by decide)
  (fun w h1 h2 h3 => by simp only [decodeFull, h1, h2, h3]; rfl)
theorem vamo (op : AOp) (x : FM) : Statement (.vamo op x) := fun h => full_fm 0x20 op.index (of_wf h) (by decide) (by cases op <;> decide)
  (fun w h1 h2 h3 => by cases op <;> (simp only [decodeFull, h1, h2, h3]; rfl))
theorem samo (op : AOp) (x : FM) : Statement (.samo op x) := fun h => full_fm 0x21 op.index (of_wf h) (by decide) (by cases op <;> decide)
  (fun w h1 h2 h3 => by cases op <;> (simp only [decodeFull, h1, h2, h3]; rfl))
theorem cpy (x : FR) : Statement (.cpy x) := fun h => full_fr 0x24 0 (of_wf h) (by decide) (by decide)
  (fun w h1 h2 h3 => by simp only [decodeFull, h1, h2, h3]; rfl)
theorem cpyt (x : FR) : Statement (.cpyt x) := fun h => full_fr 0x24 1 (of_wf h) (by decide) (by decide)
  (fun w h1 h2 h3 => by simp only [decodeFull, h1, h2, h3]; rfl)
theorem discard (x : FR) : Statement (.discard x) := fun h => full_fr 0x24 2 (of_wf h) (by decide) (by decide)
  (fun w h1 h2 h3 => by simp only [decodeFull, h1, h2, h3]; rfl)
theorem ttag (x : FR) : Statement (.ttag x) := fun h => full_fr 0x24 3 (of_wf h) (by decide) (by decide)
  (fun w h1 h2 h3 => by simp only [decodeFull, h1, h2, h3]; rfl)
theorem xputSend (x : FR) : Statement (.xputSend x) := fun h => full_fr 0x24 4 (of_wf h) (by decide) (by decide)
  (fun w h1 h2 h3 => by
    have q := FR.check_md (of_wf h)
    have b : bitAt x.md.toNat 2 = false := by
      simp only [rX, decide_eq_true_eq] at q
      simp only [bitAt, beq_eq_false_iff_ne]
      omega
    simp only [decodeFull, h1, h2, h3]
    show Body.full (ite _ _ _) = _
    rw [b]; rfl)
theorem xputRead (x : FR) : Statement (.xputRead x) := fun h => full_fr 0x24 4 (of_wf h) (by decide) (by decide)
  (fun w h1 h2 h3 => by
    have q := FR.check_md (of_wf h)
    have b : bitAt x.md.toNat 2 = true := by
      simp only [rX, decide_eq_true_eq, Bool.and_eq_true] at q
      simp only [bitAt, beq_iff_eq]
      omega
    simp only [decodeFull, h1, h2, h3]
    show Body.full (ite _ _ _) = _
    rw [b]; rfl)
theorem coll (x : FR) : Statement (.coll x) := fun h => full_fr 0x24 5 (of_wf h) (by decide) (by decide)
  (fun w h1 h2 h3 => by simp only [decodeFull, h1, h2, h3]; rfl)
theorem fence (x : FR) : Statement (.fence x) := fun h => full_fr 0x28 0 (of_wf h) (by decide) (by decide)
  (fun w h1 h2 h3 => by simp only [decodeFull, h1, h2, h3]; rfl)
theorem tfence (x : FR) : Statement (.tfence x) := fun h => full_fr 0x28 1 (of_wf h) (by decide) (by decide)
  (fun w h1 h2 h3 => by simp only [decodeFull, h1, h2, h3]; rfl)
theorem binit (x : FR) : Statement (.binit x) := fun h => full_fr 0x28 2 (of_wf h) (by decide) (by decide)
  (fun w h1 h2 h3 => by simp only [decodeFull, h1, h2, h3]; rfl)
theorem barv (x : FR) : Statement (.barv x) := fun h => full_fr 0x28 3 (of_wf h) (by decide) (by decide)
  (fun w h1 h2 h3 => by simp only [decodeFull, h1, h2, h3]; rfl)
theorem bwait (x : FR) : Statement (.bwait x) := fun h => full_fr 0x28 4 (of_wf h) (by decide) (by decide)
  (fun w h1 h2 h3 => by simp only [decodeFull, h1, h2, h3]; rfl)
theorem bsync (x : FR) : Statement (.bsync x) := fun h => full_fr 0x28 5 (of_wf h) (by decide) (by decide)
  (fun w h1 h2 h3 => by simp only [decodeFull, h1, h2, h3]; rfl)
theorem cbar (x : FR) : Statement (.cbar x) := fun h => full_fr 0x28 6 (of_wf h) (by decide) (by decide)
  (fun w h1 h2 h3 => by simp only [decodeFull, h1, h2, h3]; rfl)
theorem cmt (x : FR) : Statement (.cmt x) := fun h => full_fr 0x28 7 (of_wf h) (by decide) (by decide)
  (fun w h1 h2 h3 => by simp only [decodeFull, h1, h2, h3]; rfl)
theorem mres (x : FR) : Statement (.mres x) := fun h => full_fr 0x2C 0 (of_wf h) (by decide) (by decide)
  (fun w h1 h2 h3 => by simp only [decodeFull, h1, h2, h3]; rfl)
theorem mrel (x : FR) : Statement (.mrel x) := fun h => full_fr 0x2C 1 (of_wf h) (by decide) (by decide)
  (fun w h1 h2 h3 => by simp only [decodeFull, h1, h2, h3]; rfl)
theorem modeM (x : FR) : Statement (.modeM x) := fun h => full_fr 0x2C 2 (of_wf h) (by decide) (by decide)
  (fun w h1 h2 h3 => by
    have q := FR.check_md (of_wf h)
    have b : bitAt x.md.toNat 0 = true := by
      simp only [rUm, beq_iff_eq] at q
      simp only [bitAt, beq_iff_eq]
      omega
    simp only [decodeFull, h1, h2, h3]
    show Body.full (ite _ _ _) = _
    rw [b]; rfl)
theorem modeV (x : FR) : Statement (.modeV x) := fun h => full_fr 0x2C 2 (of_wf h) (by decide) (by decide)
  (fun w h1 h2 h3 => by
    have q := FR.check_md (of_wf h)
    have b : bitAt x.md.toNat 0 = false := by
      simp only [rUm, mdZero, beq_iff_eq] at q
      simp only [bitAt, beq_eq_false_iff_ne]
      omega
    simp only [decodeFull, h1, h2, h3]
    show Body.full (ite _ _ _) = _
    rw [b]; rfl)
theorem mzero (x : FR) : Statement (.mzero x) := fun h => full_fr 0x2C 3 (of_wf h) (by decide) (by decide)
  (fun w h1 h2 h3 => by simp only [decodeFull, h1, h2, h3]; rfl)
theorem ald (x : FR) : Statement (.ald x) := fun h => full_fr 0x2C 4 (of_wf h) (by decide) (by decide)
  (fun w h1 h2 h3 => by simp only [decodeFull, h1, h2, h3]; rfl)
theorem ast (x : FR) : Statement (.ast x) := fun h => full_fr 0x2C 5 (of_wf h) (by decide) (by decide)
  (fun w h1 h2 h3 => by simp only [decodeFull, h1, h2, h3]; rfl)
theorem aacc (x : FR) : Statement (.aacc x) := fun h => full_fr 0x2C 6 (of_wf h) (by decide) (by decide)
  (fun w h1 h2 h3 => by simp only [decodeFull, h1, h2, h3]; rfl)
theorem acpy (x : FR) : Statement (.acpy x) := fun h => full_fr 0x2C 7 (of_wf h) (by decide) (by decide)
  (fun w h1 h2 h3 => by simp only [decodeFull, h1, h2, h3]; rfl)
theorem ldsc (x : FR) : Statement (.ldsc x) := fun h => full_fr 0x2C 8 (of_wf h) (by decide) (by decide)
  (fun w h1 h2 h3 => by simp only [decodeFull, h1, h2, h3]; rfl)
theorem mopa (x : FX) : Statement (.mopa x) := fun h =>
  have k := FX.check_reserved (of_wf h)
  have l := x.word_fields
  ⟨_, rfl, l.1, by simp only [decodeFull, l.2.1, x.ofWord_word k.1 k.2.1 k.2.2.1 k.2.2.2.1 k.2.2.2.2]⟩
theorem vaddHalf (x : Half) : Statement (.vaddHalf x) := fun h => half_op 0x00 (of_wf h) (by decide)
  (fun w h1 h2 => by simp only [decodeHalf, h1, h2]; rfl)
theorem vsubHalf (x : Half) : Statement (.vsubHalf x) := fun h => half_op 0x01 (of_wf h) (by decide)
  (fun w h1 h2 => by simp only [decodeHalf, h1, h2]; rfl)
theorem vmulHalf (x : Half) : Statement (.vmulHalf x) := fun h => half_op 0x02 (of_wf h) (by decide)
  (fun w h1 h2 => by simp only [decodeHalf, h1, h2]; rfl)
theorem vandHalf (x : Half) : Statement (.vandHalf x) := fun h => half_op 0x03 (of_wf h) (by decide)
  (fun w h1 h2 => by simp only [decodeHalf, h1, h2]; rfl)
theorem vorHalf (x : Half) : Statement (.vorHalf x) := fun h => half_op 0x04 (of_wf h) (by decide)
  (fun w h1 h2 => by simp only [decodeHalf, h1, h2]; rfl)
theorem vxorHalf (x : Half) : Statement (.vxorHalf x) := fun h => half_op 0x05 (of_wf h) (by decide)
  (fun w h1 h2 => by simp only [decodeHalf, h1, h2]; rfl)
theorem vandnHalf (x : Half) : Statement (.vandnHalf x) := fun h => half_op 0x06 (of_wf h) (by decide)
  (fun w h1 h2 => by simp only [decodeHalf, h1, h2]; rfl)
theorem vshlHalf (x : Half) : Statement (.vshlHalf x) := fun h => half_op 0x07 (of_wf h) (by decide)
  (fun w h1 h2 => by simp only [decodeHalf, h1, h2]; rfl)
theorem vshrHalf (x : Half) : Statement (.vshrHalf x) := fun h => half_op 0x08 (of_wf h) (by decide)
  (fun w h1 h2 => by simp only [decodeHalf, h1, h2]; rfl)
theorem vsraHalf (x : Half) : Statement (.vsraHalf x) := fun h => half_op 0x09 (of_wf h) (by decide)
  (fun w h1 h2 => by simp only [decodeHalf, h1, h2]; rfl)
theorem vminHalf (x : Half) : Statement (.vminHalf x) := fun h => half_op 0x0A (of_wf h) (by decide)
  (fun w h1 h2 => by simp only [decodeHalf, h1, h2]; rfl)
theorem vmaxHalf (x : Half) : Statement (.vmaxHalf x) := fun h => half_op 0x0B (of_wf h) (by decide)
  (fun w h1 h2 => by simp only [decodeHalf, h1, h2]; rfl)
theorem vmovHalf (x : Half) : Statement (.vmovHalf x) := fun h => half_op 0x0C (of_wf h) (by decide)
  (fun w h1 h2 => by simp only [decodeHalf, h1, h2]; rfl)
theorem vnegHalf (x : Half) : Statement (.vnegHalf x) := fun h => half_op 0x0D (of_wf h) (by decide)
  (fun w h1 h2 => by simp only [decodeHalf, h1, h2]; rfl)
theorem vnotHalf (x : Half) : Statement (.vnotHalf x) := fun h => half_op 0x0E (of_wf h) (by decide)
  (fun w h1 h2 => by simp only [decodeHalf, h1, h2]; rfl)
theorem vabsHalf (x : Half) : Statement (.vabsHalf x) := fun h => half_op 0x0F (of_wf h) (by decide)
  (fun w h1 h2 => by simp only [decodeHalf, h1, h2]; rfl)
theorem vfaddHalf (x : Half) : Statement (.vfaddHalf x) := fun h => half_op 0x10 (of_wf h) (by decide)
  (fun w h1 h2 => by simp only [decodeHalf, h1, h2]; rfl)
theorem vfsubHalf (x : Half) : Statement (.vfsubHalf x) := fun h => half_op 0x11 (of_wf h) (by decide)
  (fun w h1 h2 => by simp only [decodeHalf, h1, h2]; rfl)
theorem vfmulHalf (x : Half) : Statement (.vfmulHalf x) := fun h => half_op 0x12 (of_wf h) (by decide)
  (fun w h1 h2 => by simp only [decodeHalf, h1, h2]; rfl)
theorem vfminHalf (x : Half) : Statement (.vfminHalf x) := fun h => half_op 0x13 (of_wf h) (by decide)
  (fun w h1 h2 => by simp only [decodeHalf, h1, h2]; rfl)
theorem vfmaxHalf (x : Half) : Statement (.vfmaxHalf x) := fun h => half_op 0x14 (of_wf h) (by decide)
  (fun w h1 h2 => by simp only [decodeHalf, h1, h2]; rfl)
theorem vfabsHalf (x : Half) : Statement (.vfabsHalf x) := fun h => half_op 0x15 (of_wf h) (by decide)
  (fun w h1 h2 => by simp only [decodeHalf, h1, h2]; rfl)
theorem vfnegHalf (x : Half) : Statement (.vfnegHalf x) := fun h => half_op 0x16 (of_wf h) (by decide)
  (fun w h1 h2 => by simp only [decodeHalf, h1, h2]; rfl)
theorem vhaddHalf (x : Half) : Statement (.vhaddHalf x) := fun h => half_op 0x17 (of_wf h) (by decide)
  (fun w h1 h2 => by simp only [decodeHalf, h1, h2]; rfl)
theorem vhmulHalf (x : Half) : Statement (.vhmulHalf x) := fun h => half_op 0x18 (of_wf h) (by decide)
  (fun w h1 h2 => by simp only [decodeHalf, h1, h2]; rfl)
theorem vcvtHalf (x : Half) : Statement (.vcvtHalf x) := fun h => half_op 0x19 (of_wf h) (by decide)
  (fun w h1 h2 => by simp only [decodeHalf, h1, h2]; rfl)
theorem saddHalf (x : Half) : Statement (.saddHalf x) := fun h => half_op 0x1A (of_wf h) (by decide)
  (fun w h1 h2 => by simp only [decodeHalf, h1, h2]; rfl)
theorem ssubHalf (x : Half) : Statement (.ssubHalf x) := fun h => half_op 0x1B (of_wf h) (by decide)
  (fun w h1 h2 => by simp only [decodeHalf, h1, h2]; rfl)
theorem sandHalf (x : Half) : Statement (.sandHalf x) := fun h => half_op 0x1C (of_wf h) (by decide)
  (fun w h1 h2 => by simp only [decodeHalf, h1, h2]; rfl)
theorem sorHalf (x : Half) : Statement (.sorHalf x) := fun h => half_op 0x1D (of_wf h) (by decide)
  (fun w h1 h2 => by simp only [decodeHalf, h1, h2]; rfl)
theorem sxorHalf (x : Half) : Statement (.sxorHalf x) := fun h => half_op 0x1E (of_wf h) (by decide)
  (fun w h1 h2 => by simp only [decodeHalf, h1, h2]; rfl)
theorem sshlHalf (x : Half) : Statement (.sshlHalf x) := fun h => half_op 0x1F (of_wf h) (by decide)
  (fun w h1 h2 => by simp only [decodeHalf, h1, h2]; rfl)
theorem sshrHalf (x : Half) : Statement (.sshrHalf x) := fun h => half_op 0x20 (of_wf h) (by decide)
  (fun w h1 h2 => by simp only [decodeHalf, h1, h2]; rfl)
theorem ssraHalf (x : Half) : Statement (.ssraHalf x) := fun h => half_op 0x21 (of_wf h) (by decide)
  (fun w h1 h2 => by simp only [decodeHalf, h1, h2]; rfl)
theorem smovHalf (x : Half) : Statement (.smovHalf x) := fun h => half_op 0x22 (of_wf h) (by decide)
  (fun w h1 h2 => by simp only [decodeHalf, h1, h2]; rfl)
theorem sminHalf (x : Half) : Statement (.sminHalf x) := fun h => half_op 0x23 (of_wf h) (by decide)
  (fun w h1 h2 => by simp only [decodeHalf, h1, h2]; rfl)
theorem smaxHalf (x : Half) : Statement (.smaxHalf x) := fun h => half_op 0x24 (of_wf h) (by decide)
  (fun w h1 h2 => by simp only [decodeHalf, h1, h2]; rfl)
theorem smulHalf (x : Half) : Statement (.smulHalf x) := fun h => half_op 0x25 (of_wf h) (by decide)
  (fun w h1 h2 => by simp only [decodeHalf, h1, h2]; rfl)
theorem saddi8Half (x : HalfI) : Statement (.saddi8Half x) := fun h => half_imm 0x26 (of_wf h) (by decide)
  (fun w h1 h2 => by simp only [decodeHalf, h1, h2]; rfl)
theorem smovi8Half (x : HalfI) : Statement (.smovi8Half x) := fun h => half_imm 0x27 (of_wf h) (by decide)
  (fun w h1 h2 => by simp only [decodeHalf, h1, h2]; rfl)
theorem nopHalf (rest : BitVec 24) : Statement (.nopHalf rest) := fun h => by
  have k : (if rest = 0#24 then (none : Option Nat) else some 0x09) = none := of_wf h
  have e : rest = 0#24 := by
    by_cases e : rest = 0#24
    · exact e
    · simp [e] at k
  subst e
  exact ⟨0x7F * 2 ^ 24, rfl, by decide, by decide⟩
theorem stampreg (p : Nat) : Statement (.stampreg p) := fun _ => rfl
theorem stampdel (p : Nat) : Statement (.stampdel p) := fun _ => rfl
theorem rangeinv (p : Nat) : Statement (.rangeinv p) := fun _ => rfl
theorem zerofill (p : Nat) : Statement (.zerofill p) := fun _ => rfl
theorem load (p : Nat) : Statement (.load p) := fun _ => rfl
theorem unload (p : Nat) : Statement (.unload p) := fun _ => rfl
theorem chanreg (p : Nat) : Statement (.chanreg p) := fun _ => rfl
theorem attest (p : Nat) : Statement (.attest p) := fun _ => rfl
theorem collset (p : Nat) : Statement (.collset p) := fun _ => rfl
theorem replay (p : Nat) : Statement (.replay p) := fun _ => rfl
theorem tlbiAll (p : Nat) (val : Word64) : Statement (.tlbiAll p val) := fun _ => rfl
theorem tlbiStage1Range (p : Nat) (val : Word64) : Statement (.tlbiStage1Range p val) := fun _ => rfl
theorem tlbiStage2Range (p : Nat) (val : Word64) : Statement (.tlbiStage2Range p val) := fun _ => rfl
theorem tlbiDone (p : Nat) : Statement (.tlbiDone p) := fun _ => rfl
theorem ttbWrite (p : Nat) (second : Bool) (val : Word64) : Statement (.ttbWrite p second val) := fun _ => rfl
theorem qopenAll (p : Nat) : Statement (.qopenAll p) := fun _ => rfl
theorem qopenId (p : Nat) (id : Nat) : Statement (.qopenId p id) := fun _ => rfl
theorem gaugeClear (u : GaugeRef) (val : BitVec 32) : Statement (.gaugeClear u val) := fun _ => rfl
theorem exceptionCounterClear (p slot fmt kind : Nat) : Statement (.exceptionCounterClear p slot fmt kind) := fun _ => rfl
theorem emitlostClear (p slot : Nat) : Statement (.emitlostClear p slot) := fun _ => rfl
theorem xarmWrite (p n : Nat) (val : Word64) : Statement (.xarmWrite p n val) := fun _ => rfl
theorem submitRecord (p stamp slot : Nat) (word : Word64) : Statement (.submitRecord p stamp slot word) := fun _ => rfl
theorem channelCommand (p stamp : Nat) : Statement (.channelCommand p stamp) := fun _ => rfl
theorem channelCommandComplete (p chan : Nat) (hostData : Option (List Byte)) : Statement (.channelCommandComplete p chan hostData) := fun _ => rfl
theorem firmwareCheck (image : List Byte) : Statement (.firmwareCheck image) := fun _ => rfl
theorem registerWrite (r : RegRef) (val : Word64) : Statement (.registerWrite r val) := fun _ => rfl
theorem powerUp : Statement (.powerUp) := fun _ => rfl
theorem hostIaWrite (p ia : Nat) (data : List Byte) : Statement (.hostIaWrite p ia data) := fun _ => rfl
theorem hostIaRead (p ia n : Nat) : Statement (.hostIaRead p ia n) := fun _ => rfl
theorem hostAtomic (p ia : Nat) (op : AOp) (n x c : Nat) : Statement (.hostAtomic p ia op n x c) := fun _ => rfl
theorem peerRequest (peer off : Nat) (op : PeerOp) : Statement (.peerRequest peer off op) := fun _ => rfl
theorem peerCompletion (p d rid : Nat) (epoch : BitVec 8) (data : List Byte) (abort : Bool) : Statement (.peerCompletion p d rid epoch data abort) := fun _ => rfl
theorem peerQuarantine (p d : Nat) : Statement (.peerQuarantine p d) := fun _ => rfl
theorem completerDeadline (rid : Nat) : Statement (.completerDeadline rid) := fun _ => rfl
theorem collReady (p set tag member : Nat) (digest : List Byte) : Statement (.collReady p set tag member digest) := fun _ => rfl
theorem collHandshakeTimeout (p set tag : Nat) : Statement (.collHandshakeTimeout p set tag) := fun _ => rfl
theorem collComplete (p set tag : Nat) (contribs : Option (List (List Byte))) (order : List Nat) : Statement (.collComplete p set tag contribs order) := fun _ => rfl
theorem evidenceRequest (peer : Nat) (nonce : List Byte) : Statement (.evidenceRequest peer nonce) := fun _ => rfl
theorem recordArrival (p graph node : Nat) : Statement (.recordArrival p graph node) := fun _ => rfl
theorem batchWindowClose (p batch : Nat) : Statement (.batchWindowClose p batch) := fun _ => rfl
theorem batchDispatch (p : Nat) : Statement (.batchDispatch p) := fun _ => rfl
theorem preemptionRequest (block bound : Nat) : Statement (.preemptionRequest block bound) := fun _ => rfl
theorem saveComplete (block : Nat) : Statement (.saveComplete block) := fun _ => rfl
theorem blockResume (block core : Nat) : Statement (.blockResume block core) := fun _ => rfl
theorem tshareTurnEnd (cluster next : Nat) : Statement (.tshareTurnEnd cluster next) := fun _ => rfl
theorem clearSequence (cluster : Nat) (dirty : Bool) : Statement (.clearSequence cluster dirty) := fun _ => rfl
theorem coreFenceOff (core : Nat) : Statement (.coreFenceOff core) := fun _ => rfl
theorem shadowLatchReplay (core : Nat) : Statement (.shadowLatchReplay core) := fun _ => rfl
theorem parkingEvent (gid op : Nat) : Statement (.parkingEvent gid op) := fun _ => rfl
theorem parkCourse (gid : Nat) : Statement (.parkCourse gid) := fun _ => rfl
theorem splitCopyDone (gid : Nat) : Statement (.splitCopyDone gid) := fun _ => rfl
theorem loadDataArrival (gid op : Nat) (lanes : BitVec 96) : Statement (.loadDataArrival gid op lanes) := fun _ => rfl
theorem storeAck (gid op : Nat) : Statement (.storeAck gid op) := fun _ => rfl
theorem atomicResponse (gid op : Nat) : Statement (.atomicResponse gid op) := fun _ => rfl
theorem engineComplete (gid op : Nat) : Statement (.engineComplete gid op) := fun _ => rfl
theorem acpyComplete (gid op : Nat) : Statement (.acpyComplete gid op) := fun _ => rfl
theorem mxComplete (gid op : Nat) : Statement (.mxComplete gid op) := fun _ => rfl
theorem xputComplete (gid op : Nat) : Statement (.xputComplete gid op) := fun _ => rfl
theorem sealRelease (gid : Nat) : Statement (.sealRelease gid) := fun _ => rfl
theorem waitcResume (gid : Nat) : Statement (.waitcResume gid) := fun _ => rfl
theorem growDone (gid : Nat) : Statement (.growDone gid) := fun _ => rfl
theorem shrinkDone (gid : Nat) : Statement (.shrinkDone gid) := fun _ => rfl
theorem fenceDone (gid : Nat) : Statement (.fenceDone gid) := fun _ => rfl
theorem tfenceDone (gid : Nat) : Statement (.tfenceDone gid) := fun _ => rfl
theorem modeMEnter (gid : Nat) : Statement (.modeMEnter gid) := fun _ => rfl
theorem modeVDrained (gid : Nat) : Statement (.modeVDrained gid) := fun _ => rfl
theorem groupEnd (gid : Nat) : Statement (.groupEnd gid) := fun _ => rfl
theorem barvRegister (gid point : Nat) : Statement (.barvRegister gid point) := fun _ => rfl
theorem bwaitResume (gid : Nat) : Statement (.bwaitResume gid) := fun _ => rfl
theorem cbarRegister (gid : Nat) : Statement (.cbarRegister gid) := fun _ => rfl
theorem releasePerform (gid op : Nat) : Statement (.releasePerform gid op) := fun _ => rfl
theorem commitBufferRoom (gid : Nat) : Statement (.commitBufferRoom gid) := fun _ => rfl
theorem activeSlotTimeout (core slot : Nat) : Statement (.activeSlotTimeout core slot) := fun _ => rfl
theorem pendingPromotion (gid : Nat) : Statement (.pendingPromotion gid) := fun _ => rfl
theorem sliceRequest (rid : Nat) (high : Bool) : Statement (.sliceRequest rid high) := fun _ => rfl
theorem walkComplete (wid : Nat) (fresh : Bool) : Statement (.walkComplete wid fresh) := fun _ => rfl
theorem hbmUncorrectableError (pa : Nat) : Statement (.hbmUncorrectableError pa) := fun _ => rfl
theorem keyRevokeFlush (key : Nat) : Statement (.keyRevokeFlush key) := fun _ => rfl
theorem keyRevokeImmediate (key : Nat) : Statement (.keyRevokeImmediate key) := fun _ => rfl
theorem keyRevokeComplete (key : Nat) : Statement (.keyRevokeComplete key) := fun _ => rfl
theorem partitionMapChange (p : Nat) (entry : List Word64) : Statement (.partitionMapChange p entry) := fun _ => rfl
theorem waySweepDone (p : Nat) : Statement (.waySweepDone p) := fun _ => rfl
theorem partitionCreate (p : Nat) : Statement (.partitionCreate p) := fun _ => rfl
theorem partitionReset (p : Nat) : Statement (.partitionReset p) := fun _ => rfl
theorem flitReceive (link : LinkId) (corrupt : Bool) : Statement (.flitReceive link corrupt) := fun _ => rfl
theorem linkResendRequest (link : LinkId) (seq : BitVec 8) : Statement (.linkResendRequest link seq) := fun _ => rfl
theorem linkAck (link : LinkId) (seq : BitVec 8) : Statement (.linkAck link seq) := fun _ => rfl
theorem linkRetrain (link : LinkId) : Statement (.linkRetrain link) := fun _ => rfl
theorem linkRetrainDone (link : LinkId) : Statement (.linkRetrainDone link) := fun _ => rfl
theorem tornStatus (rid : Nat) : Statement (.tornStatus rid) := fun _ => rfl
theorem linkRekey (link : LinkId) : Statement (.linkRekey link) := fun _ => rfl
theorem linkRekeySwitch (link : LinkId) (key : BitVec 128) : Statement (.linkRekeySwitch link key) := fun _ => rfl
theorem quotaPeriodEnd (station : Nat) : Statement (.quotaPeriodEnd station) := fun _ => rfl
theorem gaugeQueueSample (u : UnitGauge) : Statement (.gaugeQueueSample u) := fun _ => rfl
theorem commandEnd (p : Nat) : Statement (.commandEnd p) := fun _ => rfl
theorem attestMemberTimeout (p : Nat) : Statement (.attestMemberTimeout p) := fun _ => rfl
theorem frameSlot (link : LinkId) : Statement (.frameSlot link) := fun _ => rfl
theorem powerGating (core : Nat) (gated : Bool) : Statement (.powerGating core gated) := fun _ => rfl
theorem tdispRequest (p : Nat) (run : Bool) : Statement (.tdispRequest p run) := fun _ => rfl
theorem atsCompletion (wid : Nat) (hostPa : Option Nat) : Statement (.atsCompletion wid hostPa) := fun _ => rfl
theorem hostCompleterDeadline (rid : Nat) : Statement (.hostCompleterDeadline rid) := fun _ => rfl
theorem memoryKeyProgram (key part : Nat) (context : Option Nat) (value : BitVec 512) : Statement (.memoryKeyProgram key part context value) := fun _ => rfl

end Sys2Proof.Laws.RoundTrip
end

