-- ==== Sys2Proof/Safety.lean ====
section
/-! DEFINITION. The terms in which claims are stated: a safe run, a group that issues, a word that may run, what a word
leaves of its group and of the rest of the machine, and arithmetic on the elements of a register as bit vectors. -/

namespace Sys2Proof

/-- The machine goes on for n steps from a state. -/
def Safe (n : Nat) (s : Machine.State) : Prop := ∃ t, core.run n s = .next t

namespace Machine

/-! ## A word that runs -/

/-- Group `gid`, which stands at `g`, issues. -/
def Issues (s : State) (gid : Nat) (g : Group) : Prop := s.cur = some gid ∧ AMap.find gid s.groups = some g

/-- A word of the issuing group that passes the checks of Table 2.12: its own bits, and the registers it names. -/
def Runs (i : Instr) (sp : List (Nat × Nat)) (s : State) (gid : Nat) (g : Group) : Prop :=
  Issues s gid g ∧ i.wf = true ∧ spansOk (16 * g.alloc) sp = true

/-- Its kernel names the handler at offset `h`. -/
def Handles (s : State) (g : Group) (h : Nat) : Prop := s.handler g = some h

/-! ## Registers as bit vectors -/

/-- Register v(r) of lane j. -/
def Group.vreg (g : Group) (j r : Nat) : BitVec 32 := Sparse.get 0#32 g.v (256 * j + r)

/-- Predicate q(n) of lane j as stored. -/
def Group.qreg (g : Group) (j n : Nat) : Bool := Sparse.get false g.q (8 * j + n)

/-- Scalar register s(n). -/
def Group.sreg (g : Group) (n : Nat) : BitVec 64 := Sparse.get 0#64 g.s n

/-- A lane operand, 32 bits. -/
def Group.op32 (g : Group) (c : Ctx) (j : Nat) (o : Operand) : BitVec 32 := BitVec.ofNat 32 (g.src c j o)

/-- A uniform operand, 64 bits. -/
def Group.op64 (g : Group) (c : Ctx) (o : Operand) : BitVec 64 := BitVec.ofNat 64 (g.srcU c o)

/-- A wide operand of a lane, 64 bits. -/
def Group.opWide (g : Group) (c : Ctx) (j : Nat) (o : Operand) : BitVec 64 := BitVec.ofNat 64 (g.wide c j o)

/-! ## What a word leaves -/

/-- h is g after writes of register v(d) in the lanes `ls`: lane j takes `val j`. -/
def WritesV (g h : Group) (ls : List Nat) (d : Nat) (val : Nat → BitVec 32) : Prop :=
  ∀ j r, r < 256 → h.vreg j r = if j ∈ ls ∧ r = d then val j else g.vreg j r

/-- h is g after writes of predicate q(d), d below 7, in the lanes `ls`. -/
def WritesQ (g h : Group) (ls : List Nat) (d : Nat) (val : Nat → Bool) : Prop :=
  ∀ j n, n < 8 → h.qreg j n = if j ∈ ls ∧ n = d then val j else g.qreg j n

/-- Every lane of h is that lane of g but for status bits `st j` set in the lanes `ls`. -/
def SetsStat (g h : Group) (ls : List Nat) (st : Nat → BitVec 32) : Prop :=
  ∀ j, AMap.find j h.lanes
    = (AMap.find j g.lanes).map (fun l => if j ∈ ls then { l with lstat := l.lstat ||| st j } else l)

/-- Every lane of h is that lane of g but for held flags `fl j`, raised in the lanes `ls` that are no helper lanes,
under a strict group's mask (R62). -/
def RaisesF (g h : Group) (ls : List Nat) (fl : Nat → FFlags) : Prop :=
  ∀ j, AMap.find j h.lanes = (AMap.find j g.lanes).map (fun l =>
    if j ∈ ls ∧ l.help = false ∧ g.strict = true then { l with heldF := l.heldF ||| (fl j &&& g.fpxmask) } else l)

/-- The word changes its group alone: exec answers s with the group at `h`. -/
def Leaves (i : Instr) (s : State) (gid : Nat) (h : Group) : Prop := exec i s = .next (s.setGroup gid h)

/-- A lane word: D takes `val` of the operands, and the status bits `st` are set, in every lane that takes part; the PC
moves on by 8; nothing else of the group changes and nothing outside it. -/
def LaneResult (i : Instr) (x : FR) (val : BitVec 32 → BitVec 32 → BitVec 32 → BitVec 32)
    (st : BitVec 32 → BitVec 32 → BitVec 32 → BitVec 32) : Prop :=
  ∀ s gid g, Runs i (x.spans 1 1 1) s gid g →
    ∃ h, Leaves i s gid h ∧ h = { g with v := h.v, lanes := h.lanes, pc := g.pc + 8 }
      ∧ WritesV g h (g.parts x.g.toNat) (regNum x.d)
          (fun j => val (g.op32 (s.ctx g) j x.a) (g.op32 (s.ctx g) j x.b) (g.op32 (s.ctx g) j x.c))
      ∧ SetsStat g h (g.parts x.g.toNat)
          (fun j => st (g.op32 (s.ctx g) j x.a) (g.op32 (s.ctx g) j x.b) (g.op32 (s.ctx g) j x.c))

/-- A lane word that sets no status bit. -/
def LaneWrite (i : Instr) (x : FR) (val : BitVec 32 → BitVec 32 → BitVec 32 → BitVec 32) : Prop :=
  LaneResult i x val (fun _ _ _ => 0#32)

/-- The same for a half, whose word moves the PC. -/
def HalfWrite (i : Instr) (x : FR) (val : BitVec 32 → BitVec 32 → BitVec 32 → BitVec 32) : Prop :=
  ∀ s gid g, Runs i (x.spans 1 1 1) s gid g →
    ∃ h, Leaves i s gid h ∧ h = { g with v := h.v, lanes := h.lanes }
      ∧ WritesV g h (g.parts x.g.toNat) (regNum x.d)
          (fun j => val (g.op32 (s.ctx g) j x.a) (g.op32 (s.ctx g) j x.b) (g.op32 (s.ctx g) j x.c))
      ∧ SetsStat g h (g.parts x.g.toNat) (fun _ => 0#32)

/-- An immediate lane word: D takes `val` of A. -/
def LaneImm (i : Instr) (x : FI) (val : BitVec 32 → BitVec 32) : Prop :=
  ∀ s gid g, Runs i (fiSpans x) s gid g →
    ∃ h, Leaves i s gid h ∧ h = { g with v := h.v, pc := g.pc + 8 }
      ∧ WritesV g h (g.parts x.g.toNat) (regNum x.d) (fun j => val (g.op32 (s.ctx g) j x.a))

/-- A floating-point lane word: D takes the value, a strict group holds the flags under its mask, and the results of the
lanes that are no helper lanes feed the node's exception counters. -/
def FloatResult (i : Instr) (x : FR) (f : Nat → Nat → Nat → LaneF) : Prop :=
  ∀ s gid g, Runs i (x.spans 1 1 1) s gid g →
    let r := fun j => f (g.src (s.ctx g) j x.a) (g.src (s.ctx g) j x.b) (g.src (s.ctx g) j x.c)
    ∃ h, exec i s = .next ((s.setGroup gid h).count g
          (((g.parts x.g.toNat).filter (fun j => !g.help j)).flatMap (fun j => (r j).counts)))
      ∧ h = { g with v := h.v, lanes := h.lanes, pc := g.pc + 8 }
      ∧ WritesV g h (g.parts x.g.toNat) (regNum x.d) (fun j => BitVec.ofNat 32 (r j).val)
      ∧ RaisesF g h (g.parts x.g.toNat) (fun j => (r j).flags)

/-- The same for a half. -/
def HalfFloat (i : Instr) (x : FR) (f : Nat → Nat → Nat → LaneF) : Prop :=
  ∀ s gid g, Runs i (x.spans 1 1 1) s gid g →
    let r := fun j => f (g.src (s.ctx g) j x.a) (g.src (s.ctx g) j x.b) (g.src (s.ctx g) j x.c)
    ∃ h, exec i s = .next ((s.setGroup gid h).count g
          (((g.parts x.g.toNat).filter (fun j => !g.help j)).flatMap (fun j => (r j).counts)))
      ∧ h = { g with v := h.v, lanes := h.lanes }
      ∧ WritesV g h (g.parts x.g.toNat) (regNum x.d) (fun j => BitVec.ofNat 32 (r j).val)
      ∧ RaisesF g h (g.parts x.g.toNat) (fun j => (r j).flags)

/-- A scalar word: s(d) takes `val` of the operands, the PC moves on by 8, nothing else changes. -/
def ScalarResult (i : Instr) (x : FR) (val : BitVec 64 → BitVec 64 → BitVec 64 → BitVec 64) : Prop :=
  ∀ s gid g, Runs i [] s gid g →
    Leaves i s gid (g.setS (regNum x.d)
      (val (g.op64 (s.ctx g) x.a) (g.op64 (s.ctx g) x.b) (g.op64 (s.ctx g) x.c)).toNat).advance

/-- A scalar half, whose word moves the PC. -/
def ScalarHalf (i : Instr) (x : FR) (val : BitVec 64 → BitVec 64 → BitVec 64 → BitVec 64) : Prop :=
  ∀ s gid g, Runs i [] s gid g →
    Leaves i s gid (g.setS (regNum x.d)
      (val (g.op64 (s.ctx g) x.a) (g.op64 (s.ctx g) x.b) (g.op64 (s.ctx g) x.c)).toNat)

/-- An immediate scalar word. -/
def ScalarImm (i : Instr) (x : FI) (val : BitVec 64 → BitVec 64) : Prop :=
  ∀ s gid g, Runs i [] s gid g →
    Leaves i s gid (g.setS (regNum x.d) (val (g.op64 (s.ctx g) x.a)).toNat).advance

/-! ## Elements of a register (R86) -/

/-- Type .i32 or .n32: the register is one element; .i16x2 or .n16x2: its halves are two. -/
def elems (ty : Nat) (f : (w : Nat) → BitVec w → BitVec w → BitVec w → BitVec w) (a b c : BitVec 32) : BitVec 32 :=
  if ty < 2 then f 32 a b c
  else f 16 (a.extractLsb' 16 16) (b.extractLsb' 16 16) (c.extractLsb' 16 16)
    ++ f 16 (a.extractLsb' 0 16) (b.extractLsb' 0 16) (c.extractLsb' 0 16)

/-- An element read under the type: signed for .i32 and .i16x2. -/
def readAs {w : Nat} (ty : Nat) (x : BitVec w) : Int := if ty % 2 = 0 then x.toInt else (x.toNat : Int)

/-- Status bits of every element together. -/
def elemStat (ty : Nat) (f : (w : Nat) → BitVec w → BitVec w → BitVec 32) (a b _c : BitVec 32) : BitVec 32 :=
  if ty < 2 then f 32 a b
  else f 16 (a.extractLsb' 0 16) (b.extractLsb' 0 16) ||| f 16 (a.extractLsb' 16 16) (b.extractLsb' 16 16)

/-! ## Floating-point values as rational numbers (R66–R78) -/

/-- 2^e. -/
def pow2 (e : Int) : Rat := if 0 ≤ e then ((2 ^ e.toNat : Nat) : Rat) else 1 / ((2 ^ (-e).toNat : Nat) : Rat)

/-- The number that a finite value is; 0 for an infinity or a NaN. -/
def FVal.rat : FVal → Rat
  | .fin n m e => (if n then -1 else 1) * (m : Rat) * pow2 e
  | .inf _ | .nan _ => 0

/-- A finite value. -/
def FVal.finite : FVal → Bool
  | .fin _ _ _ => true
  | .inf _ | .nan _ => false

/-- The magnitude of a code of a format. -/
def Fmt.mag (f : Fmt) (c : Nat) : Rat := (f.value c).rat

/-- One step of Round's grid past the largest finite code (R72). -/
def Fmt.past (f : Fmt) : Rat := 2 * f.mag f.maxCode - f.mag (f.maxCode - 1)

/-- The magnitude that follows a code's on Round's grid. -/
def Fmt.above (f : Fmt) (c : Nat) : Rat := if c < f.maxCode then f.mag (c + 1) else f.past

/-- A magnitude x from code c on, below the next, is rounded up (R72): to the nearer one, on a tie to the even code; never;
toward +∞; toward −∞. -/
def Fmt.goesUp (f : Fmt) (mode : RMode) (neg : Bool) (c : Nat) (x : Rat) : Prop :=
  match mode with
  | .rn => f.mag c + f.above c < 2 * x ∨ (f.mag c + f.above c = 2 * x ∧ c % 2 = 1)
  | .rz => False
  | .rp => neg = false ∧ f.mag c ≠ x
  | .rm => neg = true ∧ f.mag c ≠ x

/-- Overflow leaves the finite range (Table 3.4). -/
def RMode.leaves (mode : RMode) (neg : Bool) : Bool :=
  match mode with
  | .rn => true
  | .rz => false
  | .rp => !neg
  | .rm => neg

/-- Round of a magnitude x above 0 with a sign gives a code and flags (R72–R74, R77): c is the greatest code whose magnitude is at
most x; under FTZ a magnitude below the least normal gives a zero with UF and NX; past the grid, or rounded up from the largest code,
OF and NX and Table 3.4; otherwise c or the next, by the direction, with NX where the value differs, and UF too below the least
normal. -/
def Fmt.RoundsTo (f : Fmt) (mode : RMode) (ftz sat neg : Bool) (x : Rat) (r : Nat × FFlags) : Prop := ∃ c,
  c ≤ f.maxCode ∧ f.mag c ≤ x ∧ (c < f.maxCode → x < f.mag (c + 1))
  ∧ (ftz = true → x < pow2 f.emin → r = (f.signBit neg, flagUF ||| flagNX))
  ∧ (ftz = false ∨ pow2 f.emin ≤ x →
      let past := f.past ≤ x ∨ (c = f.maxCode ∧ f.goesUp mode neg c x)
      (past → r.2 = flagOF ||| flagNX
        ∧ r.1 = if sat = true ∨ mode.leaves neg = false then f.signBit neg + f.maxCode
            else if f.hasInf = true then f.signBit neg + f.infCode
            else if f.hasNaN = true then f.nanCode else f.signBit neg + f.maxCode)
      ∧ (¬ past → (f.goesUp mode neg c x → r.1 = f.signBit neg + (c + 1))
        ∧ (¬ f.goesUp mode neg c x → r.1 = f.signBit neg + c)
        ∧ r.2 = if f.mag c = x then 0#5 else if x < pow2 f.emin then flagUF ||| flagNX else flagNX))

/-! ## Scalar and branch words -/

/-- k of SALUI (Table 7.3). -/
def salui (md : BitVec 2) (imm : BitVec 24) : BitVec 64 :=
  if md = 0#2 then imm.signExtend 64 else if md = 1#2 then imm.zeroExtend 64 else imm.zeroExtend 64 <<< 24

/-- A branch of condition `p`: not taken, the PC advances by 8; taken, it becomes the target, PC + 8 + 8 × OFF32; a
target outside .text raises the misaligned-access trap with reason 0x35. -/
def Branches (i : Instr) (x : FB) (p : Group → Prop) : Prop := ∀ (s : State) (gid : Nat) (g : Group), Runs i [] s gid g →
  let t := (g.pc : Int) + 8 + 8 * x.off.toInt
  (¬ p g → Leaves i s gid { g with pc := g.pc + 8 })
  ∧ (p g → 0 ≤ t → t < s.textSize g → Leaves i s gid { g with pc := t.toNat, notBefore := s.afterTransfer g })
  ∧ (p g → (t < 0 ∨ (s.textSize g : Int) ≤ t) → exec i s = .next (s.enterTrap gid g 0x08 0x35 g.pc))

/-! ## Words between lanes -/

/-- A word that moves one value to each lane that takes part (R189): D takes what Fetch gives from the source that `src`
names for lane j and B(j), and FILT is set where Fetch filtered. -/
def Moves (i : Instr) (x : FR) (src : Nat → Nat → Option Nat) : Prop := ∀ s gid g, Runs i (x.spans 1 1 1) s gid g →
  let r := fun j => g.fetch (s.ctx g) x j (src j (g.src (s.ctx g) j x.b))
  ∃ h, Leaves i s gid h ∧ h = { g with v := h.v, lanes := h.lanes, pc := g.pc + 8 }
    ∧ WritesV g h (g.parts x.g.toNat) (regNum x.d) (fun j => BitVec.ofNat 32 (r j).1)
    ∧ SetsStat g h (g.parts x.g.toNat) (fun j => if (r j).2 then statFILT else 0#32)

/-- A scan or reduction (R191, R192, R194): over the contributors that `within j` admits, lane j takes the fold of
Combine over those that share with it, or C where there are none; FILT is set where one does not share; the results of the
lanes that are no helper lanes feed the node's counters. -/
def Folds (i : Instr) (x : FR) (within : Nat → Nat → Prop) [∀ j, DecidablePred (within j)] : Prop :=
  ∀ s gid g, Runs i (x.spans 1 1 1) s gid g →
    let ls := g.parts x.g.toNat
    let opr := (x.md.extractLsb' 3 4).toNat
    let own := fun j => (ls.filter (fun k => within j k ∧ g.shares j k = true)).map (fun k => g.src (s.ctx g) k x.a)
    let r := fun j => match own j with
      | [] => (g.src (s.ctx g) j x.c, 0#5)
      | a :: rest => foldOp opr a rest
    ∃ h, exec i s = .next ((s.setGroup gid h).count g ((ls.filter (fun j => !g.help j)).flatMap (fun j =>
        match own j with
          | [] => []
          | a :: rest => foldCounts opr (a :: rest) (foldOp opr a rest))))
      ∧ h = { g with v := h.v, lanes := h.lanes, pc := g.pc + 8 }
      ∧ WritesV g h ls (regNum x.d) (fun j => BitVec.ofNat 32 (r j).1)
      ∧ ∀ j, AMap.find j h.lanes = (AMap.find j g.lanes).map (fun l => if j ∈ ls then
          { l with lstat := if ∃ k ∈ ls, within j k ∧ g.shares j k = false then l.lstat ||| statFILT else l.lstat,
                   heldF := if l.help = false ∧ g.strict = true then l.heldF ||| ((r j).2 &&& g.fpxmask) else l.heldF }
          else l)

/-- A word that asks the voters (R195–R197): each lane that takes part gets what `put` makes of the voters that share
with it, and FILT where a voter does not. -/
def Asks (g h : Group) (gd : Nat) (put : Nat → List Nat → Nat → BitVec 32) (d : Nat) : Prop :=
  h = { g with v := h.v, lanes := h.lanes, pc := g.pc + 8 }
  ∧ (∀ j r, r < 256 → h.vreg j r = if j ∈ g.parts gd ∧ d ≤ r ∧ r < d + 3
      then put j ((g.voters gd).filter (g.shares j)) (r - d) else g.vreg j r)
  ∧ SetsStat g h (g.parts gd) (fun j => if ∃ k ∈ g.voters gd, g.shares j k = false then statFILT else 0#32)

/-! ## Events -/

/-- Group `gid` stands at `g` in block `b`, which is not in the save area. -/
def Stands (s : State) (gid : Nat) (g : Group) (b : Block) : Prop :=
  AMap.find gid s.groups = some g ∧ s.blockOf g = some b ∧ b.mode ≠ .saved

/-- An operation of a standing group. -/
def StandsOp (s : State) (gid : Nat) (g : Group) (b : Block) (o : Op) : Prop :=
  Stands s gid g b ∧ g.findOp o.id = some o

/-- The event changes one group alone, which stands at `h` then and, when it is in the pending set, counts as ready from
now on (R218). -/
def Wakes (i : Instr) (s : State) (gid : Nat) (g : Group) (b : Block) (h : Group) : Prop :=
  exec i s = .next (s.setGroup gid { h with since := if g.inActive then h.since else (s.core b.core).clk })

/-- The event puts results `u` in place, marks the answered lanes among `ls` done, and closes the operation when that
was the last; what waited behind it starts. -/
def Lands (i : Instr) (s : State) (gid op : Nat) (ls : List Nat) (u : State) : Prop :=
  exec i s = .next (((u.adjGroup gid (fun g => g.adjOp op (fun o => o.finish ls))).closeOp gid op).startReady gid)

/-- Lane j takes the n words of its request's value from register d on; every other register keeps its value. -/
def TakesWords (g h : Group) (rs : List LaneReq) (n d : Nat) (val : LaneReq → Nat) : Prop :=
  h = { g with v := h.v }
  ∧ (∀ r ∈ rs, ∀ i, i < n → (h.vreg r.lane (d + i)).toNat = val r / 2 ^ (32 * i) % 2 ^ 32)
  ∧ (∀ j r, r < 256 → ((∀ q ∈ rs, q.lane ≠ j) ∨ r < d ∨ d + n ≤ r) → h.vreg j r = g.vreg j r)

/-- The function of partition p takes an access of the host (R369, R385). -/
def Open (s : State) (p : Nat) : Prop :=
  s.fwstat.toNat % 256 = 5 ∧ p < 8 ∧ (s.part p).valid = true ∧ (s.part p).tdiRun = true

/-- Partition p alone changes. -/
def SetsPart (i : Instr) (s : State) (p : Nat) (q : Partition) : Prop := exec i s = .next (s.setPart p q)

/-- A write of PCMD starts a command (R372): the code is read back, PSTAT is busy, and `r` and `v` are the code and
value that already stand against it; 0 stands against none, and then partition p goes on as `q`. -/
def Starts (i : Instr) (s : State) (p code r v : Nat) (q : Partition) : Prop :=
  SetsPart i s p { (if r = 0 then q else s.part p) with
    pcmd := BitVec.ofNat 64 code, pstat := 1#64,
    cmd := some { code := code, result := r, value := v, args := (s.part p).parg } }

/-- What consecutive slots of one partition on a link carry, given in each which of bulk, express and courier have a flit
ready (R302). -/
def slotRun : List (Nat × Bool × Bool) → List (Bool × Bool × Bool) → List (Option Cls)
  | _, [] => []
  | h, (bulk, express, courier) :: rest =>
    let c := slotClass h bulk express courier
    c :: slotRun (((c.getD 3, bulk || express, bulk) :: h).take 15) rest

/-! ## Memory at its home slice (R309, R341, Table 6.4) -/

/-- A byte of a partition's IA that a home slice holds. -/
def State.cachedByte (s : State) (part ia : Nat) : Option Nat :=
  (AMap.find (l1Key part ia) s.l2).bind (fun b =>
    if bitAt b.valid (ia % 16) then some (b.data / 256 ^ (ia % 16) % 256) else none)

/-- n bytes from an IA on as a home slice holds them, the first the least significant. -/
def State.cached (s : State) (part ia n : Nat) : Nat :=
  (List.range n).foldl (fun x i => x + (s.cachedByte part (ia + i)).getD 0 * 256 ^ i) 0

/-- The home slice holds every one of n bytes at an IA and a PA; no sector of theirs is poisoned, and every block's data are 16
bytes. -/
def State.Holds (s : State) (part ia pa n : Nat) : Prop :=
  (∀ a, ia ≤ a → a < ia + n → (s.l2At part a (pa + (a - ia))).isSome = true ∧ (s.cachedByte part a).isSome = true)
  ∧ (∀ k, pa / 32 ≤ k → k ≤ (pa + n - 1) / 32 → Sparse.get false s.poison k = false)
  ∧ ∀ e ∈ s.l2, e.2.data < 2 ^ 128
    ∧ (l1Key part ia / 2 ≤ e.1 / 2 → e.1 / 2 ≤ l1Key part (ia + n - 1) / 2 → e.2.poison = false)

/-- t holds `val i` at byte i of n bytes at an IA; every other cached byte, and memory behind the slices, is as in s. -/
def State.PutsBytes (s t : State) (part ia n : Nat) (val : Nat → Nat) : Prop :=
  (∀ i, i < n → t.cachedByte part (ia + i) = some (val i))
  ∧ (∀ p a, a < 2 ^ 56 → (p ≠ part ∨ a < ia ∨ ia + n ≤ a) → t.cachedByte p a = s.cachedByte p a) ∧ t.mem = s.mem

/-- The new value of a w-bit word m under an operand x, and c for CAS (Table 6.4); a pair's halves are updates of their own. -/
def atomResult {w : Nat} (op : AOp) (m x c : BitVec w) : BitVec w :=
  match op with
  | .add => m + x
  | .min => if m.toInt ≤ x.toInt then m else x
  | .max => if m.toInt ≤ x.toInt then x else m
  | .minn => if m.toNat ≤ x.toNat then m else x
  | .maxn => if m.toNat ≤ x.toNat then x else m
  | .and => m &&& x
  | .or => m ||| x
  | .xor => m ^^^ x
  | .xchg => x
  | .cas => if m = c then x else m
  | .fadd32 => BitVec.ofNat w (Fmt.fp32.round .rn false false (FVal.sum .rn [Fmt.fp32.value m.toNat, Fmt.fp32.value x.toNat]).1).1
  | .incw => if x.toNat ≤ m.toNat then 0 else m + 1
  | .bf16x2add | .fp16x2add => m

/-! ## The rest of the machine -/

/-- Nothing outside the groups differs. -/
def SameOutside (s t : State) : Prop := t = { s with groups := t.groups }

/-- Every byte of stack memory reads alike. -/
def SameMemory (s t : State) : Prop := ∀ a, t.byte a = s.byte a

/-- Every group but `gid` is as it was. -/
def OthersKeep (s t : State) (gid : Nat) : Prop := ∀ k, k ≠ gid → AMap.find k t.groups = AMap.find k s.groups

end Machine

end Sys2Proof
end

