-- ==== Sys2Proof/Certificates/Slice0/Obligations.lean ====
section
/-! DEFINITION. The statements: what the rules of the spec say an instruction, an event or the machine does. -/

open Sys2Proof Sys2Proof.Machine

/-! ## Decoding, stepping and encoding (ch. 02) -/

/-- R32, R215, R216: with no move pending, the step is a clock of the core whose turn it is: the chosen group's word,
as the fetch gives it, decodes to an instruction, and the step is exec of it with that group issuing; afterwards the
seal and the pipes are seen to, the core's clock counts on, and L1 gives up the lines for which the core store has no
room. The same of a pair word that passes its checks: both halves run with the operands latched, then the PC moves
(R51). R55, Table 2.12, R170: in the chosen group's turn, a word that fails check 1 or 2, a pair word that fails a
check of 9 to 15 (their reasons: IllegalWords) or passes the allocation (check 16), and an offset past .text take
their trap and do nothing else. R215: the group chosen is active, waits for nothing and can have its next word taken
by the units it needs. A pending event is exec of it, whoever pends it, and then L1 gives up what no longer fits
(R208): that changes nothing but which lines an L1 holds. A word that the instruction cache holds is not asked for
again. -/
def Obligations.StepRunsDecodedWord : Prop :=
  (∀ (s : State) (gid w : Nat) (g : Group) (b : Block) (i : Instr),
  let k := s.turn
  let r := (s.prepare k).passCounts k (some gid)
  s.agenda = [] → (s.core k).gated = false → (s.prepare k).chosen k = some gid →
  AMap.find gid r.groups = some g → r.blockOf g = some b → g.pc < b.node.textSize → r.cachedWord g b = some w →
  decodeBytes (leBytes 8 w) = some (.full i) → w < 2 ^ 64 →
  step s = thenDo (exec i { r with cur := some gid }) (fun t =>
    .next (({ (t.sealAfter gid g w).issued k gid g w with cur := none }.tickCore k).fitL1s)))
  ∧ (∀ (s : State) (gid w : Nat) (g : Group) (b : Block) (h0 h1 : Instr),
  let k := s.turn
  let r := (s.prepare k).passCounts k (some gid)
  s.agenda = [] → (s.core k).gated = false → (s.prepare k).chosen k = some gid →
  AMap.find gid r.groups = some g → r.blockOf g = some b → g.pc < b.node.textSize → r.cachedWord g b = some w →
  decodeBytes (leBytes 8 w) = some (.pair (some h0) (some h1)) → w < 2 ^ 64 →
  pairCheck w = none → pairFits g.alloc w = true →
  step s = thenDo (runPair gid g h0 h1 { r with cur := some gid }) (fun t =>
    .next (({ (t.sealAfter gid g w).issued k gid g w with cur := none }.tickCore k).fitL1s)))
  ∧ (∀ (s : State) (gid w : Nat) (g : Group) (b : Block),
  let k := s.turn
  let r := (s.prepare k).passCounts k (some gid)
  s.agenda = [] → (s.core k).gated = false → (s.prepare k).chosen k = some gid →
  AMap.find gid r.groups = some g → r.blockOf g = some b →
  (b.node.textSize ≤ g.pc → step s = .next (((r.enterTrap gid g 0x08 0x35 g.pc).tickCore k).fitL1s))
  ∧ (g.pc < b.node.textSize → r.cachedWord g b = some w →
    let traps := fun (kind info : Nat) =>
      step s = .next (({ ((({ r with cur := some gid } : State).enterTrap gid g kind info g.pc).sealAfter gid g w).issued k gid g w
        with cur := none }.tickCore k).fitL1s)
    (∀ reason, decodeBody w = .bad reason → traps 0x01 reason)
    ∧ (bitAt w 62 = true → ∀ kind info, pairCheck w = some (kind, info) → traps kind info)
    ∧ (bitAt w 62 = true → pairCheck w = none → pairFits g.alloc w = false → traps 0x09 0x21)))
  ∧ (∀ (s : State) (k gid : Nat), s.chosen k = some gid →
  ∃ (g : Group) (b : Block), (gid, g) ∈ s.groups ∧ s.blockOf g = some b ∧ g.inActive = true ∧ s.waits g = false
    ∧ (g.pc < b.node.textSize → ∃ w, s.cachedWord g b = some w ∧ s.accepts k g w = true))
  ∧ ((∀ (s : State) (i : Instr) (rest : List Pending), s.agenda = .event i :: rest →
    step s = thenDo (exec i { s with agenda := rest }) (fun t => .next t.fitL1s))
  ∧ (∀ (s : State) (k : Nat), ∃ c, s.fitL1s = { s with cores := c, freeTick := s.fitL1s.freeTick }
      ∧ (s.fitL1s.core k = { s.core k with l1 := (s.fitL1s.core k).l1 })
      ∧ ∀ e ∈ (s.fitL1s.core k).l1, e ∈ (s.core k).l1)
  ∧ (∀ (s : State) (gid w : Nat) (g : Group) (b : Block), s.cachedWord g b = some w → s.fetch gid g b = s)
  ∧ ∀ (s : State) (i : Instr), i.form ≠ .event → s.cur = none → exec i s = .fault .noGroup)

/-- R32, R35–R50, Table 2.9, Table 2.11: words written out from the encodings. -/
def Obligations.DecodeWords : Prop :=  decodeTableWord 64 0x0070000000000000 = some (.nop { g := 7#4, d := .v 0#8, a := .v 0#8, b := .v 0#8, c := .v 0#8, md := 0#8 })
  ∧ decodeTableWord 64 0x1020A01011030301
      = some (.vfma { g := 2#4, d := .v 20#8, a := .v 4#8, b := .v 8#8, c := .s 3#6, md := 1#8 })
  ∧ decodeTableWord 64 0x1C7044080A980040
      = some (.vld { g := 7#4, d := .v 8#8, a := .s 2#6, b := .v 5#8, sz := 2#3, cl := 1#2, sc := 4#3, off := 64#13 })
  ∧ decodeTableWord 64 0x400800F00C0110E0 = some (.vaddHalf { d := .v 16#7, s := .v 1#7, g3 := 7#3, m5 := 0#5 })

/-- R32–R55: the decoder reads back what the encoder writes, for every well-formed full-form word, its seal bit among
it; and for every pair of well-formed halves. R48, R49: the same for a pair word. -/
def Obligations.EncodeDecode : Prop :=
  (∀ (sealed : Bool) (i : Instr), i.wf = true → i.form = .full →
  decodeBytes (leBytes 8 (wordOf sealed i)) = some (.full i) ∧ sealBit (wordOf sealed i) = sealed
  ∧ wordOf sealed i < 2 ^ 64)
  ∧ (∀ (sealed : Bool) (h0 h1 : Instr), h0.wf = true → h1.wf = true →
  h0.form = .half → h1.form = .half →
  decodeBytes (leBytes 8 (pairWord sealed h0 h1)) = some (.pair (some h0) (some h1))
  ∧ sealBit (pairWord sealed h0 h1) = sealed ∧ pairWord sealed h0 h1 < 2 ^ 64)

/-- R53–R55 (Table 2.12, checks 1 and 2): a full-form word with an unassigned MAJ is refused with reason 0x01, and one
with an unassigned function code of its MAJ with reason 0x02; every other decodes. R42–R47, R53, R55 (Table 2.12,
checks 3 to 8), read off the bits of a full-form word that decodes: G = 15 gives reason 0x03; an instruction of a
uniform class whose guard is not 7, 0x04; a reserved operand code in a field of its format, 0x05; a code of the wrong
kind, 0x06; a modifier that its table does not admit, 0x07; an access field, 0x08; the first that fails counts. Each
row is a group of mnemonics of one MAJ, its four operand fields and its modifier rule. R48–R51, R54, R55 (Table 2.12,
checks 9 to 15), read off the bits of a pair word. A half of its own: an unassigned OP7, or a NOP half with a bit set,
is reason 0x09; a wrong operand 0x0A; a wrong modifier 0x0B; with bit 8 set for H1; kind 0x01, and H0 before H1. Of
the two together, kind 0x02: one destination named twice 0x11, two vector destinations in one bank 0x12, two vector
sources in one bank 0x13, a scalar half's guard 0x14. Table 2.12, R178: a word, or a half, that fails a check of its
own bits takes the illegal-instruction trap with the first failing check's reason, and has no other effect. R47, Table
2.12 check 16: a word whose registers pass the allocation takes the register-out-of-allocation trap with reason 0x21:
here of each shape of operands. -/
def Obligations.IllegalWords : Prop :=
  (∀ w : Nat, bitAt w 62 = false →
  let maj := bits w 61 56
  let fr := bits w 15 8
  let fi := bits w 33 26
  let fb := bits w 36 32
  let fm := bits w 16 13
  let counts : List (Nat × Nat × Nat) :=
    [(0x00, fr, 11), (0x01, fr, 22), (0x02, fi, 10), (0x03, fr, 7), (0x04, fb, 9), (0x05, fm, 3), (0x08, fr, 34), (0x09, fi, 9),
     (0x0A, fr, 3), (0x10, fr, 22), (0x11, fr, 8), (0x12, fr, 5), (0x18, fr, 12), (0x1C, fm, 7), (0x20, fm, 14),
     (0x21, fm, 14), (0x24, fr, 6), (0x28, fr, 8), (0x2C, fr, 9), (0x2D, 0, 1)]
  (maj ∉ counts.map Prod.fst → decodeBody w = .bad 0x01)
  ∧ ∀ e ∈ counts, maj = e.1 → (e.2.2 ≤ e.2.1 → decodeBody w = .bad 0x02) ∧ (e.2.1 < e.2.2 → ∃ i, decodeBody w = .full i))
  ∧ (∀ (w : Nat) (i : Instr), bitAt w 62 = false → decodeBody w = .full i →
  let maj := bits w 61 56
  let g := bits w 55 52
  let f := fun n => bits w (51 - 9 * n) (43 - 9 * n)
  let reserved := fun (c : Nat) => decide (0x148 ≤ c ∧ c < 0x160 ∨ 0x16E ≤ c ∧ c < 0x180)
  let first := fun (uniform : Bool) (fields : List Nat) (kinds rest : Bool) (last : Nat) =>
    if g = 15 then some 3 else if uniform && g != 7 then some 4 else if fields.any reserved then some 5
    else if !kinds then some 6 else if !rest then some last else none
  let no := fun (c : Nat) => c == 0
  let v := fun (c : Nat) => decide (c < 0x100)
  let ve := fun (c : Nat) => decide (c < 0x100 ∧ c % 2 = 0)
  let st := fun (top c : Nat) => decide (0x100 ≤ c ∧ c ≤ 0x100 + top)
  let s := st 63
  let q := fun (c : Nat) => decide (0x140 ≤ c ∧ c < 0x148)
  let qw := fun (c : Nat) => decide (0x140 ≤ c ∧ c < 0x147)
  let inl := fun (top c : Nat) => decide (0x180 ≤ c ∧ c ≤ 0x180 + top)
  let u := fun (c : Nat) => s c || decide (0x180 ≤ c) || [0x162, 0x163, 0x164, 0x165, 0x169, 0x16B, 0x16C, 0x16D].contains c
  let x := fun (c : Nat) => !q c
  let wide := fun (c : Nat) => x c && (!v c || ve c)
  let base := fun (c : Nat) => s c || c == 0x16B
  let vbase := fun (c : Nat) => base c || ve c
  let upTo := fun (n m : Nat) => decide (m ≤ n)
  let z := upTo 0
  let w02 := fun (m : Nat) => m == 0 || m == 2
  let among := fun (mask m : Nat) => m &&& mask == m
  let rows : List (Nat × List Nat × Bool × (Nat → Bool) × (Nat → Bool) × (Nat → Bool) × (Nat → Bool) × (Nat → Bool)) :=
    [(0x00, [0, 1, 2, 4], true, no, no, no, no, z), (0x00, [3, 7, 8], true, no, u, no, no, z), (0x00, [5], true, s, inl 13, no, no, z),
     (0x00, [6], true, no, (fun c => c == 0x182 || c == 0x18C), u, no, z), (0x00, [9], false, no, inl 7, v, no, z),
     (0x00, [10], true, no, inl 5, (fun c => s c || inl 63 c), no, z),
     (0x01, [0, 1, 2, 6, 7, 8, 9, 10, 11, 12, 13], true, s, u, u, no, z), (0x01, [3, 4, 5, 14, 15, 20], true, s, u, u, no, upTo 1),
     (0x01, [16, 17], true, s, u, no, no, z), (0x01, [18, 21], true, s, u, u, u, z),
     (0x01, [19], true, s, u, u, no, fun m => among 0x1D m && decide (bits m 4 2 ≤ 5)),
     (0x03, [0], true, st 56, no, no, no, z), (0x03, [1], true, no, st 56, no, no, z), (0x03, [2, 3, 4], true, no, q, no, no, z),
     (0x03, [5, 6], true, s, q, no, no, z),
     (0x08, [0, 1, 2, 18, 19, 20, 21], false, v, x, x, no, w02), (0x08, [3, 7, 8, 11, 12, 30, 31], false, v, x, x, no, upTo 3),
     (0x08, [4], false, v, x, x, x, w02), (0x08, [5, 6], false, v, x, x, qw, (· == 1)), (0x08, [9, 10, 22, 23, 24], false, v, x, no, no, w02),
     (0x08, [13, 14, 15, 16], false, v, x, x, no, z), (0x08, [17, 29], false, v, x, no, no, z), (0x08, [25], false, v, x, x, no, upTo 1),
     (0x08, [26], false, v, x, x, x, z), (0x08, [27], false, v, x, x, q, z),
     (0x08, [28], false, qw, x, x, no, fun m => decide (m < 24 ∧ m % 4 ≤ 1)),
     (0x08, [32], false, v, x, x, x, upTo 15), (0x08, [33], false, v, x, x, x, upTo 7),
     (0x0A, [0], false, ve, wide, if bits w 1 0 = 2 then wide else x, no, fun m => decide (m < 20 ∧ m % 4 ≤ 1)),
     (0x0A, [1, 2], false, ve, wide, if bits w 1 0 = 2 then wide else x, no, upTo 2),
     (0x10, [0, 1, 2, 12], false, v, x, x, no, upTo 15), (0x10, [3, 4, 5], false, v, x, x, x, upTo 15),
     (0x10, [6, 7], false, v, x, x, no, among 0x14), (0x10, [8, 9, 11], false, v, x, no, no, z),
     (0x10, [10], false, qw, x, x, no, among 0x74), (0x10, [13], false, v, x, no, no, upTo 15),
     (0x10, [14, 15, 16, 17, 18, 19, 20], false, v, x, no, no, among 4), (0x10, [21], false, v, x, no, no, upTo 7),
     (0x11, [0, 1, 2], false, v, x, x, no, upTo 31), (0x11, [3, 6], false, v, x, x, x, upTo 31), (0x11, [4, 5], false, v, x, x, no, among 0x34),
     (0x11, [7], false, v, x, x, no, among 0xF4),
     (0x12, [0], false, v, x, no, no, fun m => decide (bits m 4 0 ≤ 0x13)
        && (bits m 7 6 == 0 || !([2, 3, 14, 15, 18, 19].contains (bits m 4 0))) && (bits m 5 5 == 0 || [0, 1, 8, 9, 16, 17].contains (bits m 4 0))),
     (0x12, [1], false, v, x, x, no, upTo 31), (0x12, [2], false, v, x, no, no, among 0x34),
     (0x12, [3], false, v, x, x, x, fun m => decide (bits m 7 4 ≤ 9 ∧ (4 < bits m 7 4 → bits m 3 3 = 0))),
     (0x12, [4], false, v, x, x, no, fun m => among 0xF4 m && decide (bits m 7 4 ≤ 9)),
     (0x18, [0, 1, 2, 3], false, v, x, x, x, upTo 4),
     (0x18, [4], false, (fun c => v c || st 60 c), x, u, (fun c => if s (f 0) then no c else x c), z),
     (0x18, [5, 6], false, v, x, u, x, z), (0x18, [7], false, v, x, no, x, fun m => decide (bits m 2 0 ≤ 4 ∧ bits m 6 3 ≤ 10)),
     (0x18, [8], false, v, x, no, no, fun m => decide (bits m 2 0 ≤ 4 ∧ m / 8 ≤ 10)),
     (0x18, [9], false, st 60, x, no, no, fun m => decide (m % 8 = 0 ∧ m / 8 ≤ 10)),
     (0x18, [10], false, (fun c => (bits w 6 3 ≠ 1 ∧ bits w 6 3 ≠ 2) && (v c || st 58 c) || bits w 6 3 ≠ 0 && qw c), q, no, no,
        fun m => [0, 8, 16].contains m),
     (0x18, [11], false, v, x, no, no, z),
     (0x24, [0], true, st 60, u, u, u, upTo 2), (0x24, [1], true, st 60, u, u, st 58, upTo 2), (0x24, [2], true, st 60, u, no, no, z),
     (0x24, [3], true, no, u, no, no, z), (0x24, [4], false, v, (if bitAt w 2 then no else u), x, no, fun m => decide (m < 8 ∧ m % 4 ≤ 2)),
     (0x24, [5], true, st 60, u, u, no, upTo 2),
     (0x28, [0], true, no, no, no, no, fun m => decide (m / 16 ≤ 5 ∧ m % 16 ≠ 0)), (0x28, [1], true, no, no, no, no, (· == 0x40)),
     (0x28, [2, 4], true, no, u, u, no, z), (0x28, [3], true, st 60, u, no, no, z), (0x28, [5], true, no, u, no, no, z),
     (0x28, [6, 7], true, no, no, no, no, z),
     (0x2C, [0], true, st 60, no, no, no, z), (0x2C, [1, 3], true, no, no, no, no, z), (0x2C, [2], true, no, no, no, no, upTo 1),
     (0x2C, [4, 5], true, no, u, u, no, z), (0x2C, [6], true, no, u, u, no, upTo 1),
     (0x2C, [7], true, (if bitAt w 4 then v else no), base, u, u, fun m => decide (m < 64)
        && !(bitAt m 4 && bitAt m 2) && !(bitAt m 5 && (bitAt m 2 || m % 4 == 0))),
     (0x2C, [8], true, v, base, u, s, upTo 2)]
  let irows : List (Nat × List Nat × Bool × (Nat → Bool) × (Nat → Bool) × (Nat → Nat → Bool)) :=
    [(0x02, [0, 1, 2, 3], true, s, u, fun m _ => upTo 2 m), (0x02, [4, 5, 6], true, s, u, fun m i => m == 0 && decide (i < 64)),
     (0x02, [7], true, s, u, fun m i => decide (m ≤ 1 ∧ bits i 23 21 ≤ 5)), (0x02, [8], true, s, no, fun m _ => upTo 2 m),
     (0x02, [9], true, s, u, fun m i => m == 0 && decide (i < 2 ^ 16)),
     (0x09, [0, 1, 2, 3], false, v, x, fun m _ => upTo 2 m),
     (0x09, [4, 5, 6], false, v, x, fun m i => m == 0 && decide (i < 32) || m == 2 && decide (i < 16)),
     (0x09, [7], false, qw, x, fun m i => decide (m ≤ 1 ∧ bits i 23 21 ≤ 5)), (0x09, [8], false, v, no, fun m _ => upTo 2 m)]
  let mrows : List (Nat × List Nat × Bool × (Nat → Bool) × (Nat → Bool) × (Nat → Bool) × (Nat × Nat × Nat × Nat)) :=
    [(0x05, [0, 1], true, s, base, u, (0, 3, 2, 5)), (0x05, [2], true, s, base, u, (0, 3, 0, 0)),
     (0x1C, [0, 1], false, v, vbase, x, (0, 4, 2, 5)), (0x1C, [2, 3], false, v, x, x, (0, 4, 0, 0)),
     (0x1C, [4, 5], false, v, x, x, (2, 4, 0, 0)), (0x1C, [6], false, no, vbase, x, (0, 4, 2, 0))]
  let sz := bits w 24 22
  let cl := bits w 21 20
  let sc := bits w 19 17
  (∀ r ∈ rows, maj = r.1 → bits w 15 8 ∈ r.2.1 → i.check = first r.2.2.1 [f 0, f 1, f 2, f 3]
    (r.2.2.2.1 (f 0) && r.2.2.2.2.1 (f 1) && r.2.2.2.2.2.1 (f 2) && r.2.2.2.2.2.2.1 (f 3)) (r.2.2.2.2.2.2.2 (bits w 7 0)) 7)
  ∧ (∀ r ∈ irows, maj = r.1 → bits w 33 26 ∈ r.2.1 → i.check = first r.2.2.1 [f 0, f 1]
    (r.2.2.2.1 (f 0) && r.2.2.2.2.1 (f 1)) (r.2.2.2.2.2 (bits w 25 24) (bits w 23 0)) 7)
  ∧ (∀ r ∈ mrows, maj = r.1 → bits w 16 13 ∈ r.2.1 → let a := r.2.2.2.2.2.2
    i.check = first r.2.2.1 [f 0, f 1, f 2] (r.2.2.2.1 (f 0) && r.2.2.2.2.1 (f 1) && r.2.2.2.2.2.1 (f 2))
      (decide (a.1 ≤ sz ∧ sz ≤ a.2.1 ∧ cl ≤ a.2.2.1 ∧ sc ≤ a.2.2.2)) 8)
  ∧ (let op := bits w 16 13
    let access := decide ((sz = 2 ∨ sz = 3 ∧ op ∉ [10, 11, 12]) ∧ cl ≤ 2 ∧ sc ≤ 5 ∧ (bits w 12 11 = 0 ↔ sc = 0))
    (maj = 0x20 → i.check = first false [f 0, f 1, f 2] ((if sz = 3 then ve (f 0) else v (f 0)) && vbase (f 1) && x (f 2)) access 8)
    ∧ (maj = 0x21 → i.check = first true [f 0, f 1, f 2]
      (st (64 - ((if op = 9 then 2 else 1) + (if bitAt w 10 then 1 else 0))) (f 0) && base (f 1) && u (f 2)) access 8))
  ∧ (maj = 0x2D → i.check = first true [f 0, f 1, f 2, f 3, bits w 15 7] ((v (f 0) || s (f 0)) && v (f 1) && v (f 2) && v (f 3) && v (bits w 15 7))
      (bits w 6 4 == 0) 7)
  ∧ (maj = 0x04 → let fn := bits w 36 32
    let used := fun (l : List Nat) (n : Nat) => decide (fn ∈ l) || n == 0
    i.check = first true [] (decide (fn = 3 → bits w 51 46 ≤ 60)) (used [1, 2, 3, 4, 5] (bits w 51 46) && used [1, 2] (bits w 45 40)
      && used [1, 2, 6, 7, 8] (bits w 39 37) && used [0, 1, 2, 3, 6, 7, 8] (bits w 31 0)) 7))
  ∧ (∀ w : Nat,
  let b := fun (n : Nat) => if n = 0 then bits w 61 31 else bits w 30 0
  let op := fun n => bits (b n) 30 24
  let d := fun n => bits (b n) 23 16
  let src := fun n => bits (b n) 15 8
  let m := fun n => bits (b n) 4 0
  let vector := fun n => decide (op n ≤ 0x19)
  let nop := fun n => decide (op n = 0x7F)
  let scalarCode := fun (c : Nat) => decide (0x80 ≤ c ∧ c < 0xC0)
  let lane := fun (c : Nat) => decide (c < 0x80) || [0xE0, 0xE1, 0xE6, 0xE7, 0xE8, 0xEA].contains c
  let wrong := fun n => if vector n then decide (0x80 ≤ d n ∨ 0xEE ≤ src n)
    else !scalarCode (d n) || decide (op n < 0x26) && (lane (src n) || decide (0xEE ≤ src n))
  let admits := fun n => decide (if op n ∈ [0, 1, 2, 7, 8, 9, 13, 15] then m n = 0 ∨ m n = 2 else if op n ∈ [10, 11] then m n ≤ 3
    else if op n ∈ [16, 17, 18] then m n ≤ 15 else if op n ∈ [19, 20] then m n ∈ [0, 4, 16, 20] else if op n ∈ [23, 24] then True
    else if op n = 25 then m n ≤ 0x13 else if op n ∈ [35, 36] then m n ≤ 1 else if op n ∈ [0x26, 0x27] then m n ≤ 2 else m n = 0)
  let own := fun n => if nop n then (if bits (b n) 23 0 = 0 then 0 else 9) else if 0x28 ≤ op n then 9
    else if wrong n then 0x0A else if !admits n then 0x0B else 0
  pairCheck w = if own 0 ≠ 0 then some (0x01, own 0) else if own 1 ≠ 0 then some (0x01, own 1 + 256)
    else if !nop 0 && !nop 1 && d 0 == d 1 then some (0x02, 0x11)
    else if vector 0 && vector 1 && d 0 % 4 == d 1 % 4 then some (0x02, 0x12)
    else if vector 0 && vector 1 && decide (src 0 < 0x80 ∧ src 1 < 0x80) && src 0 % 4 == src 1 % 4 then some (0x02, 0x13)
    else if !nop 0 && !vector 0 && bits (b 0) 7 5 != 7 then some (0x02, 0x14)
    else if !nop 1 && !vector 1 && bits (b 1) 7 5 != 7 then some (0x02, 0x114)
    else none)
  ∧ (∀ (i : Instr) (s : State) (gid r : Nat) (g : Group), i.form ≠ .event →
  Issues s gid g → i.check = some r →
  exec i s = .next (s.enterTrap gid g 0x01 (r + (if 9 ≤ r then g.halfBit else 0)) g.pc))
  ∧ (∀ (x : FR) (y : FI) (z : FM) (s : State) (gid : Nat) (g : Group),
  ∀ p ∈ [(Instr.vadd x, x.spans 1 1 1), (.vdot4 x, x.spans 1 1 1), (.vcmp x, x.spans 1 1 1), (.vfma x, x.spans 1 1 1),
         (.vhdot x, x.spans 1 1 1), (.vpk8 x, x.spans 1 1 1), (.vshuf x, x.spans 1 1 1), (.vote x, x.spans 3 1 1),
         (.vmatch x, x.spans 3 1 1), (.vlea x, vadrSpans x), (.vaddw x, vadrSpans x), (.vsubw x, vadrSpans x),
         (.xputSend x, x.spans (xputRegs x) 1 1), (.xputRead x, x.spans (xputRegs x) 1 1), (.ldsc x, x.spans 1 1 1),
         (.vaddi y, fiSpans y), (.vcmpi y, fiSpans y), (.vmovi y, fiSpans y),
         (.vld z, z.spans (szRegs z.sz.toNat) 2), (.vst z, z.spans (szRegs z.sz.toNat) 2),
         (.vlds z, z.spans (szRegs z.sz.toNat) 1), (.vldw z, z.spans (szRegs z.sz.toNat) 1), (.vpref z, z.spans 1 2)],
    Issues s gid g → p.1.wf = true → (∃ e ∈ p.2, 16 * g.alloc < e.1 + e.2) →
    exec p.1 s = .next (s.enterTrap gid g 0x09 0x21 g.pc))

/-! ## The machine as a whole -/

/-- What reset leaves (R385 and the reset columns): no group, block or partition; nothing cached; the firmware
waiting; POWLIM 5,200 W, FTMO 20 µs, every XARM bit set, ordinary tenure, %cyc 0; stack memory canonical; and nothing
pending. (Where the spec gives no reset value the value is the model's choice, logs 5 and 6; that every byte of memory
reads 0 is the choice of log 2, a DESIGN CHOICE and unsafe.) -/
def Obligations.ResetState : Prop :=  State.reset.mem.wf = true ∧ State.reset.groups = [] ∧ State.reset.blocks = [] ∧ State.reset.cohorts = []
  ∧ State.reset.reqs = [] ∧ State.reset.agenda = [] ∧ State.reset.cur = none ∧ State.reset.l2 = [] ∧ State.reset.tlb = []
  ∧ (∀ p, (State.reset.part p).valid = false) ∧ (∀ a, State.reset.byte a = 0#8)
  ∧ (∀ k, (State.reset.core k).clk = 0 ∧ (State.reset.core k).l1 = [] ∧ (State.reset.core k).holder = none
      ∧ (State.reset.core k).cyc = 0#64 ∧ (State.reset.core k).fenced = false ∧ (State.reset.cluster k).tenure = none)
  ∧ State.reset.fwstat = 0#64 ∧ State.reset.powlim = 5200#64 ∧ State.reset.ftmo = 200#64
  ∧ (∀ p, (State.reset.part p).xarm = List.replicate 16 (BitVec.allOnes 64) ∧ (State.reset.part p).ppm = 0#8)

/-- Stack memory keeps its canonical form, the model's own (log 2), in every step. -/
def Obligations.MemoryStaysCanonical : Prop := ∀ (s t : State), s.mem.wf = true → step s = .next t → t.mem.wf = true

/-- R137, R138, R322: no word and no half changes a byte of stack memory as it issues: what a store or an atomic
changes leaves in a commit or a request. And the frame between groups: it changes no register, predicate, scalar, lane
state, PC, mode or trap register of any other group. -/
def Obligations.WordsKeepTheRest : Prop := ∀ (i : Instr) (s t : State), i.form ≠ .event → exec i s = .next t →
  t.mem = s.mem
  ∧ ∀ gid k, s.cur = some gid → k ≠ gid → ∀ h, AMap.find k s.groups = some h → ∃ h', AMap.find k t.groups = some h'
    ∧ h' = { h with inActive := h'.inActive, slot := h'.slot, since := h'.since, passCount := h'.passCount,
                    promoted := h'.promoted }

/-- R137, R146, R147, R149, R309–R311, R316, R318, R322–R324, R330, R341, Table 6.4: what a request does when it is
performed at its home slice, which holds the bytes that it names, no sector of theirs poisoned: a write puts its
bytes, each line of them takes the next tag, and the last goes back; a read gives the bytes, and changes none; an
atomic gives the old value to each of its operands in turn and leaves what Table 6.4 makes of them; a pair atomic is
two updates, each half rounded on its own, with the old halves given back (which half is first is free). Nothing else
that a slice or memory holds changes. A word that the slice lacks is asked of its stack, and a word that it has been
given comes from memory as its key opens it; a word that leaves has its dirty bytes, and no others, written to memory.
The parts of one side of a copy's burst are at the addresses of its 16-byte words, all of them and no others; each
packet carries the bytes of some of them, and the bytes written are the ones read. -/
def Obligations.MemoryAtItsHome : Prop := ∀ (s : State),
  (∀ rid r pa keyid high, AMap.find rid s.reqs = some r → ofPeerMem pa = false → pa % 128 = r.ia % 128 →
    0 < r.ask.covers → r.ia + r.ask.covers ≤ 2 ^ 56 → r.ofDevice = false →
    let t := s.perform rid r pa keyid high
    let n := r.ask.covers
    let tag := Sparse.get 0#32 s.seqs ((pa + n - 1) / 128) + 1#32
    let answers := fun (a : Answer) => AMap.find rid t.reqs = some { r with hops := r.wayBack, st := .back a, since := s.netClock }
    let tagged := ∀ k, Sparse.get 0#32 t.seqs k = if pa / 128 ≤ k ∧ k ≤ (pa + n - 1) / 128
      then Sparse.get 0#32 s.seqs k + 1#32 else Sparse.get 0#32 s.seqs k
    let untagged := ∀ k, Sparse.get 0#32 t.seqs k = Sparse.get 0#32 s.seqs k
    (s.Holds r.part r.ia pa n →
      (∀ x c, r.ask = .write n x c → s.PutsBytes t r.part r.ia n (fun i => x / 256 ^ i % 256)
        ∧ answers (.values tag.toNat []) ∧ tagged)
      ∧ (r.ask = .read ∨ r.ask = .readBytes n → s.meetsPoison r pa = [] → (∀ p a, a < 2 ^ 56 → t.cachedByte p a = s.cachedByte p a) ∧ t.mem = s.mem
        ∧ answers (.line (s.cached r.part r.ia n)) ∧ untagged)
      ∧ (∀ op xs c, r.ask = .atomic op n xs c → r.ia % 128 + n ≤ 128 →
        (r.queued = true → r.atomicOf.bind (s.duplicate r) = none) →
        (pairFmt op = none → (op = .fadd32 → xs.length = 1) →
          let m := fun k => (xs.take k).foldl (fun (m : BitVec (8 * n)) e => atomResult op m (BitVec.ofNat _ e.1) (BitVec.ofNat _ e.2))
            (BitVec.ofNat _ (s.cached r.part r.ia n))
          s.PutsBytes t r.part r.ia n (fun i => (m xs.length).toNat / 256 ^ i % 256)
          ∧ answers (.values tag.toNat ((List.range xs.length).map (fun k => (m k).toNat))) ∧ tagged)
        ∧ (∀ f x y, pairFmt op = some f → n = 4 → xs = [(x, y)] →
          let half := fun (h : Nat) => s.cached r.part (r.ia + 2 * h) 2
          let new := fun (h : Nat) => (f.round .rn false false
            (FVal.sum .rn [f.value (half h), Fmt.fp32.value (x / 2 ^ (32 * h) % 2 ^ 32)]).1).1
          (r.st = .arrived →
            let h := if high then 1 else 0
            s.PutsBytes t r.part (r.ia + 2 * h) 2 (fun i => new h / 256 ^ i % 256) ∧ untagged
            ∧ AMap.find rid t.reqs = some { r with st := .half high (half h) pa keyid })
          ∧ (∀ done old, r.st = .half done old pa keyid →
            let h := if done then 0 else 1
            s.PutsBytes t r.part (r.ia + 2 * h) 2 (fun i => new h / 256 ^ i % 256) ∧ tagged
            ∧ answers (.values tag.toNat [if done then half 0 + 65536 * old else old + 65536 * half 1])))))
    ∧ (AMap.find (l1Key r.part r.ia) s.l2 = none → bitAt pa 51 = false → (r.ask = .read ∨ r.ask = .readBytes n) →
      (r.fed.contains (pa / 128) = false → (∀ e ∈ s.reqs, e.2.src ≠ .stack rid) →
        t.l2 = s.l2 ∧ t.mem = s.mem ∧ ∃ q, AMap.find s.nextId t.reqs = some q ∧ q.src = .stack rid ∧ q.ia = pa ∧ q.ask = .read)
      ∧ (r.fed.contains (pa / 128) = true → r.ask = .readBytes n → r.ia % 16 + n ≤ 16 →
        Sparse.get 0 s.keyTags (pa / 64) = 0 → Sparse.get false s.poison (pa / 32) = false →
        (∀ e ∈ s.l2, (e.1 / 2 = l1Key r.part r.ia / 2 → e.2.poison = false)
          ∧ (e.2.slice = r.home → e.1 / 8 % 512 ≠ r.ia / 128 % 512)) → (s.part r.part).ways ≠ 0 →
        let x := s.openWord pa keyid (bytesAt s.mem (pa / 16 * 16) 16)
        answers (.line (x / 2 ^ (8 * (pa % 16)) % 2 ^ (8 * n))) ∧ t.mem = s.mem
        ∧ ∀ i, i < 16 → t.cachedByte r.part (r.ia / 16 * 16 + i) = some (x / 256 ^ i % 256))))
  ∧ (∀ key b, AMap.find key s.l2 = some b → b.keyid = 0 → b.pa % 16 = 0 → b.dirty < 2 ^ 16 → Sparse.get 0 s.keyTags (b.pa / 64) = 0 →
      (∀ i, (s.cleanWord key).byte i = if b.pa ≤ i ∧ i < b.pa + 16 ∧ bitAt b.dirty (i - b.pa) = true
        then BitVec.ofNat 8 (b.data / 256 ^ (i - b.pa)) else s.byte i)
      ∧ (s.cleanWord key).l2 = AMap.del key s.l2)
  ∧ (∀ base w pitch i n, 0 < w → w % 16 = 0 →
      (∀ e ∈ sideParts base w pitch i n, ∀ x, x < e.2.2 → e.2.1 + x < 16 * n
        ∧ e.1 + x = copyAddr base w pitch (i + (e.2.1 + x) / 16) + (e.2.1 + x) % 16)
      ∧ (∀ y, y < 16 * n → ∃ e ∈ sideParts base w pitch i n, e.2.1 ≤ y ∧ y < e.2.1 + e.2.2))
  ∧ (∀ (u : Actor) l x t, State.gatherParts u l s = (.got x, t) → ∃ runs v,
      State.reachAll u false l s = (.inr runs, v) ∧ State.askAll u (packRuns runs) v = (some x, t))
  ∧ (∀ (u : Actor) w va off n rest l t, State.reachAll u w ((va, off, n) :: rest) s = (.inr l, t) → ∃ ia home v m,
      s.reach u va w = (.inr (ia, home), v) ∧ State.reachAll u w rest v = (.inr m, t)
      ∧ l = { off := off, len := n, ia := ia, home := home } :: m)
  ∧ (∀ (u : Actor) (e : Run) rest x t, State.askAll u (e :: rest) s = (some x, t) → ∃ r a y,
      s.unitRead u.gid u.op e.ia e.len = some r ∧ r.st = .unitData a ∧ State.askAll u rest s = (some y, t)
      ∧ x = mixBytes e.len r.laid.1 r.laid.2 a * 2 ^ (8 * e.off) + y)
  ∧ (let alike := fun (l m : List Run) => ∀ e ∈ l, ∀ i, i < e.len → ∃ f ∈ m, ∃ k, k < f.len ∧ f.home = e.home
        ∧ f.ia + k = e.ia + i ∧ f.off + k = e.off + i
      ∀ l : List Run, alike (packRuns l) l ∧ alike l (packRuns l))

/-! ## Scalar, branch and control words (ch. 07, 08) -/

/-- R163 (Table 7.2): every SALU mnemonic but SDIV and SREM writes its row's result of the 64-bit operands to D, and
nothing else changes but the PC, which moves on by 8. Table 2.11 and R50: a scalar half is its full form on D and S;
the word, not the half, moves the PC. R165 (Table 7.3): every SALUI mnemonic with its constant k. -/
def Obligations.ScalarResults : Prop :=
  (∀ x : FR,
  let u := x.md.getLsbD 0
  let rd := fun v : BitVec 64 => if u then (v.toNat : Int) else v.toInt
  ScalarResult (.sadd x) x (fun a b _ => a + b) ∧ ScalarResult (.ssub x) x (fun a b _ => a - b)
  ∧ ScalarResult (.smul x) x (fun a b _ => a * b)
  ∧ ScalarResult (.smulh x) x (fun a b _ => BitVec.ofInt 64 (rd a * rd b / 2 ^ 64))
  ∧ ScalarResult (.sand x) x (fun a b _ => a &&& b) ∧ ScalarResult (.sor x) x (fun a b _ => a ||| b)
  ∧ ScalarResult (.sxor x) x (fun a b _ => a ^^^ b) ∧ ScalarResult (.sandn x) x (fun a b _ => a &&& ~~~b)
  ∧ ScalarResult (.sshl x) x (fun a b _ => a <<< b.toNat) ∧ ScalarResult (.sshr x) x (fun a b _ => a >>> b.toNat)
  ∧ ScalarResult (.ssra x) x (fun a b _ => a.sshiftRight b.toNat)
  ∧ ScalarResult (.srot x) x (fun a b _ => a.rotateLeft (b.toNat % 64))
  ∧ ScalarResult (.smin x) x (fun a b _ => if rd a ≤ rd b then a else b)
  ∧ ScalarResult (.smax x) x (fun a b _ => if rd a ≤ rd b then b else a)
  ∧ ScalarResult (.sclz x) x (fun a _ _ => BitVec.ofNat 64 (if a = 0#64 then 64 else 63 - a.toNat.log2))
  ∧ ScalarResult (.spopc x) x (fun a _ _ => BitVec.ofNat 64 ((List.range 64).countP (fun i => a.getLsbD i)))
  ∧ ScalarResult (.ssel x) x (fun a b c => if c ≠ 0#64 then a else b)
  ∧ ScalarResult (.scmp x) x (fun a b _ => if Machine.cond ((x.md.extractLsb' 2 3).toNat) (rd a) (rd b) then 1#64 else 0#64))
  ∧ ((∀ x : Half,
    let rd := fun v : BitVec 64 => if x.m5.getLsbD 0 then (v.toNat : Int) else v.toInt
    ScalarHalf (.saddHalf x) x.bin (fun a b _ => a + b) ∧ ScalarHalf (.ssubHalf x) x.bin (fun a b _ => a - b)
    ∧ ScalarHalf (.smulHalf x) x.bin (fun a b _ => a * b) ∧ ScalarHalf (.sandHalf x) x.bin (fun a b _ => a &&& b)
    ∧ ScalarHalf (.sorHalf x) x.bin (fun a b _ => a ||| b) ∧ ScalarHalf (.sxorHalf x) x.bin (fun a b _ => a ^^^ b)
    ∧ ScalarHalf (.sshlHalf x) x.bin (fun a b _ => a <<< b.toNat)
    ∧ ScalarHalf (.sshrHalf x) x.bin (fun a b _ => a >>> b.toNat)
    ∧ ScalarHalf (.ssraHalf x) x.bin (fun a b _ => a.sshiftRight b.toNat)
    ∧ ScalarHalf (.sminHalf x) x.bin (fun a b _ => if rd a ≤ rd b then a else b)
    ∧ ScalarHalf (.smaxHalf x) x.bin (fun a b _ => if rd a ≤ rd b then b else a)
    ∧ ScalarHalf (.smovHalf x) x.smov (fun a _ _ => a))
  ∧ (∀ (x : HalfI) (s : State) (gid : Nat) (g : Group),
    let k := salui (x.m5.truncate 2) (x.imm.signExtend 24)
    (Runs (.saddi8Half x) [] s gid g →
      Leaves (.saddi8Half x) s gid (g.setS (regNum x.d.full) (g.op64 (s.ctx g) x.d.full + k).toNat))
    ∧ (Runs (.smovi8Half x) [] s gid g → Leaves (.smovi8Half x) s gid (g.setS (regNum x.d.full) k.toNat)))
  ∧ ∀ (s : State) (gid : Nat) (g : Group), Issues s gid g → exec (.nopHalf 0#24) s = .next (s.setGroup gid g))
  ∧ (∀ x : FI,
  let k := salui x.md x.imm
  ScalarImm (.saddi x) x (fun a => a + k) ∧ ScalarImm (.sandi x) x (fun a => a &&& k)
  ∧ ScalarImm (.sori x) x (fun a => a ||| k) ∧ ScalarImm (.sxori x) x (fun a => a ^^^ k)
  ∧ ScalarImm (.smovi x) x (fun _ => k)
  ∧ ScalarImm (.sshli x) x (fun a => a <<< (x.imm.toNat % 64)) ∧ ScalarImm (.sshri x) x (fun a => a >>> (x.imm.toNat % 64))
  ∧ ScalarImm (.ssrai x) x (fun a => a.sshiftRight (x.imm.toNat % 64))
  ∧ ScalarImm (.smovhi x) x (fun a => (a &&& 0xFFFFFFFFFFFF#64) ||| (x.imm.zeroExtend 64 <<< 48))
  ∧ ScalarImm (.scmpi x) x (fun a =>
      let c := (x.imm.extractLsb' 21 3).toNat
      let n := x.imm.extractLsb' 0 21
      if (if x.md = 1#2 then Machine.cond c (a.toNat : Int) (n.toNat : Int) else Machine.cond c a.toInt n.toInt) then 1#64 else 0#64))

/-- R164: SBFE extracts min(m, 64) bits from position p, sign-extended under .i64; SBFI writes bit i of D from a[i −
p] inside the field and from b[i] outside it. R164: SDIV and SREM. A divisor of 0 gives all ones and a and sets SDZ; a
signed −2^63 divided by −1 gives −2^63 and 0 and sets SDOV; otherwise the quotient rounds toward zero and the
remainder follows it. Neither traps. -/
def Obligations.ScalarFieldsAndDivision : Prop :=
  (∀ (x : FR) (s : State) (gid : Nat) (g : Group),
  let a := g.op64 (s.ctx g) x.a
  let b := g.op64 (s.ctx g) x.b
  let c := g.op64 (s.ctx g) x.c
  (Runs (.sbfe x) [] s gid g → ∃ v : BitVec 64, Leaves (.sbfe x) s gid (g.setS (regNum x.d) v.toNat).advance ∧
    let p := b.toNat % 256
    let m := min (b.toNat / 256 % 256) 64
    ∀ i, i < 64 → v.getLsbD i
      = if i < m then a.getLsbD (i + p) else (!x.md.getLsbD 0 && decide (0 < m) && a.getLsbD (m - 1 + p)))
  ∧ (Runs (.sbfi x) [] s gid g → ∃ v : BitVec 64, Leaves (.sbfi x) s gid (g.setS (regNum x.d) v.toNat).advance ∧
    let p := c.toNat % 256
    let m := c.toNat / 256 % 256
    ∀ i, i < 64 → v.getLsbD i = if p ≤ i ∧ i < p + m then a.getLsbD (i - p) else b.getLsbD i))
  ∧ (∀ (x : FR) (s : State) (gid : Nat) (g : Group),
  let u := x.md.getLsbD 0
  let a := g.op64 (s.ctx g) x.a
  let b := g.op64 (s.ctx g) x.b
  let rd := fun v : BitVec 64 => if u then (v.toNat : Int) else v.toInt
  let put := fun (h : Group) (v : BitVec 64) => (h.setS (regNum x.d) v.toNat).advance
  let ovf := u = false ∧ a = BitVec.ofNat 64 (2 ^ 63) ∧ b = BitVec.allOnes 64
  (Runs (.sdiv x) [] s gid g →
    (b = 0#64 → Leaves (.sdiv x) s gid (put { g with sdz := true } (BitVec.allOnes 64)))
    ∧ (ovf → Leaves (.sdiv x) s gid (put { g with sdov := true } a))
    ∧ (b ≠ 0#64 → ¬ ovf → Leaves (.sdiv x) s gid (put g (BitVec.ofInt 64 ((rd a).tdiv (rd b))))))
  ∧ (Runs (.srem x) [] s gid g →
    (b = 0#64 → Leaves (.srem x) s gid (put { g with sdz := true } a))
    ∧ (ovf → Leaves (.srem x) s gid (put { g with sdov := true } 0#64))
    ∧ (b ≠ 0#64 → ¬ ovf → Leaves (.srem x) s gid (put g (BitVec.ofInt 64 ((rd a).tmod (rd b)))))))

/-- R158, R161: s0–s60 take all 64 bits of a scalar write; s61, s62 and s63 keep its low 32 bits ANDed with the
roster; no other scalar register and nothing else of the group changes. -/
def Obligations.ScalarWriteRule : Prop := ∀ (g : Group) (n x m : Nat), n < 64 → m < 64 →
  (g.setS n x = { g with s := (g.setS n x).s })
  ∧ (m ≠ n → (g.setS n x).sreg m = g.sreg m)
  ∧ (n < 61 → (g.setS n x).sreg n = BitVec.ofNat 64 x)
  ∧ (61 ≤ n → ((g.setS n x).sreg n).toNat % 2 ^ 64 = (x % 2 ^ 32 &&& g.rosterWord (n - 61)) % 2 ^ 64)

/-- R169 (Table 7.7): MSAVE, MREST, MSET, MAND, MANDN, MCNT and MFIRST. -/
def Obligations.MaskResults : Prop := ∀ (x : FR) (s : State) (gid : Nat) (g : Group),
  let d := regNum x.d
  let a := regNum x.a
  (Runs (.msave x) [] s gid g →
    Leaves (.msave x) s gid (((g.setS d (g.getS 61)).setS (d + 1) (g.getS 62)).setS (d + 2) (g.getS 63)).advance)
  ∧ (Runs (.mrest x) [] s gid g →
    Leaves (.mrest x) s gid (((g.setS 61 (g.getS a)).setS 62 (g.getS (a + 1))).setS 63 (g.getS (a + 2))).advance)
  ∧ (Runs (.mset x) [] s gid g →
    Leaves (.mset x) s gid (g.setMask (g.roster.filter (fun j => g.getQ j a))).advance)
  ∧ (Runs (.mand x) [] s gid g →
    Leaves (.mand x) s gid (g.setMask (g.roster.filter (fun j => g.inMask j && g.getQ j a))).advance)
  ∧ (Runs (.mandn x) [] s gid g →
    Leaves (.mandn x) s gid (g.setMask (g.roster.filter (fun j => g.inMask j && !g.getQ j a))).advance)
  ∧ (Runs (.mcnt x) [] s gid g →
    Leaves (.mcnt x) s gid (g.setS d ((g.active.filter (fun j => !g.help j && g.getQ j a)).length)).advance)
  ∧ (Runs (.mfirst x) [] s gid g →
    Leaves (.mfirst x) s gid (g.setS d ((g.active.filter (fun j => !g.help j && g.getQ j a)).headD 96)).advance)

/-- R170–R172: the label branches. R170, R171, R174: CALL saves the return offset, fills the core's return predictor
with it and transfers; RET and JMPR transfer to a register's value, and RET takes the predictor's top entry; a target
that is no multiple of 8 or lies outside .text traps, and nothing is written. -/
def Obligations.Transfers : Prop :=
  (∀ x : FB,
  Branches (.bra x) x (fun _ => True)
  ∧ Branches (.bcmp x) x (fun g =>
      let a := BitVec.ofNat 64 (g.getS x.sa.toNat)
      let b := BitVec.ofNat 64 (g.getS x.sb.toNat)
      match x.cnd.toNat with
      | 0 => a = b
      | 1 => a ≠ b
      | 2 => a.toInt < b.toInt
      | 3 => a.toInt ≤ b.toInt
      | 4 => b.toInt < a.toInt
      | 5 => b.toInt ≤ a.toInt
      | 6 => a.toNat < b.toNat
      | _ => b.toNat ≤ a.toNat)
  ∧ Branches (.bcmpi x) x (fun g =>
      let a := BitVec.ofNat 64 (g.getS x.sa.toNat)
      let k := x.sb.toNat
      match x.cnd.toNat with
      | 0 => a.toInt = k
      | 1 => a.toInt ≠ k
      | 2 => a.toInt < k
      | 3 => a.toInt ≤ k
      | 4 => (k : Int) < a.toInt
      | 5 => (k : Int) ≤ a.toInt
      | 6 => a.toNat < k
      | _ => k ≤ a.toNat)
  ∧ Branches (.bany x) x (fun g => ∃ j ∈ g.active, g.help j = false ∧ g.getQ j x.cnd.toNat = true)
  ∧ Branches (.ball x) x (fun g => ∀ j ∈ g.active, g.help j = false → g.getQ j x.cnd.toNat = true)
  ∧ Branches (.bnone x) x (fun g => ∀ j ∈ g.active, g.help j = false → g.getQ j x.cnd.toNat = false))
  ∧ (∀ (x : FB) (s : State) (gid : Nat) (g : Group),
  let t := (g.pc : Int) + 8 + 8 * x.off.toInt
  let v := g.getS x.sa.toNat
  (Runs (.call x) [] s gid g →
    (∀ b, s.blockOf g = some b → 0 ≤ t → t < b.node.textSize →
      exec (.call x) s = .next ((s.setCore b.core { s.core b.core with returns := (g.pc + 8) :: (s.core b.core).returns }).setGroup
        gid { g.setS x.sa.toNat (g.pc + 8) with pc := t.toNat, notBefore := s.afterTransfer g }))
    ∧ (t < 0 ∨ (s.textSize g : Int) ≤ t → exec (.call x) s = .next (s.enterTrap gid g 0x08 0x35 g.pc)))
  ∧ ∀ i ∈ [Instr.ret x, Instr.jmpr x], Runs i [] s gid g →
    (∀ b, s.blockOf g = some b → v % 8 = 0 → v < b.node.textSize →
      let s' := if i = .ret x then s.setCore b.core { s.core b.core with returns := (s.core b.core).returns.tail } else s
      exec i s = .next (s'.setGroup gid { g with pc := v, notBefore := s.afterTransfer g }))
    ∧ (v % 8 ≠ 0 → exec i s = .next (s.enterTrap gid g 0x08 0x34 g.pc))
    ∧ (v % 8 = 0 → s.textSize g ≤ v → exec i s = .next (s.enterTrap gid g 0x08 0x35 g.pc)))

/-- R175, R176, R214: NOP only moves the PC; END delivers the held flags and issues nothing more; YIELD gives the
active slot to the first ready pending group, or only moves the PC. R177, R211, R212, R221: GROW and SHRINK to a legal
count wait only when the allocation must change; WAITC waits while the counter stands above the threshold, where one
above 63 reads as 63; a count that is no multiple of 16 from 16 to 256 traps with reason 0x23, and a SHRINK below 256
in mode M with 0x61. -/
def Obligations.ControlWords : Prop :=
  (∀ (x : FR) (s : State) (gid : Nat) (g : Group),
  (Runs (.nop x) [] s gid g → Leaves (.nop x) s gid { g with pc := g.pc + 8 })
  ∧ (Runs (.endGroup x) [] s gid g → ∃ t, exec (.endGroup x) s = .next t
      ∧ AMap.find gid t.groups = some { g.deliver with pc := g.pc + 8, wait := .ending, commitTo := s.nextId }
      ∧ OthersKeep s t gid ∧ SameMemory s t)
  ∧ (Runs (.yield x) [] s gid g → ∃ t, exec (.yield x) s = .next t ∧ SameOutside s t
      ∧ (∀ k, s.blockOf g = some k → s.bestPending k.core = none → t = s.setGroup gid { g with pc := g.pc + 8 })
      ∧ (∀ k m o, s.blockOf g = some k → g.inActive = true → s.bestPending k.core = some m → m ≠ gid →
          AMap.find m s.groups = some o →
          AMap.find m t.groups = some { o with inActive := true, slot := g.slot, since := (s.core k.core).clk,
                                               passCount := 0, promoted := false }
          ∧ AMap.find gid t.groups
            = some { g with pc := g.pc + 8, inActive := false, since := (s.core k.core).clk, promoted := false })))
  ∧ (∀ (x : FR) (s : State) (gid : Nat) (g : Group),
  let n := (g.op64 (s.ctx g) x.a).toNat
  let legal := n % 16 = 0 ∧ 16 ≤ n ∧ n ≤ 256
  (Runs (.grow x) [] s gid g →
    (legal → n ≤ 16 * g.alloc → Leaves (.grow x) s gid { g with pc := g.pc + 8 })
    ∧ (legal → 16 * g.alloc < n → Leaves (.grow x) s gid { g with wait := .grow n, pc := g.pc + 8 })
    ∧ (¬ legal → exec (.grow x) s = .next (s.enterTrap gid g 0x09 0x23 g.pc)))
  ∧ (Runs (.shrink x) [] s gid g →
    (legal → (g.mtx = false ∨ 256 ≤ n) → 16 * g.alloc ≤ n → Leaves (.shrink x) s gid { g with pc := g.pc + 8 })
    ∧ (legal → (g.mtx = false ∨ 256 ≤ n) → n < 16 * g.alloc →
        Leaves (.shrink x) s gid { g with wait := .shrink n, pc := g.pc + 8 })
    ∧ (legal → g.mtx = true → n < 256 → exec (.shrink x) s = .next (s.enterTrap gid g 0x06 0x61 g.pc))
    ∧ (¬ legal → exec (.shrink x) s = .next (s.enterTrap gid g 0x09 0x23 g.pc)))
  ∧ (Runs (.waitc x) [] s gid g →
    let p := pathOf (regNum x.a)
    let t := min 63 (g.op64 (s.ctx g) x.b).toNat
    (g.count p ≤ t → Leaves (.waitc x) s gid { g with pc := g.pc + 8 })
    ∧ (t < g.count p → Leaves (.waitc x) s gid { g with wait := .waitc p t, pc := g.pc + 8 })))

/-- R178, R181: taking a precise trap. With a handler, outside one, the kind, the detail and the resume offset are
saved, INTRAP becomes 1 and the PC goes to the handler; otherwise the group ends with INTRAP 1. No register, mask,
predicate or byte of memory changes. R178, R179: TRAP saves its operand, the kind 0x0A and the offset of the next
word, and goes to the handler; in a handler, or without one, it ends the group. R180: TRET goes to TRAPPC and leaves
the handler; where TRAPPC is misaligned or lies outside .text it raises the control-transfer trap (R170, reasons 0x34
and 0x35), which in a handler ends the group (R181); outside a handler it raises the illegal-encoding trap with reason
0x0C. -/
def Obligations.Traps : Prop :=
  (∀ (s : State) (gid kind info off : Nat) (g : Group),
  (∀ h, Handles s g h → g.intrap = false → s.enterTrap gid g kind info off
      = s.setGroup gid { g with trapkind := BitVec.ofNat 8 kind, trapinfo := BitVec.ofNat 64 info, latch := none,
                                trappc := BitVec.ofNat 64 off, intrap := true, pc := h })
  ∧ ∃ h, AMap.find gid (s.enterTrap gid g kind info off).groups = some h ∧ h.v = g.v ∧ h.q = g.q ∧ h.s = g.s
    ∧ h.intrap = true ∧ h.trapkind = BitVec.ofNat 8 kind ∧ h.trapinfo = BitVec.ofNat 64 info
    ∧ (s.handler g = none ∨ g.intrap = true → h.wait = .ending ∧ h.pc = g.pc ∧ h.trappc = g.trappc)
    ∧ OthersKeep s (s.enterTrap gid g kind info off) gid ∧ SameMemory s (s.enterTrap gid g kind info off))
  ∧ (∀ (x : FR) (s : State) (gid h : Nat) (g : Group), Runs (.trap x) [] s gid g →
  (Handles s g h → g.intrap = false →
    Leaves (.trap x) s gid { g with trapkind := 0x0A#8, trapinfo := g.op64 (s.ctx g) x.a, latch := none,
                                    trappc := BitVec.ofNat 64 (g.pc + 8), intrap := true, pc := h })
  ∧ (g.intrap = true ∨ s.handler g = none → ∃ t k, exec (.trap x) s = .next t ∧ AMap.find gid t.groups = some k
      ∧ k.wait = .ending ∧ k.intrap = true ∧ k.trapkind = 0x0A#8 ∧ k.trapinfo = g.op64 (s.ctx g) x.a
      ∧ k.pc = g.pc ∧ k.trappc = g.trappc))
  ∧ (∀ (x : FR) (s : State) (gid : Nat) (g : Group), Runs (.tret x) [] s gid g →
  (g.intrap = true → g.trappc.toNat % 8 = 0 → g.trappc.toNat < s.textSize g →
    Leaves (.tret x) s gid { g with pc := g.trappc.toNat, intrap := false })
  ∧ (g.intrap = true → g.trappc.toNat % 8 ≠ 0 ∨ s.textSize g ≤ g.trappc.toNat →
    exec (.tret x) s = .next (s.enterTrap gid g 0x08 (if g.trappc.toNat % 8 ≠ 0 then 0x34 else 0x35) g.pc)
    ∧ ∃ k, AMap.find gid (s.enterTrap gid g 0x08 (if g.trappc.toNat % 8 ≠ 0 then 0x34 else 0x35) g.pc).groups = some k ∧ k.wait = .ending)
  ∧ (g.intrap = false → exec (.tret x) s = .next (s.enterTrap gid g 0x01 0x0C g.pc)))

/-- R166 (Table 7.4): SRD reads each of the 14 special registers; SWR writes TRAPPC with bits 2–0 clear, or FPXMASK.
-/
def Obligations.SpecialRegisters : Prop := ∀ (x : FR) (s : State) (gid : Nat) (g : Group),
  (Runs (.srd x) [] s gid g →
    let put := fun v : Nat => Leaves (.srd x) s gid (g.setS (regNum x.d) v).advance
    (x.a = .imm 0#7 → put (g.alloc * 256 + g.sdov.toNat * 64 + g.sdz.toNat * 32 + g.strict.toNat * 16 + g.split.toNat * 8
      + g.grid.toNat * 4 + g.mtx.toNat * 2 + g.intrap.toNat))
    ∧ (x.a = .imm 1#7 → put g.trapkind.toNat) ∧ (x.a = .imm 2#7 → put g.trappc.toNat)
    ∧ (x.a = .imm 3#7 → put g.trapinfo.toNat) ∧ (x.a = .imm 4#7 → put (s.nodeId g)) ∧ (x.a = .imm 5#7 → put g.reccnt)
    ∧ (x.a = .imm 6#7 → put (g.count .ld)) ∧ (x.a = .imm 7#7 → put (g.count .st)) ∧ (x.a = .imm 8#7 → put (g.count .at))
    ∧ (x.a = .imm 9#7 → put (g.count .cp)) ∧ (x.a = .imm 10#7 → put (g.count .mx)) ∧ (x.a = .imm 11#7 → put (g.count .xc))
    ∧ (x.a = .imm 12#7 → put g.fpxmask.toNat) ∧ (x.a = .imm 13#7 → put (s.ctx g).cyc))
  ∧ (Runs (.swr x) [] s gid g →
    (x.a = .imm 2#7 → Leaves (.swr x) s gid { g with trappc := g.op64 (s.ctx g) x.b &&& ~~~7#64, pc := g.pc + 8 })
    ∧ (x.a = .imm 12#7 → Leaves (.swr x) s gid { g with fpxmask := (g.op64 (s.ctx g) x.b).truncate 5, pc := g.pc + 8 }))

/-! ## Lane integer words (ch. 04) -/

/-- R89–R91 (Table 4.3): the wrapping, comparing and bitwise instructions, element by element under the type of their
modifier byte; the bitwise ones on the 32 bits as they stand. Table 2.11 and R50: the integer halves are their full
forms on D and S; the word, not the half, moves the PC. R93: VDIV and VREM, element by element: a divisor of 0 gives
all ones and the dividend and sets DZ; the most negative element divided by −1 gives itself and 0 and sets DOV; the
quotient is truncated toward zero. R91 and R98: VADDS and VSUBS clamp the exact result to the range of the element
type; VDOT4 and VDOT2 add exact products of their elements to the accumulator, wrapping or clamping; a lane in which a
value was clamped has ISAT set. -/
def Obligations.LaneIntegerResults : Prop :=
  (∀ x : FR,
  let ty := (x.md.extractLsb' 0 2).toNat
  LaneWrite (.vadd x) x (elems ty (fun _ a b _ => a + b)) ∧ LaneWrite (.vsub x) x (elems ty (fun _ a b _ => a - b))
  ∧ LaneWrite (.vmul x) x (elems ty (fun _ a b _ => a * b)) ∧ LaneWrite (.vmad x) x (elems ty (fun _ a b c => a * b + c))
  ∧ LaneWrite (.vmulh x) x (elems ty (fun w a b _ => BitVec.ofInt w (readAs ty a * readAs ty b / 2 ^ w)))
  ∧ LaneWrite (.vabs x) x (elems ty (fun _ a _ _ => if readAs ty a < 0 then -a else a))
  ∧ LaneWrite (.vneg x) x (elems ty (fun _ a _ _ => -a))
  ∧ LaneWrite (.vmin x) x (elems ty (fun _ a b _ => if readAs ty a ≤ readAs ty b then a else b))
  ∧ LaneWrite (.vmax x) x (elems ty (fun _ a b _ => if readAs ty a ≤ readAs ty b then b else a))
  ∧ LaneWrite (.vand x) x (fun a b _ => a &&& b) ∧ LaneWrite (.vor x) x (fun a b _ => a ||| b)
  ∧ LaneWrite (.vxor x) x (fun a b _ => a ^^^ b) ∧ LaneWrite (.vandn x) x (fun a b _ => a &&& ~~~b)
  ∧ LaneWrite (.vnot x) x (fun a _ _ => ~~~a) ∧ LaneWrite (.vmov x) x (fun a _ _ => a))
  ∧ (∀ x : Half,
  let ty := (x.m5.extractLsb' 0 2).toNat
  HalfWrite (.vaddHalf x) x.bin (elems ty (fun _ a b _ => a + b))
  ∧ HalfWrite (.vsubHalf x) x.bin (elems ty (fun _ a b _ => a - b))
  ∧ HalfWrite (.vmulHalf x) x.bin (elems ty (fun _ a b _ => a * b))
  ∧ HalfWrite (.vandHalf x) x.bin (fun a b _ => a &&& b) ∧ HalfWrite (.vorHalf x) x.bin (fun a b _ => a ||| b)
  ∧ HalfWrite (.vxorHalf x) x.bin (fun a b _ => a ^^^ b) ∧ HalfWrite (.vandnHalf x) x.bin (fun a b _ => a &&& ~~~b)
  ∧ HalfWrite (.vshlHalf x) x.bin (elems ty (fun _ a b _ => a <<< b.toNat))
  ∧ HalfWrite (.vshrHalf x) x.bin (elems ty (fun _ a b _ => a >>> b.toNat))
  ∧ HalfWrite (.vsraHalf x) x.bin (elems ty (fun _ a b _ => a.sshiftRight b.toNat))
  ∧ HalfWrite (.vminHalf x) x.bin (elems ty (fun _ a b _ => if readAs ty a ≤ readAs ty b then a else b))
  ∧ HalfWrite (.vmaxHalf x) x.bin (elems ty (fun _ a b _ => if readAs ty a ≤ readAs ty b then b else a))
  ∧ HalfWrite (.vmovHalf x) x.un (fun a _ _ => a)
  ∧ HalfWrite (.vnegHalf x) x.un (elems ty (fun _ a _ _ => -a))
  ∧ HalfWrite (.vnotHalf x) x.un (fun a _ _ => ~~~a)
  ∧ HalfWrite (.vabsHalf x) x.un (elems ty (fun _ a _ _ => if readAs ty a < 0 then -a else a)))
  ∧ (∀ x : FR,
  let ty := (x.md.extractLsb' 0 2).toNat
  let ovf := fun {w : Nat} (a b : BitVec w) => ty % 2 = 0 && a == BitVec.intMin w && b == BitVec.allOnes w
  let st := elemStat ty (fun _ a b => if b = 0 then statDZ else if ovf a b then statDOV else 0#32)
  LaneResult (.vdiv x) x (elems ty (fun w a b _ =>
    if b = 0 then BitVec.allOnes w else if ovf a b then a else BitVec.ofInt w ((readAs ty a).tdiv (readAs ty b)))) st
  ∧ LaneResult (.vrem x) x (elems ty (fun w a b _ =>
    if b = 0 then a else if ovf a b then 0#w else BitVec.ofInt w ((readAs ty a).tmod (readAs ty b)))) st)
  ∧ (∀ x : FR,
  let ty := (x.md.extractLsb' 0 2).toNat
  let lo := fun w : Nat => if ty % 2 = 0 then -(2 ^ (w - 1) : Int) else 0
  let hi := fun w : Nat => if ty % 2 = 0 then (2 ^ (w - 1) : Int) - 1 else 2 ^ w - 1
  let clamp := fun (w : Nat) (v : Int) => BitVec.ofInt w (max (lo w) (min (hi w) v))
  let isat := fun (w : Nat) (v : Int) => if v < lo w ∨ hi w < v then statISAT else 0#32
  let dot := fun (n : Nat) (a b c : BitVec 32) =>
    let el := fun (signed : Bool) (v : BitVec 32) (i : Nat) =>
      let e := v.extractLsb' (32 / n * i) (32 / n)
      if signed then e.toInt else (e.toNat : Int)
    (if ty = 1 then (c.toNat : Int) else c.toInt)
      + ((List.range n).map (fun i => el (ty = 0 || ty = 3) a i * el (ty = 0 || ty = 2) b i)).sum
  let clampD := fun (v : Int) => if ty = 1 then max 0 (min (2 ^ 32 - 1) v) else max (-2 ^ 31) (min (2 ^ 31 - 1) v)
  let val := fun n a b c => BitVec.ofInt 32 (if x.md.getLsbD 2 then clampD (dot n a b c) else dot n a b c)
  let st := fun n a b c => if x.md.getLsbD 2 ∧ clampD (dot n a b c) ≠ dot n a b c then statISAT else 0#32
  LaneResult (.vadds x) x (elems ty (fun w a b _ => clamp w (readAs ty a + readAs ty b)))
    (elemStat ty (fun w a b => isat w (readAs ty a + readAs ty b)))
  ∧ LaneResult (.vsubs x) x (elems ty (fun w a b _ => clamp w (readAs ty a - readAs ty b)))
    (elemStat ty (fun w a b => isat w (readAs ty a - readAs ty b)))
  ∧ LaneResult (.vdot4 x) x (val (if x.md.getLsbD 3 then 8 else 4)) (st (if x.md.getLsbD 3 then 8 else 4))
  ∧ LaneResult (.vdot2 x) x (val 2) (st 2))

/-- R94–R96: shifts by the element of B, counts of bits, reversal, and the field instructions. -/
def Obligations.LaneShiftsAndFields : Prop := ∀ x : FR,
  let ty := (x.md.extractLsb' 0 2).toNat
  LaneWrite (.vshl x) x (elems ty (fun _ a b _ => a <<< b.toNat))
  ∧ LaneWrite (.vshr x) x (elems ty (fun _ a b _ => a >>> b.toNat))
  ∧ LaneWrite (.vsra x) x (elems ty (fun _ a b _ => a.sshiftRight b.toNat))
  ∧ LaneWrite (.vrot x) x (elems ty (fun w a b _ => a.rotateLeft (b.toNat % w)))
  ∧ LaneWrite (.vclz x) x (elems ty (fun w a _ _ => BitVec.ofNat w (if a = 0#w then w else w - 1 - a.toNat.log2)))
  ∧ LaneWrite (.vpopc x) x (elems ty (fun w a _ _ => BitVec.ofNat w ((List.range w).countP (fun i => a.getLsbD i))))
  ∧ LaneWrite (.vbrev x) x (elems ty (fun _ a _ _ => a.reverse))
  ∧ LaneWrite (.vbfe x) x (fun a f _ =>
      let e := (a >>> (f.toNat % 256)).setWidth (min (f.toNat / 256 % 256) 32)
      if ty = 0 then e.signExtend 32 else e.zeroExtend 32)
  ∧ LaneWrite (.vbfi x) x (fun a b f =>
      let p := f.toNat % 256
      let mask := BitVec.ofNat 32 (2 ^ (f.toNat / 256 % 256) - 1) <<< p
      ((a <<< p) &&& mask) ||| (b &&& ~~~mask))

/-- R92: VADDC and VSUBB read the predicate as the carry or borrow in and write it as the one out; both destinations
change in the lanes that take part, and in no other. -/
def Obligations.LaneCarry : Prop := ∀ (x : FR) (s : State) (gid : Nat) (g : Group),
  let a := fun j => ((g.op32 (s.ctx g) j x.a).toNat : Int)
  let b := fun j => ((g.op32 (s.ctx g) j x.b).toNat : Int)
  let cin := fun j => if g.pred j x.c then (1 : Int) else 0
  let gives := fun (i : Instr) (t : Nat → Int) (out : Nat → Bool) => ∃ h, Leaves i s gid h
    ∧ h = { g with v := h.v, q := h.q, pc := g.pc + 8 }
    ∧ WritesV g h (g.parts x.g.toNat) (regNum x.d) (fun j => BitVec.ofInt 32 (t j))
    ∧ WritesQ g h (g.parts x.g.toNat) (regNum x.c) out
  (Runs (.vaddc x) (x.spans 1 1 1) s gid g →
    gives (.vaddc x) (fun j => a j + b j + cin j) (fun j => decide (2 ^ 32 ≤ a j + b j + cin j)))
  ∧ (Runs (.vsubb x) (x.spans 1 1 1) s gid g →
    gives (.vsubb x) (fun j => a j - b j - cin j) (fun j => decide (a j - b j - cin j < 0)))

/-- R97 and Table 4.4: VCMP and VCMPI write the lane's predicate bit with the outcome of the condition; VSEL takes A
where the predicate is 1 and B elsewhere. -/
def Obligations.LaneCompareSelect : Prop :=  (∀ (x : FR) (s : State) (gid : Nat) (g : Group),
    let rd := fun v : BitVec 32 => if x.md.getLsbD 0 then (v.toNat : Int) else v.toInt
    (Runs (.vcmp x) (x.spans 1 1 1) s gid g → ∃ h, Leaves (.vcmp x) s gid h ∧ h = { g with q := h.q, pc := g.pc + 8 }
      ∧ WritesQ g h (g.parts x.g.toNat) (regNum x.d) (fun j =>
          Machine.cond ((x.md.extractLsb' 2 3).toNat) (rd (g.op32 (s.ctx g) j x.a)) (rd (g.op32 (s.ctx g) j x.b))))
    ∧ (Runs (.vsel x) (x.spans 1 1 1) s gid g → ∃ h, Leaves (.vsel x) s gid h ∧ h = { g with v := h.v, pc := g.pc + 8 }
      ∧ WritesV g h (g.parts x.g.toNat) (regNum x.d) (fun j =>
          if g.pred j x.c then g.op32 (s.ctx g) j x.a else g.op32 (s.ctx g) j x.b)))
  ∧ ∀ (x : FI) (s : State) (gid : Nat) (g : Group),
    let k := x.imm.extractLsb' 0 21
    let rd := fun v : BitVec 32 => if x.md = 1#2 then (v.toNat : Int) else v.toInt
    Runs (.vcmpi x) (fiSpans x) s gid g → ∃ h, Leaves (.vcmpi x) s gid h ∧ h = { g with q := h.q, pc := g.pc + 8 }
      ∧ WritesQ g h (g.parts x.g.toNat) (regNum x.d) (fun j =>
          Machine.cond ((x.imm.extractLsb' 21 3).toNat) (rd (g.op32 (s.ctx g) j x.a))
            (if x.md = 1#2 then (k.toNat : Int) else k.toInt))

/-- R99 (Table 4.4): the immediate forms with their constant k, and the shifts by a count in the word. R100, R101:
VLEA, VADDW and VSUBW write the pair D, D + 1 with the 64-bit sum or difference of Wide(A) and the second operand,
which is wide under .w64 and otherwise 32 bits extended under its type. -/
def Obligations.LaneImmediatesAndAddresses : Prop :=
  (∀ x : FI,
  let k := if x.md = 0#2 then x.imm.signExtend 32 else if x.md = 1#2 then x.imm.zeroExtend 32 else x.imm.zeroExtend 32 <<< 8
  let n := if x.md = 0#2 then x.imm.toNat % 32 else x.imm.toNat % 16
  let ty := x.md.toNat
  LaneImm (.vaddi x) x (fun a => a + k) ∧ LaneImm (.vandi x) x (fun a => a &&& k) ∧ LaneImm (.vori x) x (fun a => a ||| k)
  ∧ LaneImm (.vxori x) x (fun a => a ^^^ k) ∧ LaneImm (.vmovi x) x (fun _ => k)
  ∧ LaneImm (.vshli x) x (fun a => elems ty (fun _ e _ _ => e <<< n) a a a)
  ∧ LaneImm (.vshri x) x (fun a => elems ty (fun _ e _ _ => e >>> n) a a a)
  ∧ LaneImm (.vsrai x) x (fun a => elems ty (fun _ e _ _ => e.sshiftRight n) a a a))
  ∧ (∀ (x : FR) (s : State) (gid : Nat) (g : Group),
  let ty := (x.md.extractLsb' 0 2).toNat
  let a := fun j => g.opWide (s.ctx g) j x.a
  let e := fun j => if ty = 0 then (g.op32 (s.ctx g) j x.b).signExtend 64 else (g.op32 (s.ctx g) j x.b).zeroExtend 64
  let b := fun j => if ty = 2 then g.opWide (s.ctx g) j x.b else e j
  let gives := fun (i : Instr) (t : Nat → BitVec 64) => Runs i (vadrSpans x) s gid g → ∃ h, Leaves i s gid h
    ∧ h = { g with v := h.v, pc := g.pc + 8 }
    ∧ ∀ j r, r < 256 → h.vreg j r = if j ∈ g.parts x.g.toNat ∧ r = regNum x.d then (t j).extractLsb' 0 32
        else if j ∈ g.parts x.g.toNat ∧ r = regNum x.d + 1 then (t j).extractLsb' 32 32 else g.vreg j r
  gives (.vlea x) (fun j => a j + (e j <<< (x.md.extractLsb' 2 3).toNat))
  ∧ gives (.vaddw x) (fun j => a j + b j) ∧ gives (.vsubw x) (fun j => a j - b j))

/-! ## Lane floating-point words (ch. 05) -/

/-- R109, R115, R116: the rounded operations on FP32 values, on the two 16-bit elements of a register, and the dot
product into FP32: one exact result, rounded once, with the flags it raises. R109, R115: an operation reads its
operands, a subnormal as a zero of its sign under FTZ, and rounds its exact result once; its flags are those of Round
and of the exact result, with NV for a signalling operand; a NaN or an infinity counts where no operand was one, and
so do OF and UF. R78, Table 5.2: on finite operands the sums, products and fused forms that are rounded are the exact
ones. R72–R74, R77: Round of a finite value that is not zero. R73, R77, R78, R109, R116: VFDIV gives its quotient of
finite operands that are not zero rounded once, VFSQRT the FP32 value next to the root of a positive one, by squares,
and VHDOT its sum rounded once; and their special operands: 0 / 0, ∞ / ∞ and a root below −0 the canonical NaN with
NV, a finite number over zero an infinity with FDZ, and zeros and infinities signed by the operands. -/
def Obligations.FloatArithmetic : Prop :=
  ((∀ x : FR,
    let md := x.md.toNat
    let h := if x.md.getLsbD 4 then Fmt.bf16 else Fmt.fp16
    FloatResult (.vfadd x) x (farith .add .fp32 md) ∧ FloatResult (.vfsub x) x (farith .sub .fp32 md)
    ∧ FloatResult (.vfmul x) x (farith .mul .fp32 md) ∧ FloatResult (.vfma x) x (farith .fma .fp32 md)
    ∧ FloatResult (.vfms x) x (farith .fms .fp32 md) ∧ FloatResult (.vfnma x) x (farith .fnma .fp32 md)
    ∧ FloatResult (.vfdiv x) x (farith .div .fp32 md) ∧ FloatResult (.vfsqrt x) x (farith .sqrt .fp32 md)
    ∧ FloatResult (.vhadd x) x (perHalf (farith .add h md)) ∧ FloatResult (.vhsub x) x (perHalf (farith .sub h md))
    ∧ FloatResult (.vhmul x) x (perHalf (farith .mul h md)) ∧ FloatResult (.vhfma x) x (perHalf (farith .fma h md))
    ∧ FloatResult (.vhdot x) x (hdot md))
  ∧ ∀ x : Half,
    let md := x.m5.toNat
    let h := if x.m5.getLsbD 4 then Fmt.bf16 else Fmt.fp16
    HalfFloat (.vfaddHalf x) x.bin (farith .add .fp32 md) ∧ HalfFloat (.vfsubHalf x) x.bin (farith .sub .fp32 md)
    ∧ HalfFloat (.vfmulHalf x) x.bin (farith .mul .fp32 md) ∧ HalfFloat (.vhaddHalf x) x.bin (perHalf (farith .add h md))
    ∧ HalfFloat (.vhmulHalf x) x.bin (perHalf (farith .mul h md)))
  ∧ (∀ (o : FOp) (f : Fmt) (md a b c : Nat),
  let v := f.valueFtz (bitAt md 2)
  let ops := [v a, v b, v c].take o.arity
  let x := o.exact (RMode.ofBits md) (v a) (v b) (v c)
  let r := f.round (RMode.ofBits md) (bitAt md 2) (bitAt md 3) x.1
  let y := farith o f md a b c
  y.val = r.1 ∧ y.flags = r.2 ||| x.2 ||| (if ops.any FVal.isSig then flagNV else 0#5)
  ∧ (4 * f.index ∈ y.counts ↔ (f.value r.1).isNaN = true ∧ ops.any FVal.isNaN = false)
  ∧ (4 * f.index + 1 ∈ y.counts ↔ (f.value r.1).isInf = true ∧ ops.any FVal.isInf = false)
  ∧ (4 * f.index + 2 ∈ y.counts ↔ y.flags &&& flagOF ≠ 0#5) ∧ (4 * f.index + 3 ∈ y.counts ↔ y.flags &&& flagUF ≠ 0#5))
  ∧ (∀ (mode : RMode) (x y z : FVal), x.finite = true → y.finite = true → z.finite = true →
  (FOp.exact .add mode x y z).1.rat = x.rat + y.rat ∧ (FOp.exact .sub mode x y z).1.rat = x.rat - y.rat
  ∧ (FOp.exact .mul mode x y z).1.rat = x.rat * y.rat ∧ (FOp.exact .fma mode x y z).1.rat = x.rat * y.rat + z.rat
  ∧ (FOp.exact .fms mode x y z).1.rat = x.rat * y.rat - z.rat ∧ (FOp.exact .fnma mode x y z).1.rat = z.rat - x.rat * y.rat
  ∧ (FOp.exact .mul mode x y z).1.sign = (x.sign != y.sign) ∧ (y.rat ≠ 0 → (FOp.exact .div mode x y z).1.sign = (x.sign != y.sign))
  ∧ ∀ o : FOp, o ≠ .div → o ≠ .sqrt → (o.exact mode x y z).1.finite = true ∧ (o.exact mode x y z).2 = 0#5)
  ∧ (∀ (f : Fmt) (mode : RMode) (ftz sat neg : Bool) (m : Nat) (e : Int), 0 < m →
  f.RoundsTo mode ftz sat neg ((m : Rat) * pow2 e) (f.round mode ftz sat (.fin neg m e)))
  ∧ (∀ (md a b c : Nat),
  let mode := RMode.ofBits md
  let ftz := bitAt md 2
  let sat := bitAt md 3
  let abs := fun (x : Rat) => if x < 0 then -x else x
  let v := fun (k : Nat) => Fmt.fp32.valueFtz ftz k
  let x := v a
  let y := v b
  let q := farith .div .fp32 md a b c
  let r := farith .sqrt .fp32 md a b c
  let neg := x.sign != y.sign
  let signed := fun (n : Bool) (code : Nat) => (if n then 0x80000000 else 0) + code
  (x.finite = true → y.finite = true → x.rat ≠ 0 → y.rat ≠ 0 →
      Fmt.fp32.RoundsTo mode ftz sat neg (abs (x.rat / y.rat)) (q.val, q.flags))
  ∧ ((x.finite = true ∧ y.finite = true ∧ x.rat = 0 ∧ y.rat = 0) ∨ (x.isInf = true ∧ y.isInf = true) →
      q.val = 0x7FC00000 ∧ q.flags = flagNV ∧ q.counts = [0])
  ∧ (x.finite = true → y.finite = true → x.rat ≠ 0 → y.rat = 0 → q.val = signed neg 0x7F800000 ∧ q.flags = flagFDZ ∧ q.counts = [1])
  ∧ (x.isInf = true → y.finite = true → q.val = signed neg 0x7F800000 ∧ q.flags = 0#5 ∧ q.counts = [])
  ∧ (x.finite = true → y.isInf = true ∨ (x.rat = 0 ∧ y.finite = true ∧ y.rat ≠ 0) →
      q.val = signed neg 0 ∧ q.flags = 0#5 ∧ q.counts = [])
  ∧ (x.isNaN = true ∨ y.isNaN = true → q.val = 0x7FC00000 ∧ q.flags = (if x.isSig ∨ y.isSig then flagNV else 0#5) ∧ q.counts = [])
  ∧ (x.finite = true → 0 < x.rat → ∃ k, k < Fmt.fp32.maxCode ∧
      let lo := Fmt.fp32.mag k
      let hi := Fmt.fp32.mag (k + 1)
      lo * lo ≤ x.rat ∧ x.rat < hi * hi ∧ r.flags = (if lo * lo = x.rat then 0#5 else flagNX) ∧ r.counts = []
      ∧ r.val = match mode with
        | .rn => if (lo + hi) * (lo + hi) < 4 * x.rat then k + 1 else k
        | .rz | .rm => k
        | .rp => if lo * lo = x.rat then k else k + 1)
  ∧ (x.finite = true → x.rat = 0 → r.val = signed x.sign 0 ∧ r.flags = 0#5)
  ∧ (x.finite = true ∧ x.rat < 0 ∨ x = .inf true → r.val = 0x7FC00000 ∧ r.flags = flagNV ∧ r.counts = [0])
  ∧ (x = .inf false → r.val = 0x7F800000 ∧ r.flags = 0#5 ∧ r.counts = [])
  ∧ (x.isNaN = true → r.val = 0x7FC00000 ∧ r.flags = (if x.isSig then flagNV else 0#5) ∧ r.counts = [])
  ∧ (let h := fun (k : Nat) => (if bitAt md 4 then Fmt.bf16 else Fmt.fp16).valueFtz ftz k
     let ops := [h (a % 65536), h (b % 65536), h (a / 65536), h (b / 65536), v c]
     let sum := (v c).rat + (h (a % 65536)).rat * (h (b % 65536)).rat + (h (a / 65536)).rat * (h (b / 65536)).rat
     let d := hdot md a b c
     (ops.all FVal.finite = true → sum ≠ 0 → Fmt.fp32.RoundsTo mode ftz sat (decide (sum < 0)) (abs sum) (d.val, d.flags))
     ∧ (ops.all FVal.finite = true → sum = 0 → d.flags = 0#5 ∧ d.val % 2 ^ 31 = 0)
     ∧ (ops.any FVal.isNaN = true → d.val = 0x7FC00000
        ∧ (ops.any FVal.isSig = true → d.flags &&& flagNV = flagNV))))

/-- R110, R115: the minimum and maximum forms; NUM is bit 4 of the FP32 forms' modifier byte and bit 5 of the packed
forms'. R110: the chosen operand. With one NaN operand and NUM = 1 the other operand, with any other NaN the canonical
NaN; without a NaN and without flushing one of the operands' codes, and no operand lies below a minimum or above a
maximum, −0 below +0; a signalling NaN raises NV and nothing else is raised. -/
def Obligations.FloatMinMax : Prop :=
  ((∀ x : FR,
    let ftz := x.md.getLsbD 2
    let h := if x.md.getLsbD 4 then Fmt.bf16 else Fmt.fp16
    FloatResult (.vfmin x) x (fun a b _ => fminmax false (x.md.getLsbD 4) .fp32 ftz a b)
    ∧ FloatResult (.vfmax x) x (fun a b _ => fminmax true (x.md.getLsbD 4) .fp32 ftz a b)
    ∧ FloatResult (.vhmin x) x (perHalf (fun a b _ => fminmax false (x.md.getLsbD 5) h ftz a b))
    ∧ FloatResult (.vhmax x) x (perHalf (fun a b _ => fminmax true (x.md.getLsbD 5) h ftz a b)))
  ∧ ∀ x : Half,
    HalfFloat (.vfminHalf x) x.bin (fun a b _ => fminmax false (x.m5.getLsbD 4) .fp32 (x.m5.getLsbD 2) a b)
    ∧ HalfFloat (.vfmaxHalf x) x.bin (fun a b _ => fminmax true (x.m5.getLsbD 4) .fp32 (x.m5.getLsbD 2) a b))
  ∧ (∀ (max num : Bool) (a b : Nat), a < 2 ^ 32 → b < 2 ^ 32 →
  let x := Fmt.fp32.value a
  let y := Fmt.fp32.value b
  let r := fminmax max num .fp32 false a b
  (x.isNaN = true → y.isNaN = true → r.val = 0x7FC00000)
  ∧ (x.isNaN = true → y.isNaN = false → r.val = if num then b else 0x7FC00000)
  ∧ (x.isNaN = false → y.isNaN = true → r.val = if num then a else 0x7FC00000)
  ∧ (x.isNaN = false → y.isNaN = false → (r.val = a ∨ r.val = b)
      ∧ (max = false → ¬ x.below (Fmt.fp32.value r.val) ∧ ¬ y.below (Fmt.fp32.value r.val))
      ∧ (max = true → ¬ (Fmt.fp32.value r.val).below x ∧ ¬ (Fmt.fp32.value r.val).below y))
  ∧ r.flags = (if x.isSig ∨ y.isSig then flagNV else 0#5) ∧ r.counts = [])

/-- R111, R116: VFCMP writes the lane's predicate bit and VHCMP all ones or zeros to each element; the condition and
the flags are the ones of fcond. R111: .ne (1) and .un (6) hold for an unordered pair and every other condition fails;
of an ordered pair .ord (7) holds and .un fails, and the other conditions compare; a signalling NaN raises NV under
every condition, a quiet one under .lt, .le, .gt and .ge only. -/
def Obligations.FloatCompare : Prop :=
  (∀ (x : FR),
  (∀ (s : State) (gid : Nat) (g : Group), Runs (.vfcmp x) (x.spans 1 1 1) s gid g →
    let v := fun (j : Nat) (o : Operand) => Fmt.fp32.valueFtz (x.md.getLsbD 2) (g.src (s.ctx g) j o)
    let r := fun j => fcond ((x.md.extractLsb' 4 3).toNat) (v j x.a) (v j x.b)
    ∃ h, Leaves (.vfcmp x) s gid h ∧ h = { g with q := h.q, lanes := h.lanes, pc := g.pc + 8 }
      ∧ WritesQ g h (g.parts x.g.toNat) (regNum x.d) (fun j => (r j).1)
      ∧ RaisesF g h (g.parts x.g.toNat) (fun j => (r j).2))
  ∧ FloatResult (.vhcmp x) x (perHalf (fun a b _ =>
      let f := if x.md.getLsbD 4 then Fmt.bf16 else Fmt.fp16
      let r := fcond ((x.md.extractLsb' 5 3).toNat) (f.valueFtz (x.md.getLsbD 2) a) (f.valueFtz (x.md.getLsbD 2) b)
      { val := if r.1 then 0xFFFF else 0, flags := r.2, counts := [] })))
  ∧ (∀ (cc : Nat) (x y : FVal), cc < 8 →
  (x.isNaN = true ∨ y.isNaN = true → (fcond cc x y).1 = decide (cc = 1 ∨ cc = 6))
  ∧ (x.isNaN = false → y.isNaN = false →
      (cc = 6 → (fcond cc x y).1 = false) ∧ (cc = 7 → (fcond cc x y).1 = true) ∧ (fcond cc x y).2 = 0#5
      ∧ (cc < 6 → (fcond cc x y).1 = Machine.cond cc (x.cmp y) 0))
  ∧ (x.isSig = true ∨ y.isSig = true → (fcond cc x y).2 = flagNV)
  ∧ (x.isNaN = true ∨ y.isNaN = true → x.isSig = false → y.isSig = false →
      (fcond cc x y).2 = if 2 ≤ cc ∧ cc ≤ 5 then flagNV else 0#5))

/-- R112: VFABS and VFNEG change the sign bit alone, and VFCLASS sets the one bit of the class that the raw bits have;
none of them raises a flag or feeds a counter. -/
def Obligations.FloatSignAndClass : Prop :=  (∀ x : FR, LaneWrite (.vfabs x) x (fun a _ _ => a &&& 0x7FFFFFFF#32) ∧ LaneWrite (.vfneg x) x (fun a _ _ => a ^^^ 0x80000000#32)
    ∧ LaneWrite (.vfclass x) x (fun a _ _ =>
        let neg := a.getLsbD 31
        let e := a.extractLsb' 23 8
        let m := a.extractLsb' 0 23
        let k := if e = 255#8 then (if m = 0#23 then (if neg then 0 else 7) else if m.getLsbD 22 then 9 else 8)
          else if e = 0#8 then (if m = 0#23 then (if neg then 3 else 4) else if neg then 2 else 5)
          else if neg then 1 else 6
        1#32 <<< k))
  ∧ ∀ x : Half, HalfWrite (.vfabsHalf x) x.un (fun a _ _ => a &&& 0x7FFFFFFF#32)
    ∧ HalfWrite (.vfnegHalf x) x.un (fun a _ _ => a ^^^ 0x80000000#32)

/-- R113: VFRND rounds to an integral value under RM; R114: the approximated functions give one value within their
bound, the implementation's choice being a free value (log 20): here that they write such a value, with its flags and
counts. R113: VFRND gives an integer, that of the direction, with the operand's sign and no flag; an infinity as it
is, and the canonical NaN for a NaN, with NV where it was signalling. Table 5.3, R114: the special operands and the
exact cases of the approximated functions, whatever the implementation gives elsewhere (how far a value may lie from
the exact one is not stated here). An exact result is given with no flag, be it subnormal, and under FTZ a subnormal
one is flushed with UF and NX; every result not listed as exact raises NX, and UF too where it is subnormal or
flushed; no sine, cosine or hyperbolic tangent exceeds 1 in magnitude. (That the reciprocal of a power of two below
2^-127 overflows to an infinity is log 23's reading.) -/
def Obligations.FloatRoundAndApproximate : Prop :=
  (∀ x : FR,
  let md := x.md.toNat
  FloatResult (.vfrnd x) x (fun a _ _ => frnd md a)
  ∧ FloatResult (.vfrcp x) x (fun a _ _ => approxOp 14 frcp md a) ∧ FloatResult (.vfrsq x) x (fun a _ _ => approxOp 15 frsq md a)
  ∧ FloatResult (.vfexp2 x) x (fun a _ _ => approxOp 16 fexp2 md a)
  ∧ FloatResult (.vflog2 x) x (fun a _ _ => approxOp 17 flog2 md a)
  ∧ FloatResult (.vfsin x) x (fun a _ _ => approxOp 18 fsin md a) ∧ FloatResult (.vfcos x) x (fun a _ _ => approxOp 19 fcos md a)
  ∧ FloatResult (.vftanh x) x (fun a _ _ => approxOp 20 ftanh md a))
  ∧ (∀ md a : Nat, a < 2 ^ 32 →
  let x := Fmt.fp32.valueFtz (bitAt md 2) a
  let r := frnd md a
  let y := Fmt.fp32.value r.val
  r.counts = []
  ∧ (x.isNaN = true → r.val = 0x7FC00000 ∧ r.flags = if x.isSig then flagNV else 0#5)
  ∧ (x.isInf = true → r.val = a ∧ r.flags = 0#5)
  ∧ (x.finite = true → r.flags = 0#5 ∧ y.finite = true ∧ y.sign = x.sign ∧ ∃ i : Int, y.rat = (i : Rat)
      ∧ match RMode.ofBits md with
        | .rn => -1 ≤ 2 * (x.rat - i) ∧ 2 * (x.rat - i) ≤ 1 ∧ (2 * (x.rat - i) = 1 ∨ 2 * (x.rat - i) = -1 → i % 2 = 0)
        | .rz => (0 ≤ x.rat → (i : Rat) ≤ x.rat ∧ x.rat < i + 1) ∧ (x.rat ≤ 0 → x.rat ≤ i ∧ (i : Rat) - 1 < x.rat)
        | .rp => x.rat ≤ i ∧ (i : Rat) - 1 < x.rat
        | .rm => (i : Rat) ≤ x.rat ∧ x.rat < i + 1))
  ∧ (∀ (pick : Nat) (ftz : Bool) (a : Nat),
  let x := Fmt.fp32.value a
  let gives := fun (r : LaneF) (y : Rat) => (Fmt.fp32.value r.val).rat = y ∧ r.flags = 0#5 ∧ r.counts = []
  let special := fun (r : LaneF) (code : Nat) (fl : FFlags) (cs : List Nat) => r.val = code ∧ r.flags = fl ∧ r.counts = cs
  let power := fun (r : LaneF) (n : Bool) (k : Int) => (-126 ≤ k ∨ ftz = false → gives r (if n then -pow2 k else pow2 k))
    ∧ (k < -126 → ftz = true → special r (if n then 0x80000000 else 0) (flagUF ||| flagNX) [3])
  let below1 := fun (r : LaneF) => -1 ≤ (Fmt.fp32.value r.val).rat ∧ (Fmt.fp32.value r.val).rat ≤ 1
  (∀ s, x = .nan s → ∀ f ∈ [frcp, frsq, fexp2, flog2, fsin, fcos, ftanh],
    special (f pick ftz x) 0x7FC00000 (if s then flagNV else 0#5) [])
  ∧ (∀ n, x = .inf n → let z := if n then 0x80000000 else 0
      special (frcp pick ftz x) z 0#5 []
      ∧ special (frsq pick ftz x) (if n then 0x7FC00000 else 0) (if n then flagNV else 0#5) (if n then [0] else [])
      ∧ special (fexp2 pick ftz x) (if n then 0 else 0x7F800000) 0#5 []
      ∧ special (flog2 pick ftz x) (if n then 0x7FC00000 else 0x7F800000) (if n then flagNV else 0#5) (if n then [0] else [])
      ∧ special (fsin pick ftz x) 0x7FC00000 flagNV [0] ∧ special (fcos pick ftz x) 0x7FC00000 flagNV [0]
      ∧ special (ftanh pick ftz x) (z + 0x3F800000) 0#5 [])
  ∧ (∀ n e, x = .fin n 0 e → let z := if n then 0x80000000 else 0
      special (frcp pick ftz x) (z + 0x7F800000) flagFDZ [1] ∧ special (frsq pick ftz x) (z + 0x7F800000) flagFDZ [1]
      ∧ special (fexp2 pick ftz x) 0x3F800000 0#5 [] ∧ special (flog2 pick ftz x) 0xFF800000 flagFDZ [1]
      ∧ special (fsin pick ftz x) z 0#5 [] ∧ special (fcos pick ftz x) 0x3F800000 0#5 [] ∧ special (ftanh pick ftz x) z 0#5 [])
  ∧ (x.rat < 0 → special (frsq pick ftz x) 0x7FC00000 flagNV [0] ∧ special (flog2 pick ftz x) 0x7FC00000 flagNV [0])
  ∧ (∀ k : Int, x.rat = pow2 k → gives (flog2 pick ftz x) (k : Rat))
  ∧ (∀ (n : Bool) (k : Int), x.rat = (if n then -pow2 k else pow2 k) → (-127 ≤ k → power (frcp pick ftz x) n (-k))
      ∧ (k < -127 → special (frcp pick ftz x) ((if n then 0x80000000 else 0) + 0x7F800000) (flagOF ||| flagNX) [1, 2]))
  ∧ (∀ k : Int, x.rat = pow2 (2 * k) → gives (frsq pick ftz x) (pow2 (-k)))
  ∧ (∀ k : Int, x.finite = true → x.rat = (k : Rat) →
      (-149 ≤ k → k ≤ 127 → power (fexp2 pick ftz x) false k)
      ∧ (127 < k → special (fexp2 pick ftz x) 0x7F800000 (flagOF ||| flagNX) [1, 2])
      ∧ (k ≠ 0 → special (fsin pick ftz x) 0 0#5 []) ∧ gives (fcos pick ftz x) (if k % 2 = 0 then 1 else -1))
  ∧ (∀ k : Int, 2 * x.rat = 2 * (k : Rat) + 1 →
      gives (fsin pick ftz x) (if k % 2 = 0 then 1 else -1) ∧ special (fcos pick ftz x) 0 0#5 [])
  ∧ (below1 (fsin pick ftz x) ∧ below1 (fcos pick ftz x) ∧ below1 (ftanh pick ftz x))
  ∧ (x.finite = true → x.rat ≠ 0 → (ftanh pick ftz x).flags &&& flagNX = flagNX
      ∧ ((∀ k : Int, 2 * x.rat ≠ (k : Rat)) → (fsin pick ftz x).flags &&& flagNX = flagNX ∧ (fcos pick ftz x).flags &&& flagNX = flagNX)
      ∧ ((∀ k : Int, -149 ≤ k → x.rat ≠ (k : Rat)) → (fexp2 pick ftz x).flags &&& flagNX = flagNX)
      ∧ ((∀ k : Int, x.rat ≠ pow2 k ∧ x.rat ≠ -pow2 k) → (frcp pick ftz x).flags &&& flagNX = flagNX
          ∧ (0 < x.rat → (flog2 pick ftz x).flags &&& flagNX = flagNX))
      ∧ (0 < x.rat → (∀ k : Int, x.rat ≠ pow2 (2 * k)) → (frsq pick ftz x).flags &&& flagNX = flagNX)
      ∧ ∀ f ∈ [frcp, frsq, fexp2, flog2, fsin, fcos, ftanh], (f pick ftz x).flags &&& flagNX = flagNX → (f pick ftz x).val % 2 ^ 31 < 2 ^ 23 →
          (f pick ftz x).flags &&& flagUF = flagUF))

/-- R117–R121: the conversions and the packing moves, each path by its table. R118, Table 5.6: each path. A path into
a format rounds the source's value under RM and SAT, never flushed; an exact one keeps it; one into an integer type
gives the integer of R76, in two's complement; the 16-bit pairs convert each half. A scale gives 2^(e − 127), and the
scale of a value is its exponent field. R119–R121, R75: VPACK rounds two FP32 values; VUNPK gives one 16-bit element
exactly, a NaN with its sign and payload (log 41); VPK8 shifts the codes of a and b in at the top of C; VUPK8 gives
the value of element B mod (32 / w). (That under FTZ VUPK8 flushes a subnormal 8-bit floating element to zero and
keeps a 6-bit and a 4-bit one is log 41's reading of R74, the model's own.) -/
def Obligations.FloatConversions : Prop :=
  ((∀ x : FR,
    let md := x.md.toNat
    FloatResult (.vcvt x) x (vcvt md) ∧ FloatResult (.vpack x) x (vpackVal md) ∧ FloatResult (.vunpk x) x (vunpkVal md)
    ∧ FloatResult (.vpk8 x) x (vpk8Val md) ∧ FloatResult (.vupk8 x) x (vupk8Val md))
  ∧ ∀ x : Half, HalfFloat (.vcvtHalf x) x.un (vcvt x.m5.toNat))
  ∧ (∀ md a b c : Nat, md < 256 → a < 2 ^ 32 →
  let cv := bits md 4 0
  let mode := RMode.ofBits (bits md 7 6)
  let sat := bitAt md 5
  let r := vcvt md a b c
  let x := Fmt.fp32.value a
  let is := fun (n : Nat × FFlags) => r.val = n.1 ∧ r.flags = n.2
  let whole := fun (w : Nat) (i : Int × FFlags) => (r.val = (i.1 % (2 ^ w : Nat)).toNat ∧ r.flags = i.2 ∧ r.counts = [])
  let exactly := fun (y : FVal) => r.val < 2 ^ 32
    ∧ (y.finite = true → (Fmt.fp32.value r.val).rat = y.rat ∧ (Fmt.fp32.value r.val).sign = y.sign ∧ r.flags = 0#5)
    ∧ (∀ n, y = .inf n → r.val = (if n then 0xFF800000 else 0x7F800000) ∧ r.flags = 0#5)
    ∧ (∀ n, y = .nan n → r.val = 0x7FC00000 ∧ r.flags = if n then flagNV else 0#5)
  let halves := fun (h : Nat → Nat × FFlags) => is ((h (a % 65536)).1 + (h (a / 65536)).1 * 65536, (h (a % 65536)).2 ||| (h (a / 65536)).2)
  let int16 := fun (i : Int × FFlags) => ((i.1 % (2 ^ 16 : Nat)).toNat, i.2)
  let short := fun (h : Nat) => FVal.ofInt (BitVec.ofNat 16 h).toInt
  (cv = 0x00 → is (Fmt.fp16.round mode false sat x)) ∧ (cv = 0x01 → is (Fmt.bf16.round mode false sat x))
  ∧ (cv = 0x02 → exactly (Fmt.fp16.value (a % 65536))) ∧ (cv = 0x03 → exactly (Fmt.bf16.value (a % 65536)))
  ∧ (cv = 0x04 → whole 32 (x.toInt mode (-2 ^ 31) (2 ^ 31 - 1))) ∧ (cv = 0x05 → whole 32 (x.toInt mode 0 (2 ^ 32 - 1)))
  ∧ (cv = 0x06 → is (Fmt.fp32.round mode false false (FVal.ofInt (BitVec.ofNat 32 a).toInt)))
  ∧ (cv = 0x07 → is (Fmt.fp32.round mode false false (FVal.ofInt a)))
  ∧ (cv = 0x08 → halves (fun h => Fmt.bf16.round mode false sat (Fmt.fp16.value h)))
  ∧ (cv = 0x09 → halves (fun h => Fmt.fp16.round mode false sat (Fmt.bf16.value h)))
  ∧ (cv = 0x0A → halves (fun h => int16 ((Fmt.fp16.value h).toInt mode (-2 ^ 15) (2 ^ 15 - 1))))
  ∧ (cv = 0x0B → halves (fun h => Fmt.fp16.round mode false false (short h)))
  ∧ (cv = 0x0C → halves (fun h => int16 ((Fmt.bf16.value h).toInt mode (-2 ^ 15) (2 ^ 15 - 1))))
  ∧ (cv = 0x0D → halves (fun h => Fmt.bf16.round mode false false (short h)))
  ∧ (cv = 0x0E → exactly (Fmt.e4m3.value (a % 256))) ∧ (cv = 0x0F → exactly (Fmt.e5m2.value (a % 256)))
  ∧ (cv = 0x10 → is (Fmt.e4m3.round mode false sat x)) ∧ (cv = 0x11 → is (Fmt.e5m2.round mode false sat x))
  ∧ (cv = 0x12 → r.flags = 0#5 ∧ (a % 256 = 255 → r.val = 0x7FC00000)
      ∧ (a % 256 ≠ 255 → (Fmt.fp32.value r.val).rat = pow2 ((a % 256 : Nat) - 127)))
  ∧ (cv = 0x13 → is (bits a 30 23, if bits a 30 23 = 255 then flagNV else 0#5) ∧ r.counts = []))
  ∧ (∀ md a b c : Nat, md < 256 → a < 2 ^ 32 → b < 2 ^ 32 → c < 2 ^ 32 →
  let mode := RMode.ofBits md
  let ftz := bitAt md 2
  let sat := bitAt md 3
  let h := if bitAt md 4 then Fmt.bf16 else Fmt.fp16
  let ef := bits md 7 4
  let w := if ef = 4 ∨ ef = 7 ∨ ef = 8 then 4 else 8
  let v := Fmt.fp32.valueFtz ftz
  let int := fun (k : Nat) (i : Int × FFlags) => ((i.1 % (2 ^ k : Nat)).toNat, i.2)
  let code := fun (x : Nat) =>
    if ef = 0 then Fmt.e4m3.round mode ftz sat (v x) else if ef = 1 then Fmt.e5m2.round mode ftz sat (v x)
    else if ef = 2 then Fmt.e2m3.round mode ftz sat (v x) else if ef = 3 then Fmt.e3m2.round mode ftz sat (v x)
    else if ef = 4 then Fmt.e2m1.round mode ftz sat (v x) else if ef = 5 then int 8 ((v x).toInt mode (-128) 127)
    else if ef = 6 then int 8 ((v x).toInt mode 0 255) else if ef = 7 then int 4 ((v x).toInt mode (-8) 7)
    else if ef = 8 then int 4 ((v x).toInt mode 0 15) else int 8 (((v x).scale 6).toInt mode (-128) 127)
  (let p := vpackVal md a b c
   p.val = (h.round mode ftz sat (v a)).1 + (h.round mode ftz sat (v b)).1 * 65536
     ∧ p.flags = (h.round mode ftz sat (v a)).2 ||| (h.round mode ftz sat (v b)).2)
  ∧ (let e := if bitAt md 5 then a / 65536 else a % 65536
     let y := h.valueFtz ftz e
     let u := vunpkVal md a b c
     u.flags = 0#5 ∧ u.counts = []
     ∧ (y.finite = true → (Fmt.fp32.value u.val).rat = y.rat ∧ (Fmt.fp32.value u.val).sign = y.sign)
     ∧ (∀ n, y = .inf n → u.val = if n then 0xFF800000 else 0x7F800000)
     ∧ (y.isNaN = true → u.val = (e / 32768) * 2 ^ 31 + 0x7F800000 + e % 2 ^ h.mb * 2 ^ (23 - h.mb)))
  ∧ (ef < 10 → let p := vpk8Val md a b c
      p.val = c / 2 ^ (2 * w) + (code a).1 * 2 ^ (32 - 2 * w) + (code b).1 * 2 ^ (32 - w) ∧ p.flags = (code a).2 ||| (code b).2
      ∧ p.val < 2 ^ 32)
  ∧ (ef < 10 →
      let e := a / 2 ^ (w * (b % (32 / w))) % 2 ^ w
      let f := fun (f : Fmt) (k : Nat) => f.valueFtz (ftz && decide (ef ≤ 1)) (e % 2 ^ k)
      let y := if ef = 0 then f .e4m3 8 else if ef = 1 then f .e5m2 8 else if ef = 2 then f .e2m3 6 else if ef = 3 then f .e3m2 6
        else if ef = 4 then f .e2m1 4 else if ef = 5 then FVal.ofInt (BitVec.ofNat 8 e).toInt else if ef = 6 then FVal.ofInt e
        else if ef = 7 then FVal.ofInt (BitVec.ofNat 4 e).toInt else if ef = 8 then FVal.ofInt e
        else (FVal.ofInt (BitVec.ofNat 8 e).toInt).scale (-6)
      let u := vupk8Val md a b c
      u.flags = 0#5
      ∧ (y.finite = true → (Fmt.fp32.value u.val).rat = y.rat ∧ (Fmt.fp32.value u.val).sign = y.sign)
      ∧ (∀ n, y = .inf n → u.val = if n then 0xFF800000 else 0x7F800000) ∧ (y.isNaN = true → u.val = 0x7FC00000)))

/-- R72, R73: rounding toward zero gives the greatest code of the format whose value is at most x: for a finite x
above zero the code is at most the largest finite one, its value is at most x, and the next finite code's value is
above x. R75, R77: an operation with a NaN operand writes the format's canonical NaN, and raises NV where an operand
is signalling. R76, R77: a conversion to an integer type gives 0 for a NaN, the bound by its sign for an infinity, and
otherwise a value within the type, NV marking the value that had to be brought back to a bound, NX every one that is
not exact (that NX stands beside NV for a finite value and not for an infinity is the model's reading, log 62). R78:
the signs of a zero sum, the ∞ cases and the NaN cases of an exact sum. -/
def Obligations.FloatValues : Prop :=
  (∀ (f : Fmt) (m : Nat) (e : Int), 0 < m →
  let x := FVal.fin false m e
  let c := (f.round .rz false false x).1
  c ≤ f.maxCode ∧ (f.value c).cmp x ≤ 0 ∧ (c < f.maxCode → 0 < (f.value (c + 1)).cmp x))
  ∧ (∀ (o : FOp) (f : Fmt) (md a b c : Nat), f.hasNaN = true →
  let vs := ([a, b, c].take o.arity).map f.value
  (vs.any FVal.isNaN = true → (farith o f md a b c).val = f.nanCode)
  ∧ (vs.any FVal.isSig = true → (farith o f md a b c).flags &&& flagNV = flagNV))
  ∧ (∀ (mode : RMode) (lo hi : Int) (x : FVal), lo ≤ 0 → 0 ≤ hi →
  let r := x.toInt mode lo hi
  lo ≤ r.1 ∧ r.1 ≤ hi ∧ (x.isNaN = true → r = (0, flagNV)) ∧ (x = .inf false → r = (hi, flagNV))
  ∧ (x = .inf true → r = (lo, flagNV))
  ∧ ∀ n m e, x = .fin n m e →
    ((roundInt mode n m e).1 < lo → r = (lo, flagNV ||| flagNX)) ∧ (hi < (roundInt mode n m e).1 → r = (hi, flagNV ||| flagNX))
    ∧ (lo ≤ (roundInt mode n m e).1 → (roundInt mode n m e).1 ≤ hi →
        r.1 = (roundInt mode n m e).1 ∧ r.2 = if ((r.1 : Int) : Rat) = x.rat then 0#5 else flagNX))
  ∧ (∀ (mode : RMode) (ts : List FVal),
  let r := FVal.sum mode ts
  (ts.any FVal.isNaN = true → r.1.isNaN = true)
  ∧ (FVal.inf false ∈ ts → FVal.inf true ∈ ts → r.1.isNaN = true ∧ r.2 = flagNV)
  ∧ (ts.any FVal.isNaN = false → FVal.inf false ∈ ts → FVal.inf true ∉ ts → r = (.inf false, 0#5))
  ∧ (ts.any FVal.isNaN = false → FVal.inf true ∈ ts → FVal.inf false ∉ ts → r = (.inf true, 0#5))
  ∧ (ts.all FVal.isZero = true → ts ≠ [] → ∃ e, r = (.fin (ts.all FVal.sign) 0 e, 0#5))
  ∧ ((∀ t ∈ ts, t.isNaN = false ∧ t.isInf = false) → ts.all FVal.isZero = false → sumUnits (minExp ts 0) ts = 0 →
      ∃ e, r = (.fin (mode == .rm) 0 e, 0#5)))

/-! ## Words between lanes (ch. 10) -/

/-- R189: the source lane of each move, none where the table says so; none of the quad moves leaves its quad. R186:
Fetch gives A of the source lane where it shares with the destination, C with the filtered mark where it does not, and
C alone where there is no source or no such lane. -/
def Obligations.LaneMoves : Prop :=
  (∀ x : FR,
  let w := match (x.md.extractLsb' 0 3).toNat with
    | 0 => 96 | 1 => 32 | 2 => 16 | 3 => 8 | _ => 4
  let base := fun j => w * (j / w)
  Moves (.vshuf x) x (fun j b => if b < w then some (base j + b) else none)
  ∧ Moves (.vshufup x) x (fun j b => if base j + b ≤ j then some (j - b) else none)
  ∧ Moves (.vshufdn x) x (fun j b => if j + b < base j + w then some (j + b) else none)
  ∧ Moves (.vshufx x) x (fun j b =>
      let o := (j - base j) ^^^ (if w = 96 then b % 128 else b % w)
      if o < w then some (base j + o) else none)
  ∧ (kVec x.d = true → Moves (.vbcast x) x (fun _ b => if b < 96 then some b else none))
  ∧ Moves (.qswap x) x (fun j b => some (4 * (j / 4) + (j % 4 ^^^ b % 4)))
  ∧ Moves (.qbcast x) x (fun j b => some (4 * (j / 4) + b % 4)))
  ∧ (∀ (g : Group) (c : Ctx) (x : FR) (j i : Nat),
  g.fetch c x j none = (g.src c j x.c, false)
  ∧ (AMap.find i g.lanes = none → g.fetch c x j (some i) = (g.src c j x.c, false))
  ∧ ((AMap.find i g.lanes).isSome = true → g.shares j i = true → g.fetch c x j (some i) = (g.src c i x.a, false))
  ∧ ((AMap.find i g.lanes).isSome = true → g.shares j i = false → g.fetch c x j (some i) = (g.src c j x.c, true)))

/-- R191, R192, R194: VSCAN folds over the sharing contributors of the segment up to lane j, or below it with EXCL;
VRED over those of the whole segment. That a helper lane raises no held flag and feeds no counter is the model's
reading (log 58), and so is that a lone contributor passes its bits without a flag (log 64). Table 8.2, R191: the fold
goes from the first contributor to the last. Each step adds, takes the lesser or the greater, signed or unsigned, or
combines bits; .fadd rounds a sum in rn, .fmin and .fmax choose; the flags of all steps are raised. -/
def Obligations.LaneFolds : Prop :=
  (∀ x : FR,
  let w := match (x.md.extractLsb' 0 3).toNat with
    | 0 => 96 | 1 => 32 | 2 => 16 | 3 => 8 | _ => 4
  Folds (.vscan x) x (fun j k => j / w = k / w ∧ (k < j ∨ (x.md.getLsbD 7 = false ∧ k = j)))
  ∧ Folds (.vred x) x (fun j k => j / w = k / w))
  ∧ (∀ (opr a b : Nat) (l : List Nat), a < 2 ^ 32 → b < 2 ^ 32 → (∀ x ∈ l, x < 2 ^ 32) →
  let p := foldOp opr a l
  let q := foldOp opr a (l ++ [b])
  let x := BitVec.ofNat 32 p.1
  let y := BitVec.ofNat 32 b
  let z := BitVec.ofNat 32 q.1
  foldOp opr a [] = (a, 0#5) ∧ q.1 < 2 ^ 32
  ∧ (opr < 8 → q.2 = 0#5)
  ∧ (opr = 0 → z = x + y) ∧ (opr = 1 → z = if x.sle y then x else y) ∧ (opr = 2 → z = if x.sle y then y else x)
  ∧ (opr = 3 → z = if x.ule y then x else y) ∧ (opr = 4 → z = if x.ule y then y else x)
  ∧ (opr = 5 → z = x &&& y) ∧ (opr = 6 → z = x ||| y) ∧ (opr = 7 → z = x ^^^ y)
  ∧ (opr = 8 → let r := farith .add .fp32 0 p.1 b 0
      q = (r.val, p.2 ||| r.flags))
  ∧ (opr = 9 ∨ opr = 10 → let r := fminmax (decide (opr = 10)) false .fp32 false p.1 b
      q = (r.val, p.2 ||| r.flags)))

/-- R190, R193, R198: VBCAST with a scalar destination writes A(B) once, VRDS the fold over every contributor,
sign-extended for .add, .min and .max; neither writes where no lane takes part, and a failed owner check traps first.
-/
def Obligations.ScalarExchange : Prop := ∀ (x : FR) (s : State) (gid : Nat) (g : Group),
  let b := g.src (s.ctx g) 0 x.b
  let ls := g.parts x.g.toNat
  let opr := (x.md.extractLsb' 3 4).toNat
  (Runs (.vbcast x) (x.spans 1 1 1) s gid g → kScal x.d = true →
    (∀ info, g.ownerCheck = some info → exec (.vbcast x) s = .next (s.enterTrap gid g 0x03 info g.pc))
    ∧ (∀ lead, g.ownerCheck = none → g.leading = some lead →
        ((AMap.find b g.lanes).isSome = true → g.shares lead b = true →
          (ls ≠ [] → Leaves (.vbcast x) s gid (g.setS (regNum x.d) (g.src (s.ctx g) b x.a)).advance)
          ∧ (ls = [] → Leaves (.vbcast x) s gid g.advance))
        ∧ (AMap.find b g.lanes = none ∨ g.shares lead b = false →
          exec (.vbcast x) s = .next (s.enterTrap gid g 0x03 (0x43 + min b 127 * 256) g.pc))))
  ∧ (Runs (.vrds x) (x.spans 1 1 1) s gid g →
    (∀ info, g.ownerCheck = some info → exec (.vrds x) s = .next (s.enterTrap gid g 0x03 info g.pc))
    ∧ (g.ownerCheck = none → ls = [] → Leaves (.vrds x) s gid g.advance)
    ∧ (∀ a rest, g.ownerCheck = none → ls.map (fun k => g.src (s.ctx g) k x.a) = a :: rest → opr < 8 →
        let v := BitVec.ofNat 32 (foldOp opr a rest).1
        Leaves (.vrds x) s gid (g.setS (regNum x.d) (if opr ≤ 2 then v.signExtend 64 else v.zeroExtend 64).toNat).advance)
    ∧ (∀ a rest, g.ownerCheck = none → ls.map (fun k => g.src (s.ctx g) k x.a) = a :: rest → 8 ≤ opr →
        let r := foldOp opr a rest
        ∃ h, exec (.vrds x) s = .next ((s.setGroup gid h).count g (foldCounts opr (a :: rest) r))
          ∧ h = { g with s := (g.setS (regNum x.d) r.1).s, lanes := h.lanes, pc := g.pc + 8 } ∧ RaisesF g h ls (fun _ => r.2)))

/-- R195–R197: the ballots. VOTE.mask gives the mask of the voters with the predicate, to a triple of registers of
each lane or once to a scalar triple; .some and .every give one bit; VMATCH the mask of the voters with the same
value. (A vector triple from v254 up passes every allocation and traps: IllegalWords.) With no lane that takes part, a
scalar triple is left as it was and the PC moves on. -/
def Obligations.Ballots : Prop := ∀ (x : FR) (s : State) (gid : Nat) (g : Group),
  let gd := x.g.toNat
  let opr := (x.md.extractLsb' 3 4).toNat
  let word := fun (ls : List Nat) (w : Nat) => BitVec.ofNat 32 (laneWord ls w)
  (Runs (.vote x) (x.spans 3 1 1) s gid g →
    (opr = 0 → kVec x.d = true → regNum x.d < 254 → ∃ h, Leaves (.vote x) s gid h
      ∧ Asks g h gd (fun _ vs w => word (vs.filter (fun k => g.pred k x.a)) w) (regNum x.d))
    ∧ (opr = 0 → kScal x.d = true → g.ownerCheck = none → g.parts gd ≠ [] →
        let ls := (g.voters gd).filter (fun k => g.pred k x.a)
        let d := regNum x.d
        Leaves (.vote x) s gid
          (((g.setS d (laneWord ls 0)).setS (d + 1) (laneWord ls 1)).setS (d + 2) (laneWord ls 2)).advance)
    ∧ (opr = 0 → kScal x.d = true → g.ownerCheck = none → g.parts gd = [] → Leaves (.vote x) s gid g.advance)
    ∧ (opr = 0 → kScal x.d = true → ∀ info, g.ownerCheck = some info →
        exec (.vote x) s = .next (s.enterTrap gid g 0x03 info g.pc))
    ∧ (opr = 1 ∨ opr = 2 → ∃ h, Leaves (.vote x) s gid h ∧ h = { g with q := h.q, lanes := h.lanes, pc := g.pc + 8 }
        ∧ WritesQ g h (g.parts gd) (regNum x.d) (fun j =>
            if opr = 1 then ((g.voters gd).filter (g.shares j)).any (fun k => g.pred k x.a)
            else ((g.voters gd).filter (g.shares j)).all (fun k => g.pred k x.a))
        ∧ SetsStat g h (g.parts gd) (fun j => if ∃ k ∈ g.voters gd, g.shares j k = false then statFILT else 0#32)))
  ∧ (Runs (.vmatch x) (x.spans 3 1 1) s gid g → regNum x.d < 254 → ∃ h, Leaves (.vmatch x) s gid h
      ∧ Asks g h gd (fun j vs w => word (vs.filter (fun k => g.src (s.ctx g) k x.a = g.src (s.ctx g) j x.a)) w) (regNum x.d))

/-! ## Memory words (ch. 06) -/

/-- R127, R128: the address of a lane, of a scalar access, and a window offset, which is exact; the offset fields of
the mnemonics by Table 6.1. -/
def Obligations.MemoryAddresses : Prop := ∀ (g : Group) (c : Ctx) (x : FM) (off : Int) (j : Nat),
  let none := x.b = .imm 0x7F#7
  (BitVec.ofNat 64 (g.vaddr c x off j)
      = g.opWide c j x.a + (if none then 0 else (g.op32 c j x.b).signExtend 64 <<< x.sz.toNat) + BitVec.ofInt 64 off)
  ∧ (BitVec.ofNat 64 (g.saddr c x off)
      = g.op64 c x.a + (if none then 0 else g.op64 c x.b <<< x.sz.toNat) + BitVec.ofInt 64 off)
  ∧ g.vaddr c x off j < 2 ^ 64 ∧ g.saddr c x off < 2 ^ 64
  ∧ g.woff c x j = (g.op32 c j x.a).toInt + (if none then 0 else (g.op32 c j x.b).toInt * 2 ^ x.sz.toNat) + x.off.toInt
  ∧ fmOff x = x.off.toInt ∧ stOff x = (x.off.extractLsb' 0 12).toInt ∧ stAck x = x.off.getLsbD 12
  ∧ atOff x = (x.off.extractLsb' 0 10).toInt

/-- R129, R136, R137, R140: VLD and VST. An address that is no multiple of the size, in the lowest working lane that
has one, traps with reason 0x31; otherwise the word issues one operation with an access of each working lane at its
address, a store's data read now, and a helper lane's registers take 0 from a load. R144: VPREF changes no register
and no memory, starts no operation and parks no lane, whatever its addresses. -/
def Obligations.LaneAccesses : Prop :=
  (∀ (x : FM) (s : State) (gid : Nat) (g : Group),
  let c := s.ctx g
  let n := szRegs x.sz.toNat
  let size : Nat := 2 ^ x.sz.toNat
  let ls := g.working x.g
  let d := regNum x.d
  (Runs (.vld x) (x.spans n 2) s gid g →
    let a := g.vaddr c x (fmOff x)
    ((∀ j ∈ ls, a j % size = 0) → exec (.vld x) s = .next ((s.setGroup gid
        ((g.helping x.g).foldl (fun h j => h.putRegs j n d 0) { g with pc := g.pc + 8 })).issueMem gid
        { Op.make .ld (.load false d) (ls.map (fun j => LaneReq.make j (a j))) ls with
          size := size, cls := x.cl.toNat, acq := x.sc.toNat }))
    ∧ ∀ j before after, ls = before ++ j :: after → (∀ i ∈ before, a i % size = 0) → a j % size ≠ 0 →
        exec (.vld x) s = .next (s.enterTrap gid g 0x08 (0x31 + 256 * j) g.pc))
  ∧ (Runs (.vst x) (x.spans n 2) s gid g →
    let a := g.vaddr c x (stOff x)
    ((∀ j ∈ ls, a j % size = 0) → exec (.vst x) s = .next ((
        if stAck x = true ∨ 2 ≤ x.sc.toNat then (s.setGroup gid { g with pc := g.pc + 8 }).commit g.block
        else s.setGroup gid { g with pc := g.pc + 8 }).issueMem gid
        { Op.make .st (.store false d (stAck x)) (ls.map (fun j =>
            { LaneReq.make j (a j) with data := g.regsFrom j n d % 2 ^ (8 * size) })) ls with
          size := size, cls := x.cl.toNat, rel := x.sc.toNat }))
    ∧ ∀ j before after, ls = before ++ j :: after → (∀ i ∈ before, a i % size = 0) → a j % size ≠ 0 →
        exec (.vst x) s = .next (s.enterTrap gid g 0x08 (0x31 + 256 * j) g.pc)))
  ∧ (∀ (x : FM) (s : State) (gid : Nat) (g : Group),
  Runs (.vpref x) (x.spans 1 2) s gid g → ∃ t, exec (.vpref x) s = .next t
    ∧ AMap.find gid t.groups = some { g with pc := g.pc + 8 } ∧ OthersKeep s t gid ∧ SameMemory s t
    ∧ t.blocks = s.blocks ∧ ∀ k r, AMap.find k t.reqs = some r → AMap.find k s.reqs = none → r.ask = .prefetch)

/-- R142, R143: the scratch windows and the register windows. Alignment is checked first, in the working lanes; then
the window's bounds, of the working lanes for scratch and of every lane that takes part for register slots. -/
def Obligations.WindowAccesses : Prop := ∀ (x : FM) (s : State) (gid : Nat) (g : Group),
  let c := s.ctx g
  let n := szRegs x.sz.toNat
  let size : Nat := 2 ^ x.sz.toNat
  let ws := g.working x.g
  let ls := g.parts x.g.toNat
  let d := regNum x.d
  let o := g.woff c x
  let aligned := ∀ j ∈ ws, o j % size = 0
  let inScratch := ∀ j ∈ ws, 0 ≤ o j ∧ o j + size ≤ s.scratchOf g
  let inSlots := ∀ j ∈ ls, 0 ≤ o j ∧ o j + size ≤ 64 * g.alloc
  let moved := { g with pc := g.pc + 8 }
  let put := fun (h : Group) (path : Path) (kind : OpKind) (rs : List LaneReq) (on : List Nat) =>
    (s.setGroup gid h).issueLocal gid { Op.make path kind rs on with size := size, cls := x.cl.toNat }
  (Runs (.vlds x) (x.spans n 1) s gid g → aligned → inScratch → exec (.vlds x) s = .next (put
      ((g.helping x.g).foldl (fun h j => h.putRegs j n d 0) moved) .ld (.scratchLoad d) (ws.map (g.scratchReq c x)) ws))
  ∧ (Runs (.vsts x) (x.spans n 1) s gid g → aligned → inScratch → exec (.vsts x) s = .next (put moved .st .scratchStore
      (ws.map (fun j => { g.scratchReq c x j with data := g.regsFrom j n d % 2 ^ (8 * size) })) ws))
  ∧ (Runs (.vldw x) (x.spans n 1) s gid g → aligned → inSlots → exec (.vldw x) s = .next (put moved .ld (.slotLoad d)
      (ls.map (fun j => { LaneReq.make j (o j).toNat with val := g.slotRead j (o j).toNat size, st := .answered })) ls))
  ∧ (Runs (.vstw x) (x.spans n 1) s gid g → aligned → inSlots → exec (.vstw x) s = .next (put moved .st .slotStore
      (ls.map (fun j => { LaneReq.make j (o j).toNat with
        data := g.regsFrom j n d % 2 ^ (8 * size), st := .answered })) ls))
  ∧ (∀ i ∈ [Instr.vlds x, Instr.vsts x], Runs i (x.spans n 1) s gid g → aligned → ¬ inScratch →
      ∃ j ∈ ws, (o j < 0 ∨ s.scratchOf g < o j + size) ∧ exec i s = .next (s.enterTrap gid g 0x08 (0x32 + 256 * j) g.pc))
  ∧ (∀ i ∈ [Instr.vldw x, Instr.vstw x], Runs i (x.spans n 1) s gid g → aligned → ¬ inSlots →
      ∃ j ∈ ls, (o j < 0 ∨ 64 * g.alloc < o j + size) ∧ exec i s = .next (s.enterTrap gid g 0x09 (0x22 + 256 * j) g.pc))
  ∧ ∀ i ∈ [Instr.vlds x, Instr.vsts x, Instr.vldw x, Instr.vstw x], Runs i (x.spans n 1) s gid g → ¬ aligned →
      ∃ j ∈ ws, o j % size ≠ 0 ∧ exec i s = .next (s.enterTrap gid g 0x08 (0x31 + 256 * j) g.pc)

/-- R129, R145: SLD, SST and SLDC act once for the group. SLD and SST go through the leading lane, after the owner
checks and then the misalignment trap 0x31; SLDC takes an offset into the kernel's data section and checks no owner.
-/
def Obligations.ScalarAccesses : Prop := ∀ (x : FM) (s : State) (gid : Nat) (g : Group),
  let c := s.ctx g
  let size : Nat := 2 ^ x.sz.toNat
  let d := regNum x.d
  let moved := s.setGroup gid { g with pc := g.pc + 8 }
  let op := fun (path : Path) (kind : OpKind) (r : LaneReq) =>
    { Op.make path kind [r] g.active with size := size, cls := x.cl.toNat, stamp := g.stampOf g.lead }
  (Runs (.sld x) (x.spans 1 1) s gid g → g.ownerCheck = none → g.saddr c x (fmOff x) % size = 0 →
    exec (.sld x) s = .next (moved.issueMem gid
      { op .ld (.load true d) (LaneReq.make g.lead (g.saddr c x (fmOff x))) with acq := x.sc.toNat }))
  ∧ (Runs (.sst x) (x.spans 1 1) s gid g → g.ownerCheck = none → g.saddr c x (stOff x) % size = 0 →
    exec (.sst x) s = .next ((if stAck x = true ∨ 2 ≤ x.sc.toNat then moved.commit g.block else moved).issueMem gid
      { op .st (.store true d (stAck x))
          { LaneReq.make g.lead (g.saddr c x (stOff x)) with data := g.getS d % 2 ^ (8 * size) } with rel := x.sc.toNat }))
  ∧ (∀ k info, g.ownerCheck = some info → k = 0x03 →
      (Runs (.sld x) (x.spans 1 1) s gid g → exec (.sld x) s = .next (s.enterTrap gid g k info g.pc))
      ∧ (Runs (.sst x) (x.spans 1 1) s gid g → exec (.sst x) s = .next (s.enterTrap gid g k info g.pc)))
  ∧ (g.ownerCheck = none →
      (Runs (.sld x) (x.spans 1 1) s gid g → g.saddr c x (fmOff x) % size ≠ 0 → exec (.sld x) s = .next (s.enterTrap gid g 0x08 0x31 g.pc))
      ∧ (Runs (.sst x) (x.spans 1 1) s gid g → g.saddr c x (stOff x) % size ≠ 0 → exec (.sst x) s = .next (s.enterTrap gid g 0x08 0x31 g.pc)))
  ∧ (Runs (.sldc x) (x.spans 1 1) s gid g → ∀ b, s.blockOf g = some b →
    let a := g.saddr c x (fmOff x)
    (a % size = 0 → a + size ≤ b.node.dataSize → exec (.sldc x) s = .next (moved.issueLocal gid
      { Op.make .ld (.constLoad d) [{ LaneReq.make 0 a with ia := b.node.dataIa + a, st := .answered }] g.active with
        size := size, cls := x.cl.toNat }))
    ∧ (a % size ≠ 0 → exec (.sldc x) s = .next (s.enterTrap gid g 0x08 0x31 g.pc))
    ∧ (a % size = 0 → b.node.dataSize < a + size → exec (.sldc x) s = .next (s.enterTrap gid g 0x08 0x33 g.pc)))

/-- R146–R148: VAMO and SAMO read the operand and, under CAS, the value compared from the registers of Table R147, and
issue one operation of the AT path; its acquire and release sides have the word's scope as ORD says. -/
def Obligations.Atomics : Prop := ∀ (op : AOp) (x : FM) (s : State) (gid : Nat) (g : Group),
  let c := s.ctx g
  let size : Nat := 2 ^ x.sz.toNat
  let n := size / 4
  let ls := g.working x.g
  let d := regNum x.d
  let acq := if x.off.getLsbD 11 then x.sc.toNat else 0
  let rel := if x.off.getLsbD 12 then x.sc.toNat else 0
  let tag := fun k => if x.off.getLsbD 10 then some (d + k) else none
  let moved := s.setGroup gid { g with pc := g.pc + 8 }
  let start := if 2 ≤ rel then moved.commit g.block else moved
  (Runs (.vamo op x) (x.spans (vamoRegs op x) 2) s gid g →
    let a := g.vaddr c x (atOff x)
    ((∀ j ∈ ls, a j % size = 0) → exec (.vamo op x) s = .next (start.issueMem gid
      { Op.make .at (.atomic false d op (tag (if op = .cas then 2 * n else n))) (ls.map (fun j =>
          { LaneReq.make j (a j) with data := g.regsFrom j n (if op = .cas then d + n else d),
                                      cmp := if op = .cas then g.regsFrom j n d else 0 })) ls with
        size := size, cls := x.cl.toNat, acq := acq, rel := rel }))
    ∧ ∀ j before after, ls = before ++ j :: after → (∀ i ∈ before, a i % size = 0) → a j % size ≠ 0 →
        exec (.vamo op x) s = .next (s.enterTrap gid g 0x08 (0x31 + 256 * j) g.pc))
  ∧ (Runs (.samo op x) (x.spans 1 1) s gid g →
    let a := g.saddr c x (atOff x)
    (g.ownerCheck = none → a % size = 0 → exec (.samo op x) s = .next (start.issueMem gid
      { Op.make .at (.atomic true d op (tag (if op = .cas then 2 else 1)))
          [{ LaneReq.make g.lead a with data := g.getS (if op = .cas then d + 1 else d) % 2 ^ (8 * size),
                                        cmp := if op = .cas then g.getS d % 2 ^ (8 * size) else 0 }] g.active with
        size := size, cls := x.cl.toNat, stamp := g.stampOf g.lead, acq := acq, rel := rel }))
    ∧ (∀ info, g.ownerCheck = some info → exec (.samo op x) s = .next (s.enterTrap gid g 0x03 info g.pc))
    ∧ (g.ownerCheck = none → a % size ≠ 0 → exec (.samo op x) s = .next (s.enterTrap gid g 0x08 0x31 g.pc)))

/-! ## Engines, messages, fences and rendezvous (ch. 09, 14–16) -/

/-- R318, R322, Table 15.7: CPY, CPYT and DISCARD put a command on the CP path, with the code of the first check it
fails; one that fails none commits the block first. TTAG sets the group's tensor id. -/
def Obligations.EngineCommands : Prop := ∀ (x : FR) (s : State) (gid : Nat) (g : Group),
  let c := s.ctx g
  let a := g.srcU c x.a
  let b := g.srcU c x.b
  let n := g.srcU c x.c
  let d := regNum x.d
  let moved := s.setGroup gid { g with pc := g.pc + 8 }
  let gives := fun (i : Instr) (kind : Nat → OpKind) (cls code : Nat) =>
    exec i s = .next ((if code = 0 then moved.commit g.block else moved).newOp gid
      { Op.make .cp (kind code) [LaneReq.make g.lead 0] g.active with stamp := g.stampOf g.lead, cls := cls, size := 16 })
  (Runs (.cpy x) [] s gid g →
    gives (.cpy x) (fun k => .copy d a b n 1 0 0 k) (x.md.extractLsb' 0 2).toNat
      (if g.ownerCode ≠ 0 then g.ownerCode else if a % 16 ≠ 0 ∨ b % 16 ≠ 0 ∨ n % 16 ≠ 0 then 0x03
       else if 2 ^ 32 < n then 0x04 else 0))
  ∧ (Runs (.cpyt x) [] s gid g →
    let r := regNum x.c
    let w := g.getS r % 2 ^ 32
    let rows := g.getS r / 2 ^ 32
    let sp := g.getS (r + 1)
    let dp := g.getS (r + 2)
    gives (.cpyt x) (fun k => .copy d a b w rows sp dp k) (x.md.extractLsb' 0 2).toNat
      (if g.ownerCode ≠ 0 then g.ownerCode
       else if a % 16 ≠ 0 ∨ b % 16 ≠ 0 ∨ w % 16 ≠ 0 ∨ sp % 16 ≠ 0 ∨ dp % 16 ≠ 0 then 0x03
       else if rows = 0 ∨ w = 0 ∨ 2 ^ 32 - 16 < w then 0x04 else 0))
  ∧ (Runs (.discard x) [] s gid g → gives (.discard x) (fun k => .discard d (a % 4096) k) 0 g.ownerCode)
  ∧ (Runs (.ttag x) [] s gid g → Leaves (.ttag x) s gid { g with tensor := a % 4096, pc := g.pc + 8 })

/-- R287, R205: a send leaves one entry a working lane in the block's commit buffer, for the block A modulo the
cohort's size at the wrapped, aligned offset; where the buffer has no room for them, the block commits first; a kernel
that declares no bank sends nothing, and its word joins the XC path as any other. A read takes the front bank's bytes
now, 0 for helper lanes and where the kernel has no bank. R289: CBAR is a delivery point, takes the group's next
cohort token, commits the block and starts an operation that the cohort's phase completes. R406, R408, R409: COLL
joins the XC path. A command with an owner code or a descriptor address that is no multiple of 16 carries that code
and does nothing more at issue; another begins by reading its descriptor. -/
def Obligations.CohortWords : Prop :=
  (∀ (x : FR) (s : State) (gid : Nat) (g : Group) (b : Block),
  s.blockOf g = some b →
  let c := s.ctx g
  let n := xputRegs x
  let size := 4 * n
  let d := regNum x.d
  let at_ := fun j => bankOffset b.node.xbank (g.src c j x.b) size
  (Runs (.xputSend x) (x.spans n 1 1) s gid g →
    let ls := if b.node.xbank = 0 then [] else g.working x.g
    let full := decide (65536 < b.bufUsed + size * ls.length)
    let moved := s.setGroup gid { g with pc := g.pc + 8 }
    let u := if full then moved.commit g.block else moved
    let es := ls.map (fun j => BufEntry.send (g.srcU c x.a % s.cohortSize g) (at_ j) size (g.regsFrom j n d) gid u.nextId)
    ∃ t h, exec (.xputSend x) s = .next t ∧ AMap.find gid t.groups = some h ∧ h.v = g.v ∧ h.s = g.s ∧ h.pc = g.pc + 8
      ∧ (∃ o, h.ops = g.ops ++ [o] ∧ o.id = u.nextId ∧ o.kind = .xput false 0 ∧ o.path = .xc ∧ o.complete = false)
      ∧ AMap.find g.block t.blocks = some { b with buffer := (if full then [] else b.buffer) ++ es,
                                                   bufUsed := (if full then 0 else b.bufUsed) + size * es.length,
                                                   committed := b.committed || full }
      ∧ t.reqs = u.reqs ∧ t.cohorts = u.cohorts ∧ SameMemory s t ∧ OthersKeep s t gid)
  ∧ (Runs (.xputRead x) (x.spans n 1 1) s gid g → exec (.xputRead x) s = .next
      ((s.setGroup gid { g with pc := g.pc + 8 }).newOp gid
        { Op.make .xc (.xput true d) ((g.parts x.g.toNat).map (fun j =>
            { LaneReq.make j 0 with
              val := if b.node.xbank = 0 ∨ g.help j = true then 0
                else bytesAt b.banks (b.node.xbank * b.front + at_ j) size,
              st := .answered })) (g.parts x.g.toNat) with size := size })))
  ∧ (∀ (x : FR) (s : State) (gid : Nat) (g : Group), Runs (.cbar x) [] s gid g →
  ∃ t h o, exec (.cbar x) s = .next t ∧ AMap.find gid t.groups = some h ∧ OthersKeep s t gid ∧ SameMemory s t
    ∧ h = { g.deliver with cohNum := (g.cohNum + 1) % 2 ^ 32, ops := g.ops ++ [o], pc := g.pc + 8, commitTo := s.nextId }
    ∧ o.kind = .cbar g.cohNum ∧ o.path = .xc ∧ o.complete = false
    ∧ ∀ b, s.blockOf g = some b → ∃ b', t.blockOf g = some b' ∧ b'.buffer = [] ∧ b'.bufUsed = 0 ∧ b'.committed = true)
  ∧ (∀ (x : FR) (s : State) (gid : Nat) (g : Group), Runs (.coll x) [] s gid g →
  let c := s.ctx g
  let a := g.srcU c x.a
  let code := if g.ownerCode ≠ 0 then g.ownerCode else if a % 16 ≠ 0 then 0x03 else 0
  let t := (s.setGroup gid { g with pc := g.pc + 8 }).newOp gid
    { Op.make .xc (.coll (regNum x.d) a (g.srcU c x.b % 2 ^ 32) code) [LaneReq.make g.lead 0] g.active with
      stamp := g.stampOf g.lead, cls := (x.md.extractLsb' 0 2).toNat, size := 16 }
  (code ≠ 0 → exec (.coll x) s = .next t) ∧ (code = 0 → exec (.coll x) s = .next (t.startColl gid s.nextId)))

/-- R122, R329, R334, R335: FENCE and TFENCE make the group wait, after a commit where the fence orders stores at
scope .core or wider, and always for TFENCE; CMT commits and goes on; FENCE is a delivery point. R226–R230: BINIT sets
what a point expects, from 1 to 16, or the block's own count; BARV takes a token and arrives, BWAIT waits for a
token's phase unless it has completed, BSYNC does both; a split group's arrival is never registered. -/
def Obligations.SynchronisationWords : Prop :=
  (∀ (x : FR) (s : State) (gid : Nat) (g : Group),
  let stores : Bool := (x.md.getLsbD 3 || x.md.getLsbD 2) && decide (2 ≤ (x.md.extractLsb' 4 3).toNat)
  let behind := fun w : Nat => if stores then w else g.commitTo
  (Runs (.fence x) [] s gid g → ∃ t w, exec (.fence x) s = .next t ∧ SameMemory s t ∧ OthersKeep s t gid
    ∧ AMap.find gid t.groups = some { g.deliver with pc := g.pc + 8, wait := .fence x.md.toNat w, commitTo := behind w }
    ∧ ((x.md.getLsbD 3 = true ∨ x.md.getLsbD 2 = true) → 2 ≤ (x.md.extractLsb' 4 3).toNat → ∀ b, s.blockOf g = some b →
        ∃ b', t.blockOf g = some b' ∧ b'.buffer = [] ∧ b'.bufUsed = 0 ∧ b'.committed = true))
  ∧ (Runs (.tfence x) [] s gid g → ∃ t w, exec (.tfence x) s = .next t ∧ SameMemory s t ∧ OthersKeep s t gid
    ∧ AMap.find gid t.groups = some { g with pc := g.pc + 8, wait := .tfence w }
    ∧ ∀ b, s.blockOf g = some b → ∃ b', t.blockOf g = some b' ∧ b'.buffer = [] ∧ b'.bufUsed = 0 ∧ b'.committed = true)
  ∧ (Runs (.cmt x) [] s gid g → ∃ t, exec (.cmt x) s = .next t ∧ SameMemory s t ∧ OthersKeep s t gid
    ∧ AMap.find gid t.groups = some { g with pc := g.pc + 8 }
    ∧ ∀ b, s.blockOf g = some b → ∃ b', t.blockOf g = some b' ∧ b'.buffer = [] ∧ b'.bufUsed = 0 ∧ b'.committed = true))
  ∧ (∀ (x : FR) (s : State) (gid : Nat) (g : Group) (b : Block),
  s.blockOf g = some b →
  let c := s.ctx g
  let p := g.srcU c x.a % 24
  let n := g.srcU c x.b % 2 ^ 32
  let t := Sparse.get 0 g.arrNum p
  let arrived := { g.deliver with
    arrNum := Sparse.set 0 g.arrNum p ((t + 1) % 2 ^ 32),
    arrivals := if g.split then g.arrivals else g.arrivals ++ [(p, t, s.nextId)] }
  let done := fun k : Nat =>
    let e := ((b.point p).phase + 2 ^ 32 - k % 2 ^ 32) % 2 ^ 32
    1 ≤ e ∧ e ≤ 2 ^ 31
  (Runs (.binit x) [] s gid g → ∃ u b', exec (.binit x) s = .next u ∧ u.groups = (s.setGroup gid { g with pc := g.pc + 8 }).groups
    ∧ u.blockOf g = some b' ∧ (∀ k, k ≠ p → b'.point k = b.point k)
    ∧ (let e := if 1 ≤ n ∧ n ≤ 16 then n else max 1 b.counted
       ((b.point p).count < e → b'.point p = { b.point p with expect := e })
       ∧ (e ≤ (b.point p).count → b'.point p = { phase := ((b.point p).phase + 1) % 2 ^ 32, expect := e, count := 0 }))
    ∧ SameMemory s u)
  ∧ (Runs (.barv x) [] s gid g → Leaves (.barv x) s gid { arrived.setS (regNum x.d) t with pc := g.pc + 8 })
  ∧ (Runs (.bwait x) [] s gid g →
    (done n → Leaves (.bwait x) s gid { g.deliver with pc := g.pc + 8 })
    ∧ (¬ done n → Leaves (.bwait x) s gid { g.deliver with pc := g.pc + 8, wait := .bwait p n }))
  ∧ (Runs (.bsync x) [] s gid g →
    (done t → Leaves (.bsync x) s gid { arrived with pc := g.pc + 8 })
    ∧ (¬ done t → Leaves (.bsync x) s gid { arrived with pc := g.pc + 8, wait := .bwait p t })))

/-- R380: EMIT on a port with an edge starts one operation of the ST path with the registers of each working lane read
now; on a port with none the records are lost and counted; a record that reaches past the allocation traps. -/
def Obligations.Emission : Prop := ∀ (x : FR) (s : State) (gid : Nat) (g : Group), Runs (.emit x) [] s gid g →
  let port := regNum x.a
  let n := s.emitWords g port
  let r := regNum x.b
  let ls := (g.parts x.g.toNat).filter (fun j => !g.help j)
  (255 < r + n - 1 ∨ 16 * g.alloc ≤ r + n - 1 → exec (.emit x) s = .next (s.enterTrap gid g 0x09 0x21 g.pc))
  ∧ (r + n - 1 ≤ 255 → r + n - 1 < 16 * g.alloc → ∃ t h, exec (.emit x) s = .next t
      ∧ AMap.find gid t.groups = some h ∧ h = { g with ops := h.ops, pc := g.pc + 8 } ∧ OthersKeep s t gid ∧ SameMemory s t
      ∧ (s.edgesOf g port ≠ [] → ls ≠ [] → ∃ o ∈ h.ops, o.path = .st ∧ o.kind = .emit ∧ o.size = 4 * n
          ∧ o.lanes.map (fun q => (q.lane, q.va, q.data)) = ls.map (fun j => (j, port, g.regsFrom j n r)))
      ∧ (s.edgesOf g port = [] → (∀ p slot, s.slotOf g = some (p, slot) →
          Sparse.get 0 (t.part p).emitlost slot = min (2 ^ 32 - 1) (Sparse.get 0 (s.part p).emitlost slot + ls.length))))

/-! ## Matrix mode (ch. 11) -/

/-- R236–R240: reserving the grid and changing the mode. MRES answers 1 where the group holds the grid or the core's
is free, in which case the accumulator store is empty, and 0 otherwise; MREL gives it up, at once outside matrix mode;
MODE.M needs the grid, all 256 registers and lanes of one owner; both changes wait for their drain. -/
def Obligations.GridAndMode : Prop := ∀ (x : FR) (s : State) (gid : Nat) (g : Group) (b : Block), s.blockOf g = some b →
  let d := regNum x.d
  let c := s.core b.core
  (Runs (.mres x) [] s gid g →
    (∀ info, g.rosterCheck = some info → exec (.mres x) s = .next (s.enterTrap gid g 0x03 info g.pc))
    ∧ (g.rosterCheck = none → g.grid = true → Leaves (.mres x) s gid { g.setS d 1 with pc := g.pc + 8 })
    ∧ (g.rosterCheck = none → g.grid = false → c.holder ≠ none ∨ b.node.grid = false →
        Leaves (.mres x) s gid { g.setS d 0 with pc := g.pc + 8 })
    ∧ (g.rosterCheck = none → g.grid = false → c.holder = none → b.node.grid = true →
        exec (.mres x) s = .next ((s.setGroup gid { g.setS d 1 with pc := g.pc + 8, grid := true }).setCore b.core
          { c with holder := some gid, valid := [], acc := [],
                   aq := { isOpen := false, fw := 0, n := 0, acc := [], col := [] } })))
  ∧ (Runs (.mrel x) [] s gid g →
    (g.mtx = true → Leaves (.mrel x) s gid { g with pc := g.pc + 8, wait := .modeV true })
    ∧ (g.mtx = false → g.grid = false → Leaves (.mrel x) s gid { g with pc := g.pc + 8 })
    ∧ (g.mtx = false → g.grid = true → c.holder = some gid → ∃ t h, exec (.mrel x) s = .next t ∧ AMap.find gid t.groups = some h
        ∧ h = { g with v := h.v, grid := false, pc := g.pc + 8 } ∧ (t.core b.core).holder = none
        ∧ (∀ j r, r < 256 → h.vreg j r = if r < 160 ∨ j ∈ g.roster then g.vreg j r else 0#32)
        ∧ OthersKeep s t gid ∧ SameMemory s t))
  ∧ (Runs (.modeM x) [] s gid g →
    (g.grid = false → exec (.modeM x) s = .next (s.enterTrap gid g 0x07 0x71 g.pc))
    ∧ (g.grid = true → g.alloc < 16 → exec (.modeM x) s = .next (s.enterTrap gid g 0x06 0x63 g.pc))
    ∧ (g.grid = true → 16 ≤ g.alloc →
        (∀ info, g.rosterCheck = some info → exec (.modeM x) s = .next (s.enterTrap gid g 0x03 info g.pc))
        ∧ (g.rosterCheck = none → g.mtx = true → Leaves (.modeM x) s gid { g with pc := g.pc + 8 })
        ∧ (g.rosterCheck = none → g.mtx = false → Leaves (.modeM x) s gid { g with pc := g.pc + 8, wait := .modeM })))
  ∧ (Runs (.modeV x) [] s gid g →
    (g.mtx = true → Leaves (.modeV x) s gid { g with pc := g.pc + 8, wait := .modeV false })
    ∧ (g.mtx = false → Leaves (.modeV x) s gid { g with pc := g.pc + 8 }))

/-- R257: the words between the cells and the accumulator store. Outside matrix mode each traps with 0x72; at an
origin that is no multiple of 32 up to 1056, ALD, AST and AACC trap with 0x36. Otherwise MZERO clears the cells, ALD
takes them from the window at the origin, AST writes them there and AACC adds them there, and one operation joins the
MX path. -/
def Obligations.AccumulatorMoves : Prop := ∀ (x : FR) (s : State) (gid : Nat) (g : Group) (b : Block),
  s.blockOf g = some b →
  let r := g.srcU (s.ctx g) x.a
  let k := g.srcU (s.ctx g) x.b
  let origin := r % 32 = 0 ∧ r ≤ 1056 ∧ k % 32 = 0 ∧ k ≤ 1056
  let old := (s.core b.core).accRead
  let does := fun (i : Instr) (cell acc : Nat → Nat → Nat) => ∃ t h, exec i s = .next t
    ∧ AMap.find gid t.groups = some h ∧ (∃ o, h = { g with v := h.v, ops := g.ops ++ [o], pc := g.pc + 8 }
        ∧ o.path = .mx ∧ o.kind = .grid)
    ∧ (∀ j q, j < 96 → q < 160 → h.vreg j q = g.vreg j q)
    ∧ (∀ i j, i < 96 → j < 96 → h.cell i j = cell i j)
    ∧ (∀ m n, m < 1152 → n < 1152 → (t.core b.core).accRead m n = acc m n) ∧ OthersKeep s t gid ∧ SameMemory s t
  let inside := fun (m n : Nat) => r ≤ m ∧ m < r + 96 ∧ k ≤ n ∧ n < k + 96
  (Runs (.mzero x) [] s gid g → g.mtx = true → does (.mzero x) (fun _ _ => 0) old)
  ∧ (Runs (.ald x) [] s gid g → g.mtx = true → origin → does (.ald x) (fun i j => old (r + i) (k + j)) old)
  ∧ (Runs (.ast x) [] s gid g → g.mtx = true → origin →
      does (.ast x) g.cell (fun m n => if inside m n then g.cell (m - r) (n - k) else old m n))
  ∧ (Runs (.aacc x) [] s gid g → g.mtx = true → origin → does (.aacc x) g.cell (fun m n =>
      if inside m n then
        if x.md.getLsbD 0 then (old m n + g.cell (m - r) (n - k)) % 2 ^ 32
        else (aaccResult (old m n) (g.cell (m - r) (n - k))).code
      else old m n))
  ∧ (∀ i ∈ [Instr.mzero x, .ald x, .ast x, .aacc x], Runs i [] s gid g → g.mtx = false →
      exec i s = .next (s.enterTrap gid g 0x07 0x72 g.pc))
  ∧ ∀ i ∈ [Instr.ald x, .ast x, .aacc x], Runs i [] s gid g → g.mtx = true → ¬ origin →
      exec i s = .next (s.enterTrap gid g 0x08 0x36 g.pc)

/-- R245–R249, R253 (Table 11.5): MOPA's checks in their order, each with its trap, after check 16 under the lengths
of R249; what passes them all does the class's work on the cells, joins the MX path and occupies the grid. The vote is
of the active lanes. Tables 11.2 and 11.3: the legal pairs of formats by class, and the K and the registers of their
operands. R250, R251: what MOPA makes of a cell. In the integer class, the exact sum of products, added to the cell
under .acc, wrapped or clamped; in the floating classes the exact scaled sum, rounded once. Rows come from A's lanes,
columns from B's; lanes outside the roster give zeros. R250: a cell of the floating classes is the exact sum of the
scaled products, negated or not, with the cell under ACC, rounded once; a NaN among the operands gives the canonical
NaN. R252: a MOPA of an AQ group whose format word is the group's adds its products to I and its B elements to C,
which begin at 0 on a GS word, and K to n; without GE the group stays open and no cell changes; with GE each cell
becomes the scaled sum of I − z × C, with the cell under ACC, rounded once, and the group is closed. (Under a
differing format word the sums are free: log 95.) -/
def Obligations.OuterProduct : Prop :=
  (∀ (x : FX) (s : State) (gid : Nat) (g : Group) (b : Block),
  s.blockOf g = some b → Runs (.mopa x) [] s gid g →
  let len := fun (f : Nat → Nat) => match g.vote x.f with
    | .inr fw => if (fwCheck fw).isNone then fwRegs fw (f fw) else 4
    | .inl _ => 4
  let na := len fwA
  let nb := len fwB
  let low := fun (o : Operand) (n : Nat) => ∀ r, o = .v r → r.toNat + n ≤ 160
  let traps := fun kind info => exec (.mopa x) s = .next (s.enterTrap gid g kind info g.pc)
  (spansOk (16 * g.alloc) (mopaSpans x na nb) = false → traps 0x09 0x21)
  ∧ (spansOk (16 * g.alloc) (mopaSpans x na nb) = true →
    (g.mtx = false → traps 0x07 0x72)
    ∧ (g.mtx = true → (¬ low x.f 1 → traps 0x06 0x62)
      ∧ (low x.f 1 → (∀ j, g.vote x.f = .inl j → traps 0x04 (0x51 + 256 * j))
        ∧ ∀ fw, g.vote x.f = .inr fw →
          let key := fw / 2 ^ 24 % 2 ^ 8 = 0xA5 ∧ fw / 2 ^ 14 % 2 ^ 10 = 0
          (¬ key → traps 0x04 0x52)
          ∧ (key → pairClass (fwA fw) (fwB fw) = none → traps 0x04 0x53)
          ∧ (key → ∀ cl, pairClass (fwA fw) (fwB fw) = some cl →
            let none_ := fwGrp fw = 3
            ((cl = .aq ↔ none_) → traps 0x04 0x54)
            ∧ ((cl = .aq ↔ ¬ none_) →
              let scales := if cl.scaled then x.sa ≠ .v 0#8 ∧ x.sb ≠ .v 0#8 else x.sa = .v 0#8 ∧ x.sb = .v 0#8
              let lows := low x.a na ∧ low x.b nb ∧ low x.sa 1 ∧ low x.sb 1
              let aq := (s.core b.core).aq
              let n := if x.gs then 0 else aq.n
              let flags := if cl = .aq then (x.gs = true ↔ aq.isOpen = false) ∧ (x.ge = true ↔ n + fwK fw = 32 * 2 ^ fwGrp fw)
                else x.gs = false ∧ x.ge = false
              (¬ scales → traps 0x04 0x55)
              ∧ (scales → ¬ lows → traps 0x06 0x62)
              ∧ (scales → lows → ¬ flags → traps 0x04 0x56)
              ∧ (scales → lows → flags →
                let moved := { g with pc := g.pc + 8 }
                exec (.mopa x) s = .next (((if cl = .aq then s.mopaAq gid moved b x fw else s.mopaCells gid moved x fw cl).newOp gid
                  (Op.make .mx .grid [] [])).useGrid b.core (3 * ((max na nb + 3) / 4)))))))))
  ∧ (∀ n, x.f = .s n → g.vote x.f = .inr (g.getS n.toNat % 2 ^ 32))
  ∧ (∀ n, x.f = .v n → (g.active = [] → g.vote x.f = .inl 0)
      ∧ ∀ j rest, g.active = j :: rest →
        ((∀ k ∈ rest, g.getV k n.toNat = g.getV j n.toNat) → g.vote x.f = .inr (g.getV j n.toNat))
        ∧ ∀ before k after, rest = before ++ k :: after → (∀ i ∈ before, g.getV i n.toNat = g.getV j n.toNat) →
          g.getV k n.toNat ≠ g.getV j n.toNat → g.vote x.f = .inl k))
  ∧ (∀ (fw : Nat) (cl : PairClass),
  let a := fwA fw
  let b := fwB fw
  let width := fun (f : Nat) => if f ≤ 1 then 16 else if f = 6 ∨ f = 7 then 6 else if f = 8 ∨ f = 12 ∨ f = 13 then 4 else 8
  let k := fun (f : Nat) => if width f = 16 then 8 else if width f = 4 then 32 else 16
  (pairClass a b = some cl ↔ match cl with
    | .half => a ≤ 1 ∧ b = a
    | .fp8 => (a = 2 ∨ a = 3) ∧ (b = 2 ∨ b = 3)
    | .mx => 4 ≤ a ∧ a ≤ 8 ∧ 4 ≤ b ∧ b ≤ 8
    | .mxInt => a = 9 ∧ b = 9
    | .int => (a = 10 ∨ a = 13) ∧ (b = 10 ∨ b = 13)
    | .aq => (a = 11 ∨ a = 12) ∧ (b = 10 ∨ b = 13))
  ∧ (cl.scaled = true ↔ cl = .mx ∨ cl = .mxInt ∨ cl = .aq)
  ∧ (fwK fw = max (k a) (k b)) ∧ (a < 14 → fwRegs fw a = fwK fw * width a / 32) ∧ (b < 14 → fwRegs fw b = fwK fw * width b / 32))
  ∧ (∀ (x : FX) (s : State) (gid : Nat) (g : Group) (fw : Nat) (cl : PairClass),
  ∃ t h, s.mopaCells gid g x fw cl = t ∧ AMap.find gid t.groups = some h ∧ h = { g with v := h.v }
    ∧ (∀ j q, j < 96 → q < 160 → h.vreg j q = g.vreg j q)
    ∧ ∀ i j, i < 96 → j < 96 →
      let neg := (fw / 2 ^ 12 % 2 == 1) != x.np
      let sat := fw / 2 ^ 13 % 2 == 1
      let as := g.elems fw (fwA fw) i (regNum x.a)
      let bs := g.elems fw (fwB fw) j (regNum x.b)
      (cl = .int →
        let p := ((as.zip bs).map (fun e => elemInt (fwA fw) e.1 * elemInt (fwB fw) e.2)).sum
        let v := (if neg then -p else p) + (if x.acc then (BitVec.ofNat 32 (g.cell i j)).toInt else 0)
        h.cell i j = (BitVec.ofInt 32 (if sat then max (-2 ^ 31) (min (2 ^ 31 - 1) v) else v)).toNat)
      ∧ (cl ≠ .int →
        let one := FVal.fin false 1 0
        let ea := if cl.scaled then e8m0Value (g.rowWord i (regNum x.sa) % 256) else one
        let eb := if cl.scaled then e8m0Value (g.rowWord j (regNum x.sb) % 256) else one
        h.cell i j = (floatCell neg x.acc sat (as.map (elemValue (fwA fw))) (bs.map (elemValue (fwB fw))) ea eb (g.cell i j)).code
          % 2 ^ 32))
  ∧ (∀ (neg acc sat : Bool) (as bs : List FVal) (ea eb : FVal) (old : Nat),
  let abs := fun (x : Rat) => if x < 0 then -x else x
  let prods := ((as.zip bs).map (fun e => e.1.rat * e.2.rat * ea.rat * eb.rat)).foldl (· + ·) 0
  let cell := Fmt.fp32.value old
  let sum := (if neg then -prods else prods) + if acc then cell.rat else 0
  let r := floatCell neg acc sat as bs ea eb old
  as.length = bs.length →
  (ea.finite = true → eb.finite = true → as.all FVal.finite = true → bs.all FVal.finite = true → (acc = true → cell.finite = true) →
    (sum ≠ 0 → Fmt.fp32.RoundsTo .rn false sat (decide (sum < 0)) (abs sum) (r.code, r.flags))
    ∧ (sum = 0 → r.code % 2 ^ 31 = 0 ∧ r.flags = 0#5))
  ∧ (as ≠ [] → ea.isNaN = true ∨ eb.isNaN = true ∨ as.any FVal.isNaN = true ∨ bs.any FVal.isNaN = true
      ∨ (acc = true ∧ cell.isNaN = true) → r.code = 0x7FC00000))
  ∧ (∀ (x : FX) (s : State) (gid : Nat) (g : Group) (b : Block) (fw : Nat),
  (x.gs = false → (s.core b.core).aq.fw = fw) →
  let aq := (s.core b.core).aq
  let neg := (fw / 2 ^ 12 % 2 == 1) != x.np
  let sat := fw / 2 ^ 13 % 2 == 1
  let as := fun i => (g.elems fw (fwA fw) i (regNum x.a)).map (elemInt (fwA fw))
  let bs := fun j => (g.elems fw (fwB fw) j (regNum x.b)).map (elemInt (fwB fw))
  let sums := fun i j => (if x.gs then 0 else Sparse.get 0 aq.acc (96 * i + j))
    + (((as i).zip (bs j)).map (fun e => e.1 * e.2)).foldl (· + ·) 0
  let cols := fun j => (if x.gs then 0 else Sparse.get 0 aq.col j) + (bs j).foldl (· + ·) 0
  ∃ t h, s.mopaAq gid g b x fw = t ∧ AMap.find gid t.groups = some h ∧ h = { g with v := h.v }
    ∧ (∀ j q, j < 96 → q < 160 → h.vreg j q = g.vreg j q)
    ∧ (x.ge = false → h = g
      ∧ let q := (t.core b.core).aq
        q.isOpen = true ∧ q.fw = fw ∧ q.n = (if x.gs then 0 else aq.n) + fwK fw
        ∧ ∀ i j, i < 96 → j < 96 → Sparse.get 0 q.acc (96 * i + j) = sums i j ∧ Sparse.get 0 q.col j = cols j)
    ∧ (x.ge = true → (t.core b.core).aq = aqClosed
      ∧ ∀ i j, i < 96 → j < 96 →
        let ea := g.rowWord i (regNum x.sa)
        let sa := Fmt.fp16.value (ea % 2 ^ 16)
        let sb := Fmt.fp16.value (g.rowWord j (regNum x.sb) % 2 ^ 16)
        let cell := Fmt.fp32.value (g.cell i j)
        let whole := sums i j - ((ea / 2 ^ 16 % 2 ^ 8 : Nat) : Int) * cols j
        let sum := sa.rat * sb.rat * (if neg then -(whole : Rat) else (whole : Rat)) + if x.acc then cell.rat else 0
        (sa.finite = true → sb.finite = true → (x.acc = true → cell.finite = true) →
          (sum ≠ 0 → ∃ fl, Fmt.fp32.RoundsTo .rn false sat (decide (sum < 0)) (if sum < 0 then -sum else sum) (h.cell i j, fl))
          ∧ (sum = 0 → h.cell i j % 2 ^ 31 = 0))
        ∧ (sa.isNaN = true ∨ sb.isNaN = true ∨ (x.acc = true ∧ cell.isNaN = true) → h.cell i j = 0x7FC00000)))

/-- R254, R255, R258: LDSC and ACPY after their checks: the traps by their first failing check, else one operation on
the MX or the CP path; a storing ACPY reads its elements from the accumulator store now. -/
def Obligations.ScaleAndAccumulatorCopies : Prop := ∀ (x : FR) (s : State) (gid : Nat) (g : Group) (b : Block),
  s.blockOf g = some b →
  let c := s.ctx g
  let a := g.srcU c x.a
  let n := g.srcU c x.b
  let w := g.srcU c x.c
  let md := x.md.toNat
  let moved := s.setGroup gid { g with pc := g.pc + 8 }
  let op := fun (path : Path) (kind : OpKind) (cls va size : Nat) =>
    { Op.make path kind [LaneReq.make g.lead va] g.active with stamp := g.stampOf g.lead, cls := cls, size := size }
  let inCells := ∃ r, x.d = .v r ∧ 160 ≤ r.toNat
  (Runs (.ldsc x) (x.spans 1 1 1) s gid g →
    (∀ info, g.ownerCheck = some info → exec (.ldsc x) s = .next (s.enterTrap gid g 0x03 info g.pc))
    ∧ (g.ownerCheck = none → g.mtx = true → inCells → exec (.ldsc x) s = .next (s.enterTrap gid g 0x06 0x62 g.pc))
    ∧ (g.ownerCheck = none → (g.mtx = false ∨ ¬ inCells) →
        (3 < n → exec (.ldsc x) s = .next (s.enterTrap gid g 0x05 0x83 g.pc))
        ∧ (n ≤ 3 → a % 256 ≠ 0 → exec (.ldsc x) s = .next (s.enterTrap gid g 0x05 0x81 g.pc))
        ∧ (n ≤ 3 → a % 256 = 0 → w < a + 1536 → exec (.ldsc x) s = .next (s.enterTrap gid g 0x05 0x82 g.pc))
        ∧ (n ≤ 3 → a % 256 = 0 → a + 1536 ≤ w → exec (.ldsc x) s
            = .next (moved.newOp gid (op .mx (.ldsc (regNum x.d)) (md % 4) ((a + 384 * n) % 2 ^ 64) 4)))))
  ∧ (Runs (.acpy x) (if x.md.getLsbD 4 then x.d.span 1 else []) s gid g →
    let row := n % 2 ^ 11
    let col := n / 2 ^ 16 % 2 ^ 11
    let cv := md % 4
    let e := if cv = 0 then 4 else if cv = 3 then 1 else 2
    (∀ k info, g.acpyCheck x a row col w e b.node.scratch = some (k, info) →
      exec (.acpy x) s = .next (s.enterTrap gid g k info g.pc))
    ∧ (g.acpyCheck x a row col w e b.node.scratch = none →
      let els := if x.md.getLsbD 2 then [] else windowCells.map (fun q => acpyElem cv (x.md.getLsbD 5) (x.md.getLsbD 4)
        ((s.core b.core).accRead (row + q.1) (col + q.2)) (g.rowWord q.1 (regNum x.d)))
      ∃ t, exec (.acpy x) s = .next t ∧ AMap.find gid t.groups = AMap.find gid (moved.newOp gid
          (op .cp (.acpy (x.md.getLsbD 2) a row col w cv (x.md.getLsbD 3) (els.map Prod.fst)) 0 0 e)).groups
        ∧ (t.core b.core).portFree = (s.core b.core).clk + 12 ∧ OthersKeep s t gid ∧ SameMemory s t))

/-! ## Events at a core -/

/-- R34, R211–R213, R221, R226, R227, R238, R240, R329, R334: what ends each wait, and what the group then has. A seal
ends when no operation is out, WAITC at its count, BWAIT when its phase is over, the fences when what they order is
performed. GROW takes its registers, new ones reading 0, once there is room and no older group of the block waits for
the token (age order at the token: the model's reading, log 101); SHRINK gives up those above its number, and what it
held above its kernel's count goes back; MODE.M starts and MODE.V and MREL end matrix mode, and END gives up the grid
once it is drained. BARV_REGISTER counts an arrival at its point. -/
def Obligations.WaitsEnd : Prop := ∀ (s : State) (gid : Nat) (g : Group) (b : Block), Stands s gid g b →
  let since := if g.inActive then g.since else (s.core b.core).clk
  let clk := (s.core b.core).clk
  (g.sealDue = true → g.ops = [] → Wakes (.sealRelease gid) s gid g b { g with sealDue := false })
  ∧ (∀ p t, g.wait = .waitc p t → (g.ops.filter (fun o => o.path = p)).length ≤ t →
      Wakes (.waitcResume gid) s gid g b { g with wait := .ready })
  ∧ (∀ p t, g.wait = .bwait p t → (let e := ((b.point p).phase + 2 ^ 32 - t % 2 ^ 32) % 2 ^ 32; 1 ≤ e ∧ e ≤ 2 ^ 31) →
      Wakes (.bwaitResume gid) s gid g b { g with wait := .ready })
  ∧ (∀ n, g.wait = .tfence n → (∀ e ∈ s.reqs, e.1 < n → e.2.block = g.block → e.2.outTo 4 = false) → Wakes (.tfenceDone gid) s gid g b { g with wait := .ready })
  ∧ (∀ md n, g.wait = .fence md n →
      (bitAt md 0 = true ∨ bitAt md 1 = true → g.clearOf [.ld, .at] n = true) →
      (bitAt md 2 = true ∨ bitAt md 3 = true → g.clearOf [.st, .at] n = true
        ∧ (3 ≤ md / 16 % 8 → s.storesOut g (md / 16 % 8) n = false)) →
      let t := s.setGroup gid { g with wait := .ready, since := since }
      exec (.fenceDone gid) s = .next (if (bitAt md 0 = true ∨ bitAt md 3 = true) ∧ 3 ≤ md / 16 % 8
        then t.setCore b.core { s.core b.core with l1 := [] } else t))
  ∧ (∀ n, g.wait = .grow n →
      let d := growDraw b gid g n
      (d.1 + d.2 = 3 * (n / 16) - g.grans.length ∧ d.1 ≤ b.spare.length ∧ (b.serves gid n = false → d.1 = 0))
      ∧ (d.2 = 0 ∨ s.charged b.core + d.2 ≤ 960 → b.token = some gid ∨ n ≤ b.node.regs ∨ s.olderGrower b gid g = false →
      ∃ t h, exec (.growDone gid) s = .next t ∧ AMap.find gid t.groups = some h
        ∧ h = { g with wait := .ready, alloc := n / 16, v := h.v, grans := g.grans ++ s.drawn b d, since := since }
        ∧ (∀ j r, r < 256 → h.vreg j r = if r < 16 * g.alloc then g.vreg j r else 0#32) ∧ OthersKeep s t gid ∧ SameMemory s t
        ∧ ∃ b', t.blockOf g = some b' ∧ b' = { b with
            spare := b.spare.drop d.1, token := if b.node.regs < n ∧ b.token = none then some gid else b.token,
            tokenKept := if b.node.regs < n ∧ b.token = none then false else b.tokenKept }))
  ∧ (∀ n, g.wait = .shrink n → (∀ o ∈ g.ops, o.topReg ≤ n) → g.copying = none →
      let k := 3 * (max n b.node.regs / 16)
      ∃ t h, exec (.shrinkDone gid) s = .next t
      ∧ AMap.find gid t.groups = some h
      ∧ h = { g with wait := .ready, alloc := n / 16, v := h.v, grans := g.grans.take k, since := since }
      ∧ (∀ j r, r < 256 → h.vreg j r = if r < n then g.vreg j r else 0#32) ∧ OthersKeep s t gid ∧ SameMemory s t
      ∧ ∃ b', t.blockOf g = some b' ∧ b' = { b with
          spare := b.spare ++ ((g.grans.drop k).filter Prod.snd).map Prod.fst,
          token := if n ≤ b.node.regs ∧ b.token = some gid ∧ b.tokenKept = false then none else b.token })
  ∧ (g.wait = .modeM → (∀ o ∈ g.ops, o.topReg ≤ 160) → ∃ h, exec (.modeMEnter gid) s = .next (s.setGroup gid h)
      ∧ h = { g with wait := .ready, mtx := true, notBefore := clk + 12, v := h.v, since := since }
      ∧ ∀ j r, r < 256 → h.vreg j r = if r < 160 ∨ j ∈ g.roster then g.vreg j r else 0#32)
  ∧ (∀ rel, g.wait = .modeV rel → (∀ o ∈ g.ops, o.kind = .grid → o.complete = true) →
      ∃ t h, exec (.modeVDrained gid) s = .next t ∧ AMap.find gid t.groups = some h
        ∧ h = { g with wait := .ready, mtx := false, grid := g.grid && !rel, notBefore := clk + 12, v := h.v, since := since }
        ∧ (∀ j r, r < 256 → h.vreg j r = if r < 160 ∨ j ∈ g.roster then g.vreg j r else 0#32)
        ∧ (t.core b.core).aq.isOpen = false ∧ (rel = true → g.grid = true → (s.core b.core).holder = some gid → (t.core b.core).holder = none)
        ∧ OthersKeep s t gid ∧ SameMemory s t)
  ∧ (g.wait = .ending → g.grid = true → (∀ o ∈ g.ops, o.kind = .grid → o.complete = true) →
      ∃ t h, exec (.modeVDrained gid) s = .next t ∧ AMap.find gid t.groups = some h
        ∧ h = { g with mtx := false, grid := false, v := h.v } ∧ OthersKeep s t gid ∧ SameMemory s t
        ∧ ((s.core b.core).holder = some gid → (t.core b.core).holder = none))
  ∧ (∀ p ph upto, g.arrivals.find? (fun a => a.1 == p) = some (p, ph, upto) → (b.point p).phase = ph →
      g.clearOf [.ld, .st, .at] upto = true → ∃ t b', exec (.barvRegister gid p) s = .next t
        ∧ AMap.find gid t.groups = some { g with arrivals := g.arrivals.filter (fun a => a != (p, ph, upto)) }
        ∧ AMap.find g.block t.blocks = some b' ∧ (∀ k, k ≠ p → b'.point k = b.point k)
        ∧ ((b.point p).count + 1 < (b.point p).expect → b'.point p = { b.point p with count := (b.point p).count + 1 })
        ∧ ((b.point p).expect ≤ (b.point p).count + 1 →
            b'.point p = { b.point p with phase := (ph + 1) % 2 ^ 32, count := 0 })
        ∧ OthersKeep s t gid ∧ SameMemory s t)

/-- R218, R219, R280, R386: an active group whose 512 clocks are over leaves its slot to the first ready pending
group; a group pending and ready for 4,096 clocks is promoted; a replay costs the core one clock and is counted;
gating a core is a bit of it. -/
def Obligations.ActiveSet : Prop := ∀ (s : State) (core : Nat),
  let c := s.core core
  (∀ slot gid g other h, (s.groupsOn core).find? (fun e => e.2.inActive && e.2.slot == slot) = some (gid, g) →
    AMap.find gid s.groups = some g → s.bestPending core = some other → AMap.find other s.groups = some h → other ≠ gid →
    g.since + 512 ≤ c.clk → exec (.activeSlotTimeout core slot) s = .next
      ((s.setGroup gid { g with inActive := false, since := c.clk, promoted := false }).setGroup other
        { h with inActive := true, slot := slot, since := c.clk, passCount := 0, promoted := false }))
  ∧ (∀ gid g b, Stands s gid g b → g.inActive = false → s.waits g = false → g.since + 4096 ≤ (s.core b.core).clk →
      exec (.pendingPromotion gid) s = .next (s.setGroup gid { g with promoted := true }))
  ∧ exec (.shadowLatchReplay core) s = .next (({ s with blocks := s.blocks.map (fun (e : Nat × Block) =>
      (e.1, if e.2.core == core && e.2.mode != BlockMode.saved then { e.2 with elapsed := e.2.elapsed + 1 } else e.2)) }).setCore core
      { c with clk := c.clk + 1, cyc := c.cyc + 1#64, replays := min (2 ^ 32 - 1) (c.replays + 1) })
  ∧ (core < 384 → ∀ gated, exec (.powerGating core gated) s = .next (s.setCore core { c with gated := gated }))

/-- R137–R147, R153, R222, R272: what an operation's answers do at its core once no lane of it is unfinished. A load
writes each chosen lane's words to D and up, a scalar load its scalar register; a store with an acknowledge writes
each lane's tag to D, one without writes no register; an atomic writes the old values, and the tags where asked; a
window load or store meets the block's scratch bytes now, its lanes in order. That a store's and an atomic's lanes
land together is the model's choice (log 104). -/
def Obligations.AnswersLand : Prop := ∀ (s : State) (gid : Nat) (g : Group) (b : Block) (o : Op), StandsOp s gid g b o →
  let rs := o.lanes.filter (fun r => r.st == .answered)
  let all := o.lanes.map LaneReq.lane
  let n := (o.size + 3) / 4
  (o.lanes.map LaneReq.lane).Nodup → o.unfinished = false →
  (∀ d, d + n ≤ 256 → ∀ lanes : BitVec 96,
    let ls := setBits 96 0 lanes.toNat
    let mine := rs.filter (fun r => ls.contains r.lane)
    (o.kind = .load false d ∨ o.kind = .slotLoad d → ∃ h, Lands (.loadDataArrival gid o.id lanes) s gid o.id ls (s.setGroup gid h)
      ∧ TakesWords g h mine n d LaneReq.val)
    ∧ (o.kind = .scratchLoad d → g.acquireBefore o.id = false →
        ∃ h, Lands (.loadDataArrival gid o.id lanes) s gid o.id ls (s.setGroup gid h)
          ∧ TakesWords g h mine n d (fun r => bytesAt b.scratch (b.node.scratch * b.window (g.stampOf r.lane) + r.va) o.size)))
  ∧ (∀ d r lanes, o.kind = .load true d → rs = [r] → (setBits 96 0 (BitVec.toNat lanes)).contains r.lane = true →
      Lands (.loadDataArrival gid o.id lanes) s gid o.id (setBits 96 0 lanes.toNat) (s.setGroup gid (g.setS d r.val)))
  ∧ (∀ d r lanes, o.kind = .constLoad d → g.acquireBefore o.id = false → rs = [r] →
      (setBits 96 0 (BitVec.toNat lanes)).contains r.lane = true →
      (∀ q y, s.unitRead gid o.id r.ia o.size = some q → q.st = .unitData y → q.laid = (0, 0) → y < 2 ^ (8 * o.size) →
        Lands (.loadDataArrival gid o.id lanes) s gid o.id (setBits 96 0 lanes.toNat)
          ((s.dropReads gid o.id).adjGroup gid (fun g => g.setS d y))))
  ∧ (∀ sc d, o.kind = .store sc d false → Lands (.storeAck gid o.id) s gid o.id all s)
  ∧ (∀ d, d < 256 → o.kind = .store false d true →
      ∃ h, Lands (.storeAck gid o.id) s gid o.id all (s.setGroup gid h) ∧ TakesWords g h rs 1 d LaneReq.tag)
  ∧ (∀ d r, o.kind = .store true d true → rs = [r] →
      Lands (.storeAck gid o.id) s gid o.id all (s.setGroup gid (g.setS d r.tag)))
  ∧ (o.kind = .scratchStore → g.acquireBefore o.id = false → g.scratchBehind o = false →
      ∃ b', Lands (.storeAck gid o.id) s gid o.id all (if rs = [] then s else s.setBlock g.block b')
        ∧ b' = { b with scratch := b'.scratch }
        ∧ ∀ a, Sparse.get 0#8 b'.scratch a = rs.foldl (fun x r =>
            let at_ := b.node.scratch * b.window (g.stampOf r.lane) + r.va
            if at_ ≤ a ∧ a < at_ + o.size then BitVec.ofNat 8 (r.data / 256 ^ (a - at_)) else x) (Sparse.get 0#8 b.scratch a))
  ∧ (o.kind = .slotStore → Lands (.storeAck gid o.id) s gid o.id all
      (s.setGroup gid (rs.foldl (fun h r => h.slotWrite r.lane r.va o.size r.data) g)))
  ∧ (∀ d k, d + o.size / 4 ≤ 256 → o.kind = .atomic false d k none →
      ∃ h, Lands (.atomicResponse gid o.id) s gid o.id all (s.setGroup gid h) ∧ TakesWords g h rs (o.size / 4) d LaneReq.val)
  ∧ (∀ d k t, d + o.size / 4 ≤ 256 → t < 256 → o.kind = .atomic false d k (some t) →
      ∃ h, Lands (.atomicResponse gid o.id) s gid o.id all (s.setGroup gid h) ∧ h = { g with v := h.v }
        ∧ (∀ r ∈ rs, (h.vreg r.lane t).toNat = r.tag % 2 ^ 32
            ∧ ∀ i, i < o.size / 4 → d + i ≠ t → (h.vreg r.lane (d + i)).toNat = r.val / 2 ^ (32 * i) % 2 ^ 32)
        ∧ ∀ j r, r < 256 → (r ≠ t ∧ (r < d ∨ d + o.size / 4 ≤ r)) ∨ (∀ q ∈ rs, q.lane ≠ j) → h.vreg j r = g.vreg j r)
  ∧ (∀ d k r, o.kind = .atomic true d k none → rs = [r] →
      Lands (.atomicResponse gid o.id) s gid o.id all (s.setGroup gid (g.setS d r.val)))
  ∧ (∀ d k t r, o.kind = .atomic true d k (some t) → rs = [r] →
      Lands (.atomicResponse gid o.id) s gid o.id all (s.setGroup gid ((g.setS d r.val).setS t r.tag)))

/-- R258, R285–R287, R310–R312, R318, R319: the ends of engine commands and of the matrix paths. A copy, a DISCARD or
a COLL that a check refused writes BYTES 0 and its code to D; a copy whose burst is read sends the bytes read, each to
the place in the destination that its place in the source has, and one done in full writes its byte count and 0;
DISCARD sends a packet to every slice of the partition, unless its id is 0, and ends once they are performed. The
order of a copy's bursts, rising, or falling when the destination lies above the source, is the model's choice (log
38), and so are bursts of 64 words, one at a time, the next after the acknowledgements of the one before, and the
packets that carry one (log 83), and DISCARD's packets (log 109). Words of the grid retire; LDSC, ACPY and XPUT land
what they read. -/
def Obligations.CommandsEnd : Prop := ∀ (s : State) (gid : Nat) (g : Group) (b : Block) (o : Op), StandsOp s gid g b o →
  let waiting := ∃ r ∈ o.lanes, r.st = .waiting
  let ends := fun (t : State) (d bytes code : Nat) =>
    exec (.engineComplete gid o.id) s = .next (t.endCommand gid o.id d (min bytes (2 ^ 56 - 1) * 256 + code))
  (waiting → ∀ d dst src w rows sp dp code, o.kind = .copy d dst src w rows sp dp code → code ≠ 0 → ends s d 0 code)
  ∧ (waiting → ∀ d dst src w rows sp dp, o.kind = .copy d dst src w rows sp dp 0 → s.unperformedBefore g.block o.id = false →
      s.engineTurn b.part b.core o.id = true → s.writesDone gid o.id = true →
      let u := s.engineActor g b gid o
      let k := o.progress + o.inFlight
      let t := s.adjGroup gid (fun g => g.adjOp o.id (fun o => Op.setFlight 0 { o with progress := k }))
      let n := min 64 (rows * (w / 16) - k)
      let i := if src < dst then rows * (w / 16) - k - n else k
      (rows * (w / 16) ≤ k → ends t d (16 * (rows * (w / 16))) 0)
      ∧ (k < rows * (w / 16) → ∀ x r l v, State.gatherParts u (sideParts src w sp i n) t = (.got x, r) →
          State.reachAll u true (sideParts dst w dp i n) r = (.inr l, v) →
          (∀ m, m < n → inSource src w rows sp (copyAddr dst w dp (i + m)) = false) →
          exec (.engineComplete gid o.id) s = .next
            (((((packRuns l).map (fun e => u.req e.ia e.home (.write e.len (x / 2 ^ (8 * e.off) % 2 ^ (8 * e.len)) true))).foldl
              State.send v).dropReads gid o.id).adjGroup gid (fun g => g.adjOp o.id (Op.setFlight n)))))
  ∧ (waiting → ∀ d n code, o.kind = .discard d n code →
      (code ≠ 0 → ends s d 0 code)
      ∧ (code = 0 → s.engineTurn b.part b.core o.id = true →
          (o.progress = 0 → exec (.engineComplete gid o.id) s = .next
            ((if n = 0 then s else ((List.range 640).filter (s.hasSlice b.part)).foldl
              (fun s k => s.send ((s.engineActor g b gid o).req 0 k (.discard n))) s).adjGroup gid
                (fun g => g.adjOp o.id (fun o => { o with progress := 1 }))))
          ∧ (o.progress ≠ 0 → s.writesDone gid o.id = true → ends s d 0 0)))
  ∧ (waiting → ∀ d a tag code, o.kind = .coll d a tag code → code ≠ 0 → ends s d 0 code)
  ∧ (o.kind = .grid → exec (.mxComplete gid o.id) s = .next (s.closeOp gid o.id))
  ∧ (∀ d r x t, o.kind = .ldsc d → o.lanes = [r] → r.st = .waiting →
      State.loadParts (g.actor b gid o.id o.stamp o.cls o.tensor) g b (partsWithin 16 r.va 384) s = (.got x, t) →
      let give : Group → Group := fun y => match y.findOp o.id with
        | some p => if y.block = g.block then
            p.serves.foldl (fun h j => h.setV j d (x / 2 ^ (8 * (16 * (j % 24) + 4 * (j / 24))) % 2 ^ 32)) y else y
        | none => y
      let given : State := { t with groups := t.groups.map (fun (e : Nat × Group) => (e.1, give e.2)) }
      let landed := given.adjGroup gid (fun h => h.adjOp o.id (fun p =>
        { p with lanes := p.lanes.map (fun q => { q with st := .done, unf := false }) }))
      exec (.mxComplete gid o.id) s = .next (((landed.dropReads gid o.id).closeOp gid o.id).startReady gid))
  ∧ (waiting → g.acquireBefore o.id = false → ∀ ld base r c p cv scr els, o.kind = .acpy ld base r c p cv scr els →
      let j : AcpyJob := { base := base, row := r, col := c, pitch := p, cv := cv }
      let u := g.actor b gid o.id o.stamp 0 o.tensor
      (scr = true → g.scratchBefore o ld j = false) → exec (.acpyComplete gid o.id) s = .next
        (if scr then s.acpyScratch u g.block b o ld j (b.node.scratch * b.window o.stamp) els
         else if ld then State.acpyLoad u g b o j (96 - o.progress / 96) (o.progress / 96) s
         else State.acpyStore u g j els (9216 - o.progress) o.progress s))
  ∧ (∀ rd d, o.kind = .xput rd d → d + (o.size + 3) / 4 ≤ 256 → (o.lanes.map LaneReq.lane).Nodup →
      ∃ h, exec (.xputComplete gid o.id) s = .next (((s.setGroup gid h).adjGroup gid (fun g =>
            g.adjOp o.id (fun o => o.finish (o.lanes.map LaneReq.lane)))).closeOp gid o.id)
        ∧ TakesWords g h (o.lanes.filter (fun r => r.st == .answered)) ((o.size + 3) / 4) d LaneReq.val)

/-- R205, R268–R271, R290, R326, R336, R380: releases, buffer room, parking and the cohort's barrier. A release whose
conditions hold (they look at the whole core: the model's reading, log 14) starts its store, atomic or records; a
commit makes room; a fault parks the stamps it names; the course that follows parks or splits the group; a cohort
arrival is counted once what stands before it is performed. -/
def Obligations.ReleasesAndParking : Prop := ∀ (s : State) (gid : Nat) (g : Group) (b : Block), Stands s gid g b →
  (∀ o, g.findOp o.id = some o → o.rel ≠ 0 → (∃ r ∈ o.lanes, r.st = .waiting) → g.mayStart o = true →
    s.behindUnit gid g o = false → g.releaseReady o.id = true → (2 ≤ o.rel → b.buffer = []) → (3 ≤ o.rel → s.unperformed b.core o.rel = false) →
    (∀ sc d ack, o.kind = .store sc d ack → exec (.releasePerform gid o.id) s
      = .next (((s.startStore gid o ack).closeOp gid o.id).startReady gid))
    ∧ (∀ sc d k t, o.kind = .atomic sc d k t → exec (.releasePerform gid o.id) s = .next (s.startAtomic gid o k))
    ∧ (o.kind = .emit → exec (.releasePerform gid o.id) s = .next
        (((s.placeEmit gid o).adjGroup gid (fun g => g.adjOp o.id (fun o =>
          { o with lanes := o.lanes.map (fun r => { r with st := .done }) }))).closeOp gid o.id)))
  ∧ (∀ op o, g.wait = .bufferFull op → g.findOp op = some o →
      (b.bufUsed + o.size * (o.lanes.filter (fun r => r.st == .waiting)).length ≤ 65536 ∨ b.buffer = []) →
      exec (.commitBufferRoom gid) s = .next
        ((((s.setGroup gid { g with wait := .ready, since := if g.inActive then g.since else (s.core b.core).clk }).bufferStore
          gid o).closeOp gid op).startReady gid))
  ∧ (∀ op o, g.findOp op = some o → exec (.parkingEvent gid op) s = .next (s.setGroup gid (g.park op)))
  ∧ (∀ op o k l, g.findOp op = some o → o.kind.whole = false → ∀ r ∈ o.lanes, r.st = .faulted k → r.lane ∈ g.roster →
      AMap.find r.lane g.lanes = some l → AMap.find r.lane (g.park op).lanes = some { l with parked := true })
  ∧ (∀ ss rest, g.courses = ss :: rest → g.atBoundary = true →
      let m := g.roster.filter (fun j => ss.contains (g.xs j))
      (m = [] → exec (.parkCourse gid) s = .next (s.setGroup gid { g with courses := rest }))
      ∧ (m ≠ [] → (m.length = g.roster.length ∨ g.split = true ∨ g.grid = true ∨ s.freePlace b.core = none) →
          exec (.parkCourse gid) s = .next (s.setGroup gid g.parkWhole.settle))
      ∧ (∀ place, m ≠ [] → m.length ≠ g.roster.length → g.split = false → g.grid = false → s.freePlace b.core = some place →
          s.charged b.core + (splitDraw b g.alloc).2 ≤ 960 → exec (.parkCourse gid) s = .next (s.split gid g b place ss m)))
  ∧ (∀ c, g.copying = some c → exec (.splitCopyDone gid) s = .next (({ s with groups := s.groups.map (fun (e : Nat × Group) =>
      if e.2.copying = some c then (e.1, { e.2 with copying := none }.settle) else e) }).afterPosted b.part))
  ∧ (∀ o t c, g.ops.find? (fun o => !o.complete && decide (o.progress = 0) && match o.kind with
        | .cbar _ => true
        | _ => false) = some o → o.kind = .cbar t → AMap.find b.cohort s.cohorts = some c → g.split = false → c.phase = t →
      g.clearOf [.st, .at, .xc] o.id = true → (∀ x ∈ c.sends, x.1 = b.idx → o.id ≤ x.2.2.2.2.2) → s.storesOut g 3 o.id = false →
      exec (.cbarRegister gid) s = .next (((s.setGroup gid (g.adjOp o.id (fun o => { o with progress := 1 }))).setCohort b.cohort
        { c with count := c.count + 1 }).settleCohort b.cohort))

/-! ## The host, peers and the slices -/

/-- R369, R372, R374, R383, R407, R414, R417: a write of PCMD while no command is busy starts the command, with the
code that Table 20.4 gives against it where a check fails; ZEROFILL, LOAD and COLLSET do their work at the end, UNLOAD
keeps records out of its graph from here on, ATTEST notes the time. (That the postmaster holds a context is the
model's reading, log 31; so is the order of checks where a command has two faults, log 49.) -/
def Obligations.CommandsStart : Prop := ∀ (s : State) (p : Nat), Open s p → (s.part p).cmd = none →
  let q := s.part p
  let arg := fun n => (q.parg.getD n 0#64).toNat
  let stamp := 1 ≤ arg 0 ∧ arg 0 ≤ 0xFFFF
  let table := arg 1 % 1024 = 0 ∧ arg 1 < 2 ^ 56
  let known := AMap.find (arg 0) q.stamps ≠ none
  let prot := bitAt (arg 2) 16 = true
  Starts (.stampreg p) s p 1
    (if ¬ stamp ∨ ¬ table ∨ arg 2 % 4 = 3 ∨ arg 3 % 32 ≠ 0 ∨ ¬ (4 ≤ arg 4 ∧ arg 4 ≤ 16) then 0x02
     else if known then 0x03
     else if prot ∧ q.mayProt = false then 0x04
     else if prot ∧ bits (arg 2) 15 8 ≠ 0 then 0x06
     else if prot ∧ s.holdsContext p (bits (arg 2) 47 32) = false then 0x04 else 0) 0 q
  ∧ Starts (.stampdel p) s p 2 (if ¬ stamp then 0x02 else if ¬ known then 0x03 else 0) 0 q
  ∧ Starts (.rangeinv p) s p 3 (if ¬ known then (if stamp then 0x03 else 0x02) else if table then 0 else 0x02) 0 q
  ∧ Starts (.zerofill p) s p 4 q.zerofillCode 0 q
  ∧ Starts (.load p) s p 5 0 0 q
  ∧ Starts (.unload p) s p 6 (if AMap.find (arg 0) q.graphs = none then 0x02 else 0) 0
      { q with graphs := AMap.adj (arg 0) (fun g => { g with unloading := true }) q.graphs }
  ∧ Starts (.chanreg p) s p 7
      (if 2 ^ 32 ≤ arg 0 ∨ ¬ (1 ≤ arg 1 ∧ arg 1 ≤ 0xFFFF) ∨ arg 2 = 0 ∨ 255 < arg 2 then 0x02
       else if AMap.find (arg 0) q.channels ≠ none ∨ AMap.find (arg 1) q.stamps = none then 0x03
       else if ∃ k, AMap.find (arg 2) s.keys = some k ∧ k.part = p ∧ k.revoked = false then 0 else 0x04) 0 q
  ∧ Starts (.attest p) s p 8 (if AMap.find (arg 2) q.sets = none then 0x02 else 0) 0 { q with attest := some s.netClock }
  ∧ Starts (.collset p) s p 9 (if arg 2 < 2 ∨ 1024 < arg 2 then 0x02 else 0) 0 q

/-- R133, R357, R372, R374, R383, R407, R414, R417, Table 20.3: the end of a command. PSTAT takes the result and its
value, vector 2 is raised, and the command is no longer busy; a result that already stood is reported; otherwise the
command's own effect is done, once what it reads has come. After ZEROFILL every byte of its granules reads 0 and every
other byte reads as before. A new range table stands from its reading on, and RANGEINV ends when no access is under
way under the old one (the model's reading, log 48); LOAD and ATTEST end when what they store stands at its homes. -/
def Obligations.CommandsFinish : Prop := ∀ (s : State) (p : Nat) (c : Cmd), (s.part p).cmd = some c →
  let q := s.part p
  let arg := fun n => (c.args.getD n 0#64).toNat
  let done := fun (t : State) (result value : Nat) => (t.withdraw p).setPart p { (t.withdraw p).part p with
    pstat := BitVec.ofNat 64 (value % 2 ^ 32 * 2 ^ 32 + result % 256), cmd := none, irqs := ((t.withdraw p).part p).irqs ++ [2] }
  let ends := fun (t : State) (result value : Nat) => exec (.commandEnd p) s = .next (done t result value)
  let goesOn := fun (t : State) => exec (.commandEnd p) s = .next t
  let marked := fun (value : Nat) (g : Option Graph) => some { c with ended := some (0, value), graph := g }
  (c.result ≠ 0 → ends s c.result c.value)
  ∧ (c.result = 0 → c.ended = none →
    (c.code = 1 → ∀ x t, State.readTable p (arg 1) s = (x, t) →
      (x = none → goesOn t) ∧ (∀ i, x = some (.inl i) → ends t 0x05 i)
      ∧ ∀ l, x = some (.inr l) → ends (t.setPart p { t.part p with
        stamps := AMap.put (arg 0)
          { table := arg 1, cls := arg 2 % 4, hh := bits (arg 2) 15 8, prot := bitAt (arg 2) 16,
            context := bits (arg 2) 47 32, ring := arg 3, logSize := arg 4, serial := 0, descs := l, oldTable := none }
          (t.part p).stamps }) 0 0)
    ∧ (c.code = 2 → s.stampBusy p (arg 0) = false → ends
        ((s.setPart p { q with stamps := AMap.del (arg 0) q.stamps }).dropRanges p (arg 0)) 0 0)
    ∧ (c.code = 3 → ∀ x t, State.readTable p (arg 1) s = (x, t) →
      (x = none → goesOn t) ∧ (∀ i, x = some (.inl i) → ends t 0x05 i)
      ∧ ∀ l, x = some (.inr l) → goesOn (t.setPart p { t.part p with
        stamps := AMap.adj (arg 0) (fun r => { r with table := arg 1, descs := l, oldTable := some r.descs }) (t.part p).stamps,
        cmd := marked 0 none }))
    ∧ (c.code = 4 → ∃ t, ends t 0 0
        ∧ (∀ a, t.byte a = if arg 0 ≤ a ∧ a < arg 0 + 4096 * arg 1 then 0#8 else s.byte a)
        ∧ (∀ a, Sparse.get false t.poison a
            = if arg 0 ≤ 32 * a ∧ 32 * a < arg 0 + 4096 * arg 1 then false else Sparse.get false s.poison a)
        ∧ ∀ e ∈ t.l2, e.2.pa < arg 0 ∨ arg 0 + 4096 * arg 1 ≤ e.2.pa)
    ∧ (c.code = 5 → ∀ x t, State.deviceBytes p (arg 1) (arg 0) s = (x, t) →
      (x = none → goesOn t)
      ∧ ∀ l, x = some l → (∀ code value, t.loadCheck p l = .inl (code, value) → ends t code value)
        ∧ ∀ y, t.loadCheck p l = .inr y → let u := t.fillAll p y.binary y.ias
          goesOn (u.setPart p { u.part p with
            cmd := marked (y.handle + 256 * y.first) (some (y.binary.graph y.ias y.first)) }))
    ∧ (c.code = 6 → s.graphDone p (arg 0) = true → ends (s.setPart p { q with graphs := AMap.del (arg 0) q.graphs }) 0 0)
    ∧ (c.code = 7 → ends (s.setPart p { q with
        channels := AMap.put (arg 0) { owner := arg 1, key := arg 2, last := 0, cmds := [] } q.channels }) 0 0)
    ∧ (c.code = 8 → ∀ l ctx m, AMap.find (arg 2) q.sets = some (l, ctx) → memberIndex l s.station.toNat = some m →
        ∀ x t, State.deviceBytes p 32 (arg 0) s = (x, t) → (x = none → goesOn t)
          ∧ ∀ nonce, x = some nonce → let u := t.attestNow p nonce (arg 1) l m
            goesOn (u.setPart p { u.part p with attest := none, cmd := marked 0 none }))
    ∧ (c.code = 9 → ∀ x t, State.deviceBytes p (4 * arg 2) (arg 1) s = (x, t) → (x = none → goesOn t)
        ∧ ∀ bytes, x = some bytes →
          let l := (List.range (arg 2)).map (fun i => field bytes (4 * i) 4)
          (∀ m, memberIndex l t.station.toNat = some m →
            ends (t.setPart p { t.part p with sets := AMap.put (arg 0) (l, arg 3 % 2 ^ 32) (t.part p).sets }) 0 m)
          ∧ (memberIndex l t.station.toNat = none → ends t 0x02 0)))
  ∧ (c.result = 0 → ∀ code value, c.ended = some (code, value) →
    (c.code = 3 → s.translating p (arg 0) = false → ends
        ((s.setPart p { q with stamps := AMap.adj (arg 0) (fun r => { r with oldTable := none }) q.stamps }).dropRanges p (arg 0))
        code value)
    ∧ (c.code ≠ 3 → s.deviceBusy p .image = false → (c.graph = none → ends s code value)
      ∧ ∀ g, c.graph = some g → ends (s.setPart p { q.zeroSlots g.firstSlot g.nodes.length with
          graphs := AMap.put (value % 256) g q.graphs }) code value))
  ∧ (∀ began, q.attest = some began → began + 500 * s.ftmo.toNat ≤ s.netClock →
      exec (.attestMemberTimeout p) s = .next (done (s.setPart p { q with attest := none }) 0x02 0))

/-- R4, R315, R348, R352, R369, R382–R384, R386, R401, R403: what the host's and the postmaster's register writes do.
An invalidation or a REPLAY waits behind posted writes of its function that are under way (R387, log 54); an
invalidation takes the next serial as it is written, then drops the translations it covers and raises the generation
in the partition's quadrants, but for those in which a walk on its fifth start, or an invalidation before it, holds it
back; it is done when it has reached every quadrant and the walks there that were older, of any partition, have ended
or started again; TLBICMD's reserved bits read 0. (IAs alike in bits 51–12 are covered alike, the model's choice, log
92.) QOPEN and counters clear, by their events and by their registers, arming bits are set, a gauge of the partition's
own numbering and limits take their values, POWLIM and FTMO only within their ranges (outside them the registers stay:
the model's choice, log 30). -/
def Obligations.RegisterWrites : Prop := ∀ (s : State) (p : Nat),
  let q := s.part p
  let quads := (List.range 32).filter (fun u => (List.range 20).any (fun k => s.hasSlice p (20 * u + k)))
  let later := fun u => s.holdsBack u || q.invals.any (fun i => i.held.contains u)
  let now := quads.filter (fun u => !later u)
  let raised := fun (t : State) => ∀ u, Sparse.get 0 t.gens u = if u ∈ now then Sparse.get 0 s.gens u + 1 else Sparse.get 0 s.gens u
  let drops := fun (i : Instr) (val : BitVec 64) (covers : TlbEntry → Bool) => ∃ t, exec i s = .next t
    ∧ t.tlb = s.tlb.filter (fun e => !(e.part == p && now.contains e.quad && covers e)) ∧ raised t
    ∧ t.part p = { q with tlbicmd := val, issued := q.issued + 1#32, invals := q.invals ++ [{
        serial := some (q.issued + 1#32), cmd := val.toNat, held := quads.filter later,
        waits := now.flatMap (fun u => (s.walks.filter (fun e => e.2.quad == u)).map (fun e => (e.1, e.2.gen))) }] }
    ∧ SameMemory s t ∧ t.groups = s.groups
  (Open s p → ∀ val : BitVec 64,
    let kept := val &&& 0x000FFFFFFFFFFFF3#64
    let first := bits val.toNat 51 12
    let after := first + bits val.toNat 11 4 + 1
    (q.behind = [] → s.postedBefore p s.nextId = true →
      (val.toNat % 4 = 0 → SetsPart (.tlbiAll p val) s p { q with
        tlbicmd := kept, issued := q.issued + 1#32, behind := [(s.nextId, HostWrite.tlbi kept (q.issued + 1#32))] })
      ∧ SetsPart (.replay p) s p { q with behind := [(s.nextId, HostWrite.replay)] })
    ∧ (q.behind = [] → s.postedBefore p s.nextId = false → (val.toNat % 4 = 0 → drops (.tlbiAll p val) kept (fun _ => true))
      ∧ (val.toNat % 4 = 1 → drops (.tlbiStage1Range p val) kept
        (fun e => decide (first ≤ e.gran % 2 ^ 40 ∧ e.gran % 2 ^ 40 < after)))
      ∧ (val.toNat % 4 = 2 → drops (.tlbiStage2Range p val) kept
        (fun e => e.guests.any (fun g => decide (first ≤ g ∧ g < after)))))
    ∧ (∃ t, exec (.ttbWrite p false val) s = .next t ∧ (t.part p).ttb1 = val &&& 0x000FFFFFFFF00000#64
        ∧ t.tlb = s.tlb.filter (fun e => !(e.part == p && now.contains e.quad)) ∧ raised t ∧ SameMemory s t ∧ t.groups = s.groups)
    ∧ (∀ slot fmt kind, fmt < 8 → kind < 4 → ∃ t, SetsPart (.exceptionCounterClear p slot fmt kind) s p t
        ∧ t = { q with counters := t.counters }
        ∧ ∀ k, Sparse.get 0 t.counters k = if k = 32 * slot + 4 * fmt + kind then 0 else Sparse.get 0 q.counters k)
    ∧ (∀ slot, ∃ t, SetsPart (.emitlostClear p slot) s p t ∧ t = { q with emitlost := t.emitlost }
        ∧ ∀ k, Sparse.get 0 t.emitlost k = if k = slot then 0 else Sparse.get 0 q.emitlost k)
    ∧ (∀ n, SetsPart (.qopenAll p) s p { q with quarantined := [] } ∧ (n < 1024 → ∃ t, SetsPart (.qopenId p n) s p t
        ∧ t = { q with quarantined := t.quarantined }
        ∧ ∀ k, Sparse.get false t.quarantined k = if k = n then false else Sparse.get false q.quarantined k))
    ∧ exec (.registerWrite (.bar0 p 0x2100) val) s
        = exec (if bitAt val.toNat 63 = true then .qopenAll p else .qopenId p (val.toNat % 1024)) s
    ∧ (∀ slot fmt kind, slot < 1024 → fmt < 8 → kind < 4 →
        exec (.registerWrite (.bar0 p (0x10000 + 128 * slot + 16 * fmt + 4 * kind)) val) s
          = exec (.exceptionCounterClear p slot fmt kind) s
        ∧ exec (.registerWrite (.bar0 p (0x30000 + 4 * slot)) val) s = exec (.emitlostClear p slot) s)
    ∧ (∀ n, SetsPart (.xarmWrite p n val) s p { q with xarm := q.xarm.set n (q.xarm.getD n 0#64 ||| val) })
    ∧ (∀ n, n < 6 → SetsPart (.registerWrite (.bar0 p (8 + 8 * n)) val) s p { q with parg := q.parg.set n val })
    ∧ SetsPart (.registerWrite (.bar0 p 0x1148) val) s p { q with xthr := val }
    ∧ (∀ n, n < 16 → SetsPart (.registerWrite (.bar0 p (0x2080 + 8 * n)) val) s p { q with peerin := q.peerin.set n val })
    ∧ (∀ stamp slot n, slot < 31 → n < 8 → ∃ x, SetsPart (.registerWrite (.port p stamp (128 * slot + 8 * n)) val) s p
        { q with ports := AMap.put (32 * stamp + slot) x q.ports }
        ∧ x.status = (q.slot stamp slot).status
        ∧ x.bytes = (q.slot stamp slot).bytes.take (8 * n) ++ leBytes 8 val.toNat ++ (q.slot stamp slot).bytes.drop (8 * n + 8)))
  ∧ (∀ val : BitVec 64, ∃ t, exec (.ttbWrite p true val) s = .next t ∧ (t.part p).ttb2 = val &&& 0x000FFFFFFFF00001#64
      ∧ t.tlb = s.tlb.filter (fun e => !(e.part == p && now.contains e.quad)) ∧ raised t ∧ SameMemory s t ∧ t.groups = s.groups)
  ∧ (let met := fun (i : Inval) => i.held = [] ∧ ∀ w ∈ i.waits,
        AMap.find w.1 s.walks = none ∨ ∃ k, AMap.find w.1 s.walks = some k ∧ w.2 < k.gen
      ∀ pre i rest n, q.invals = pre ++ i :: rest → (∀ x ∈ pre, x.serial = none ∧ met x) → i.serial = some n → met i →
        SetsPart (.tlbiDone p) s p { q with invals := rest, tlbiDone := n })
  ∧ (∀ u n (val : BitVec 32), u.part = p → Open s p →
      (if u.slice = true then (List.range 640).filter (fun k => s.hasSlice p k)
        else (List.range 384).filter (fun k => s.hasCore p k))[u.unit]? = some n →
      let g := s.gauge u.slice n u.index
      exec (.gaugeClear u val) s = .next (s.setGauge u.slice n u.index (if bitAt val.toNat 30 = true
        then { en := bitAt val.toNat 31, src := val.toNat % 256, lo := 0xFFFFFFFF, hi := 0, hist := [] }
        else { g with en := bitAt val.toNat 31, src := val.toNat % 256 })))
  ∧ (∀ slice unit index, exec (.gaugeQueueSample ⟨slice, unit, index⟩) s = .next (s.setGauge slice unit index
      ((s.gauge slice unit index).sample (s.queueOf slice unit).1 (s.queueOf slice unit).2)))
  ∧ (∀ val : BitVec 64, exec (.registerWrite .powlim val) s
      = .next (if 1000 ≤ val.toNat ∧ val.toNat ≤ 5200 then { s with powlim := val } else s))
  ∧ (∀ val : BitVec 64, exec (.registerWrite .ftmo val) s
      = .next (if 20 ≤ val.toNat ∧ val.toNat ≤ 10000000 then { s with ftmo := val } else s))
  ∧ (Open s p → q.behind = [] → s.postedBefore p s.nextId = false → s.splittingIn p = false →
      exec (.replay p) s = .next ((s.setPart p { q with behind := [] }).replay p))

/-- R375, R376, R382, R383: a submitted record joins its node's sack, or its slot says why not: 4 for a stamp unknown
or a TDI that does not run, 3 for no such node, 2 for a full sack; while posted writes of its function are under way
the slot reads 1, busy. (That the submit word then waits in a queue behind them is the model's reading, log 54.) A
channel command for an unknown channel, or at the port of another stamp than its owner, does nothing, and one with two
faults reports the first in the order of the clauses (the model's reading, log 49); any other is started behind those
that run, or reported with its code; at its completion the bytes that AES-256-GCM opens are written, or zeros when the
tag does not fit or a read failed, and its record follows when the writes are acknowledged. (Little-endian fields in
the IV and in the additional data are the model's choice, log 98; that the first half of the slot's value is the GCM
key is its reading, log 22; that the partition's first engine serves the commands, in the order of their arrival among
those of cores, is log 83's.) -/
def Obligations.PortsAndChannels : Prop := ∀ (s : State) (p stamp : Nat),
  let q := s.part p
  let status := fun (t : State) (slot x : Nat) => t.setPart p { t.part p with
    ports := AMap.put (32 * stamp + slot) { (t.part p).slot stamp slot with status := x } (t.part p).ports }
  (∀ slot (word : BitVec 64), slot < 31 → q.behind = [] → s.postedBefore p s.nextId = true →
    SetsPart (.submitRecord p stamp slot word) s p { q with
      ports := AMap.put (32 * stamp + slot) { q.slot stamp slot with status := 1 } q.ports,
      behind := [(s.nextId, HostWrite.submit stamp slot word.toNat (q.slot stamp slot).bytes)] })
  ∧ (∀ slot (word : BitVec 64), slot < 31 → q.behind = [] → s.postedBefore p s.nextId = false →
    let graph := bits word.toNat 23 16
    let node := bits word.toNat 15 0
    (q.tdiRun = false ∨ AMap.find stamp q.stamps = none → exec (.submitRecord p stamp slot word) s = .next (status s slot 4))
    ∧ (q.tdiRun = true → ∀ st, AMap.find stamp q.stamps = some st →
      (q.target graph node = none → exec (.submitRecord p stamp slot word) s = .next (status s slot 3))
      ∧ ∀ gr nd, AMap.find graph q.graphs = some gr → gr.unloading = false → gr.nodes[node]? = some nd →
        let l := (AMap.find node gr.sacks).getD []
        (4096 ≤ l.length → exec (.submitRecord p stamp slot word) s = .next (status s slot 2))
        ∧ (l.length < 4096 → exec (.submitRecord p stamp slot word) s = .next (status
            (s.setPart p { q with
              graphs := AMap.put graph { gr with sacks := AMap.put node (l ++ [{
                       stamp := stamp, payload := (q.slot stamp slot).bytes.take nd.recSize, bound := bits word.toNat 63 48,
                       solo := bitAt word.toNat 32, cls := st.cls, arrival := s.netClock }]) gr.sacks } q.graphs }) slot 0))))
  ∧ (Open s p → (AMap.find (q.slot stamp 31).command.chan q.channels = none
        ∨ ∃ ch, AMap.find (q.slot stamp 31).command.chan q.channels = some ch ∧ ch.owner ≠ stamp) →
      exec (.channelCommand p stamp) s = .next s)
  ∧ (Open s p → ∀ ch,
    let c := (q.slot stamp 31).command
    let report := fun code => exec (.channelCommand p stamp) s = .next (s.reportChannel p stamp c.chan code 0 ch.last)
    AMap.find c.chan q.channels = some ch → ch.owner = stamp →
    (c.counter ≤ ch.last → report 0x11)
    ∧ (ch.last < c.counter → s.writable p stamp c.dst c.len = false → report 0x12)
    ∧ (ch.last < c.counter → s.writable p stamp c.dst c.len = true →
      (¬ (c.len % 16 = 0 ∧ c.host % 16 = 0 ∧ c.dst % 16 = 0 ∧ c.len ≤ 2 ^ 24) → report 0x14)
      ∧ (c.len % 16 = 0 → c.host % 16 = 0 → c.dst % 16 = 0 → c.len ≤ 2 ^ 24 →
          exec (.channelCommand p stamp) s = .next (State.setPart { s with nextId := s.nextId + 1 } p { q with
            channels := AMap.put c.chan { ch with last := c.counter, cmds := ch.cmds ++ [{
              id := s.nextId, host := c.host, dst := c.dst, len := c.len, counter := c.counter, text := [], closing := none }] }
              q.channels }))))
  ∧ (∀ chan ch (c : ChanOp) rest key, AMap.find chan q.channels = some ch → ch.cmds = c :: rest →
      AMap.find ch.key s.keys = some key → s.turnAt p (s.hostEngine p) c.id = true → s.deviceBusy p (.channel chan) = false →
      let holds := fun (l : List ChanOp) => s.setPart p { q with channels := AMap.put chan { ch with cmds := l } q.channels }
      let closes := fun (x : Option (List Byte)) (status off : Nat) (l : List Byte) =>
        exec (.channelCommandComplete p chan x) s = .next
          ((holds ({ c with closing := some status } :: rest)).chanWrite p chan ch.owner (c.dst + off) l)
      let iv := leBytes 4 chan ++ leBytes 8 c.counter
      let k := c.text.length
      let text := fun (l : List Byte) => c.text ++ (l.take c.len).drop k
      let fits := fun (l : List Byte) =>
        gcmTag key.value iv (leBytes 4 chan ++ leBytes 4 c.len ++ leBytes 8 c.dst) (text l) = (l.drop c.len).take 16
      (∀ status x, c.closing = some status → exec (.channelCommandComplete p chan x) s
        = .next ((holds rest).reportChannel p ch.owner chan status (if status = 0 then c.len else 0) ch.last))
      ∧ (c.closing = none → closes none 0x13 0 (List.replicate c.len 0#8)
        ∧ (∀ l, ¬ fits l → closes (some l) 0x10 0 (List.replicate c.len 0#8))
        ∧ ∀ l, fits l → closes (some l) 0 k ((gcmText key.value iv k ((text l).drop k)).take (c.len - k))))

/-- R370, R371, R396–R399, R402, R404, R414, R416: accesses of the host and of peers, and answers to the device's own.
A host access that its partition's function takes, within BAR 4, stands at its home slice behind what has arrived;
another read or atomic is answered with Unsupported Request, and another posted write is lost (for an access that is
not wholly inside BAR 4 the model's choice, log 80). A peer's access enters where Table 22.1 and the PEERIN map let
it, in the class of its header or, past its quota, as bulk, and is answered with an abort otherwise; an answer leaves
by the peer's port, in the partition's slots and its request's class, or at once where no such partition exists (log
84, the model's choice). A completion under an earlier epoch is dropped and counted; a destination with an overdue
request is quarantined under a new epoch, and every request and collective that goes to it ends as peer-lost, as an
aborted request does (the latter the model's reading, log 29); an outside request past 8 µs that is not performed is
aborted, or discarded when it is posted, with a record where it waits behind a held write. ATS answers with the host's
page, which stands among the model's addresses from 2^51 on (the model's choice, log 35), or with a refusal, which
sends a page request. -/
def Obligations.OutsideAccesses : Prop := ∀ (s : State),
  let stands := fun (r : Req) => { r with
    st := .arrived, hops := [], since := s.netClock, ppm := (s.part r.part).ppm, arrival := s.nextId + 1 }
  let enters := fun (i : Instr) (r : Req) => exec i s
    = .next { s with reqs := AMap.put s.nextId (stands r) s.reqs, nextId := s.nextId + 2 }
  let answers := fun (i : Instr) (t : State) (r : Reply) => exec i s = .next { t with replies := s.replies ++ [r] }
  (∀ p ia,
    let fits := fun (n : Nat) => Open s p ∧ ia + n ≤ (s.part p).bar4
    (∀ data, (fits data.length →
        enters (.hostIaWrite p ia data) (s.outside (.host 0) p ia (.write data.length (leVal data) false)))
      ∧ (¬ fits data.length → exec (.hostIaWrite p ia data) s = .next s))
    ∧ (∀ n, (fits n → enters (.hostIaRead p ia n) (s.outside (.host s.nextId) p ia (.readBytes n)))
      ∧ (¬ fits n → answers (.hostIaRead p ia n) { s with nextId := s.nextId + 1 }
          { toPeer := none, tag := s.nextId, data := [], abort := false, unsupported := true }))
    ∧ (∀ op n x c, op = .add ∨ op = .xchg ∨ op = .cas → n = 4 ∨ n = 8 → ia % n = 0 → fits n →
        enters (.hostAtomic p ia op n x c) (s.outside (.host s.nextId) p ia (.atomic op n [(x, c)] false)))
    ∧ (∀ op n x c, ¬ fits n → answers (.hostAtomic p ia op n x c) { s with nextId := s.nextId + 1 }
        { toPeer := none, tag := s.nextId, data := [], abort := false, unsupported := true }))
  ∧ (∀ peer part ia op, part < 8 → ia < 2 ^ 37 →
    let off := 2 ^ 37 * part + ia
    let lets := (s.part part).valid = true ∧ (s.part part).lets peer = true
    let r := fun (c : Cls) (ask : Ask) => { s.outside (.peer peer s.nextId) part ia ask with cls := c, mask := peerMask op }
    (peerAsk ia op = none ∨ ¬ lets →
      ((s.part part).valid = false → answers (.peerRequest peer off op) s
        { toPeer := some peer, tag := s.nextId, data := [], abort := true, cls := peerCls op })
      ∧ ((s.part part).valid = true → exec (.peerRequest peer off op) s
        = .next (s.post peer { r (peerCls op) .read with st := .back (.fault 0 0) } 0)))
    ∧ (∀ ask, peerAsk ia op = some ask → lets → peerMark peer op = none →
      (peerCls op = 0 → enters (.peerRequest peer off op) (r 0 ask))
      ∧ ∃ c t, exec (.peerRequest peer off op) s = .next t ∧ (c = peerCls op ∨ c = 0)
          ∧ t.reqs = AMap.put s.nextId (stands (r c ask)) s.reqs ∧ SameMemory s t ∧ t.groups = s.groups))
  ∧ (∀ p d rid epoch data abort,
    let q := s.part p
    (epoch ≠ q.epoch d → SetsPart (.peerCompletion p d rid epoch data abort) s p { q with late := min (2 ^ 32 - 1) (q.late + 1) })
    ∧ (∀ r pa e at_, epoch = q.epoch d → AMap.find rid s.reqs = some r → r.st = .atPeer d pa e (some at_) → r.part = p →
      exec (.peerCompletion p d rid epoch data abort) s = .next (if abort = true
        then (s.unqueue rid).failLost [(rid, r)] else (s.unqueue rid).peerAnswer rid r pa data)))
  ∧ (∀ p d,
    let q := s.part p
    let rs := s.toDest p d
    (∃ e ∈ rs, s.overdue e.2 = true) → exec (.peerQuarantine p d) s = .next
      (((rs.foldl (fun s e => s.unqueue e.1) (s.setPart p { q with
        epochs := Sparse.set 0#8 q.epochs d (q.epoch d + 1#8), quarantined := Sparse.set false q.quarantined d true,
        trips := min (2 ^ 32 - 1) (q.trips + 1) })).failLost rs).loseColls p d))
  ∧ (∀ rid r tag, AMap.find rid s.reqs = some r → r.unserved = true → r.since + 20000 ≤ s.netClock →
    let gone := ((s.recordAll (s.heldRecords rid r)).unqueue rid).dropReq rid
    let told := fun (to_ : Option Nat) => State.afterPosted { gone with
      replies := gone.replies ++ [{ toPeer := to_, tag := tag, data := [], abort := true, cls := r.cls }] } r.part
    (∀ peer, r.src = .peer peer tag → exec (.completerDeadline rid) s = .next
      (if (gone.part r.part).valid = true then (gone.post peer { r with st := .back (.fault 0 0) } 0).afterPosted r.part else told (some peer)))
    ∧ (r.src = .host tag → exec (.hostCompleterDeadline rid) s
        = .next (if r.posted = true then gone.afterPosted r.part else told none)))
  ∧ (∀ wid w e, AMap.find wid s.walks = some w → w.st = .found (.host e) →
    (Sparse.get 0 s.gens w.quad = w.gen ∨ 4 ≤ w.restarts →
      (∀ h, exec (.atsCompletion wid (some h)) s = .next (s.wake wid { e with pa := 2 ^ 51 + h % 2 ^ 50 / 4096 * 4096 } w))
      ∧ exec (.atsCompletion wid none) s = .next ((State.failAll { s with pri := s.pri ++ [(w.part, w.ia / 4096)] } (s.walkers wid)
          0x03 0 (w.ia / 4096)).endWalk wid w.quad))
    ∧ (Sparse.get 0 s.gens w.quad ≠ w.gen → w.restarts < 4 → ∀ h, exec (.atsCompletion wid h) s = .next (s.restartWalk wid w)))
  ∧ (∀ peer nonce, answers (.evidenceRequest peer nonce) s
      { toPeer := some peer, tag := 0, data := shake256 (s.evidenceInputs nonce), abort := false })

/-- R408–R411: a READY under the set's digest is held; a collective whose READYs have not all come within FTMO ends
with code 7; one whose members are ready moves its data once the stores of its commit are performed, and one that lost
a member, or has one that is quarantined, is lost; one whose writes are acknowledged ends. An all-reduce of 32-bit
integers gives the sums, whatever the order; an all-gather places the members' elements in the order of the set; a
broadcast gives the root's. -/
def Obligations.Collectives : Prop := ∀ (s : State) (p set_ tag : Nat),
  let q := s.part p
  let key := 2 ^ 32 * set_ + tag
  (∀ l ctx member, AMap.find set_ q.sets = some (l, ctx) → member < l.length →
    SetsPart (.collReady p set_ tag member (shake256 (l.flatMap (leBytes 4) ++ leBytes 4 ctx))) s p
      { q with readies := q.readies ++ [(key, member)] })
  ∧ (∀ r, s.running p set_ tag = some r → s.isSaved r.g = false →
    let closed := fun (status : Nat) => ((s.setPart p { q with
      colls := AMap.del key q.colls,
      readies := (List.range r.stations.length).foldl (fun l k => l.erase (key, k)) q.readies })).endCommand r.gid r.o.id r.d status
    (∀ c, AMap.find key q.colls = some c → q.allReady key r.stations.length r.m = false →
      c.started + 250 * s.ftmo.toNat ≤ s.netClock → exec (.collHandshakeTimeout p set_ tag) s = .next (closed 7))
    ∧ ((∃ x ∈ r.o.lanes, x.st = .waiting) → ∀ order,
      (r.o.progress < 2 → exec (.collComplete p set_ tag none order) s = .next (s.collLost r))
      ∧ (∀ contribs, r.o.progress < 2 →
        ((∃ x ∈ r.stations, x ≠ s.station.toNat ∧ Sparse.get false q.quarantined (x % 1024) = true) →
          exec (.collComplete p set_ tag (some contribs) order) s = .next (s.collLost r))
        ∧ ((∀ x ∈ r.stations, x = s.station.toNat ∨ Sparse.get false q.quarantined (x % 1024) = false) →
          s.unperformedBefore r.g.block ((r.o.lanes.map LaneReq.data).headD 0) = false → s.writesDone r.gid r.o.id = true →
          q.allReady key r.stations.length r.m = true →
          exec (.collComplete p set_ tag (some contribs) order) s = .next (s.moveColl r contribs order)))
      ∧ (∀ contribs, 2 ≤ r.o.progress → s.writesDone r.gid r.o.id = true →
        exec (.collComplete p set_ tag contribs order) s = .next (closed ((r.o.lanes.map LaneReq.val).headD 0)))))
  ∧ (∀ (c : CollDesc) n m order src, 0 < n →
    (c.op = 0 → c.ty = 2 → ∀ i, i < c.cnt → elemAt 4 (collResult c n m order src) i
      = ((List.range n).map (fun k => elemAt 4 (src k) i)).sum % 2 ^ 32)
    ∧ (c.op = 2 → ∀ k i, k < n → i < c.cnt → elemAt (collWidth c.ty) (collResult c n m order src) (k * c.cnt + i)
      = elemAt (collWidth c.ty) (src k) i)
    ∧ (c.op = 3 → ∀ i, i < c.cnt → elemAt (collWidth c.ty) (collResult c n m order src) i
      = elemAt (collWidth c.ty) (src c.root) i))

/-- R305–R307, R309, R312, R322–R324, R330, R347–R350, R352, R354: a request at its home slice, in a slot of its
partition. One under an outdated postmark is dropped; a request of a core, an engine or the device waits while one
that arrived before it at a line of its own stands, a core's also while an earlier one of its own to a line of it is
on its way or stands, one of the two a write, and an atomic behind an earlier one of its group for the slice (the
model's reading, log 19); a DISCARD drops the slice's own blocks of its tensor; otherwise it is performed where a TLB
holds its translation, and asks for a walk where none does. A walk that ends in a fault or at a poisoned entry fails
the accesses that wait for it, under whatever generation. One that ends at a leaf which they may all use has A, and D
for a write, set by a swap in each leaf that lacks them, in memory that the partition may write; then it wakes them,
but a walk older than an invalidation, or whose swap finds another value, starts again, until its fifth start. -/
def Obligations.SliceRequests : Prop := ∀ (s : State),
  (∀ rid r high, AMap.find rid s.reqs = some r →
    let dropped := { s with reqs := AMap.del rid s.reqs }
    let answers := fun (t : State) => exec (.sliceRequest rid high) s = .next t
    (s.inSlot (.slice r.home) r.part = false → answers s)
    ∧ (s.inSlot (.slice r.home) r.part = true → (r.ppm ≠ (s.part r.part).ppm → answers dropped)
      ∧ (r.ppm = (s.part r.part).ppm →
        ((∃ a, r.src = .host a) ∨ (∃ a t, r.src = .peer a t) → answers ((s.outsideRequest rid r).afterPosted r.part))
        ∧ (r.src = .commit ∨ (∃ g o l, r.src = .group g o l) ∨ (∃ g o, r.src = .engine g o) ∨ (∃ u, r.src = .device u) →
          r.st = .arrived →
          ((∃ e ∈ s.reqs, e.1 ≠ rid ∧ e.2.part = r.part ∧ e.2.queued = true ∧ e.2.arrival < r.arrival ∧ e.2.linesMeet r = true) →
            answers s)
          ∧ ((∃ e ∈ s.reqs, e.1 < rid ∧ e.2.part = r.part ∧ (e.2.st = .transit ∨ e.2.queued = true)
              ∧ ((e.2.ofCore = true ∧ r.ofCore = true ∧ e.2.core = r.core ∧ e.2.linesMeet r = true
                  ∧ (e.2.ask.isWrite = true ∨ r.ask.isWrite = true))
                ∨ (∃ g, e.2.atomicOf = some g ∧ r.atomicOf = some g ∧ e.2.home = r.home))) → answers s)
          ∧ (s.mustWait rid r = false →
            (∀ n, r.ask = .discard n → r.ia = 0 → let t := s.sampleService r
              answers (State.sendBack { t with
                l2 := t.l2.filter (fun e => !(e.1 / 2 ^ 52 == r.part && e.2.slice == r.home && e.2.tensor == n)) } rid r (.values 0 [])))
            ∧ ((∀ n, r.ask ≠ .discard n) →
              (∀ e, s.tlbHit r.part r.home r.ia r.stamp r.need = some e →
                answers ((s.tlbPull r.home e).perform rid r (e.pa + r.ia % 4096) e.keyid high))
              ∧ (s.tlbHit r.part r.home r.ia r.stamp r.need = none → answers (s.askWalk rid r r.ia r.home))))))))
  ∧ (∀ wid w, AMap.find wid s.walks = some w →
    let answers := fun (t : State) => exec (.walkComplete wid false) s = .next t
    let ws := s.walkers wid
    let done := fun (t : State) => t.endWalk wid w.quad
    (∀ k, w.st = .found (.fault k) → answers (done (s.failAll ws k 0 (w.ia / 4096))))
    ∧ (∀ pa, w.st = .found (.poisoned pa) → answers (done (s.failPoison ws (fun _ => 6) (w.ia / 4096) [pa])))
    ∧ (∀ e e1 leaves, w.st = .found (.leaf e e1 leaves) → ws ≠ [] → (∀ x ∈ ws, s.verdict e e1 x.2.stamp x.2.need = none) →
      let write := ws.any (fun x => x.2.need.w)
      let want := fun (l : Nat × Nat × Bool) => l.2.1 ||| 32 ||| (if (write && l.2.2) = true then 64 else 0)
      ((∀ l ∈ leaves, want l = l.2.1) →
        (Sparse.get 0 s.gens w.quad ≠ w.gen → w.restarts < 4 → answers (s.restartWalk wid w))
        ∧ (Sparse.get 0 s.gens w.quad = w.gen ∨ 4 ≤ w.restarts → ofHostMem e.pa = false →
          answers (s.wake wid { e with d := e.d || write } w)))
      ∧ (∀ pre l rest, leaves = pre ++ l :: rest → (∀ x ∈ pre, want x = x.2.1) → want l ≠ l.2.1 →
        ((s.part w.part).paOk l.1 true = true → answers
          ((s.setWalk wid { w with st := .swapping e e1 (l :: rest) write }).walkAsk wid w l.1 (.atomic .cas 8 [(want l, l.2.1)] false)))
        ∧ ((s.part w.part).paOk l.1 true = false → answers (done (s.failAll ws 0x0C 0 (w.ia / 4096))))))
    ∧ (∀ e e1 l rest write tag old, w.st = .swapping e e1 (l :: rest) write → w.restarts < 4 → old ≠ l.2.1 →
      s.walkAnswer wid l.1 (.values tag [old]) = s.restartWalk wid w))

/-! ## Launch, pre-emption, links, partitions -/

/-- R64, R154–R156, R201, R273–R277, R279, R283, R291, R294–R296, R368, R375–R378, R381: from records to groups and
back. The sorting office takes a sack's first record, which joins no batch whose window is over, and opening a ninth
batch closes the oldest; a window that has passed closes its batch; the first ready batch that a cluster can admit is
launched there; a group whose operations are done, and whose sends have landed, leaves its block at once, and each of
its stamps is told once the block's stores so far are visible at .pod (the model's choices, logs 15 and 72). A
pre-emption does, after a split that runs, the mode of least Q among those that fit its bound, else of least T, the
first of drain, save and flush on a tie; Table 13.2 gives T and Q of one block. A save waits for the writes of other
blocks that its groups may have read at their cores (the model's reading, log 102); one that is complete leaves its
blocks saved and changes no memory outside the save area (what it leaves there is the model's choice, log 17); a saved
block that a core can take is restored there, where its cluster still meets the node's blocks=; a turn's end and the
clear that follows it empty a cluster; no cluster's tenure changes twice within 100 µs; a fenced core loses its
blocks. -/
def Obligations.LaunchAndPreemption : Prop := ∀ (s : State),
  (∀ p graph node gr r rest nd, AMap.find graph (s.part p).graphs = some gr → AMap.find node gr.sacks = some (r :: rest) →
    gr.nodes[node]? = some nd →
    let old := (s.part p).expired s.netClock
    let q := { old with graphs := AMap.put graph { gr with sacks := AMap.put node rest gr.sacks } (s.part p).graphs }
    (∀ l, s.offerAll p graph node nd r q.batches = (true, l) →
      SetsPart (.recordArrival p graph node) s p { q with batches := l }
      ∧ ∀ k b, AMap.find k (s.part p).batches = some b → b.closed = false → b.graph = graph → b.node = node →
          nd.window ≠ 0 → b.opened + nd.window ≤ s.netClock →
          ∃ b', AMap.find k l = some b' ∧ b'.closed = true ∧ b'.slots = b.slots)
    ∧ (∀ l, s.offerAll p graph node nd r q.batches = (false, l) →
      (l.filter (fun e => e.2.graph == graph && e.2.node == node && !e.2.closed)).length < 8 →
      exec (.recordArrival p graph node) s = .next { s.setPart p { q with
        batches := AMap.put s.nextId (s.openBatch p graph node nd r) l } with nextId := s.nextId + 1 })
    ∧ (∀ l k more, s.offerAll p graph node nd r q.batches = (false, l) →
      (l.filter (fun e => e.2.graph == graph && e.2.node == node && !e.2.closed)).map Prod.fst = k :: more → 7 ≤ more.length →
      exec (.recordArrival p graph node) s = .next { s.setPart p { q with
        batches := AMap.put s.nextId (s.openBatch p graph node nd r) (AMap.adj k (fun b => b.close s.netClock) l) } with
          nextId := s.nextId + 1 }))
  ∧ (∀ p id b gr nd, AMap.find id (s.part p).batches = some b → AMap.find b.graph (s.part p).graphs = some gr →
    gr.nodes[b.node]? = some nd → nd.window ≠ 0 → b.closed = false → b.opened + nd.window ≤ s.netClock →
    SetsPart (.batchWindowClose p id) s p { s.part p with
      batches := AMap.put id { b with closed := true, readyAt := b.opened + nd.window } (s.part p).batches })
  ∧ (∀ p id b rest nd cluster cores,
    let t := s.setPart p ((s.part p).expired s.netClock)
    (t.part p).ready = (id, b) :: rest → t.batchNode p b = some nd →
    t.placeFor p nd b = some (cluster, cores) → exec (.batchDispatch p) s = .next (t.launch p id b nd cluster cores))
  ∧ (∀ p bid core nd idx place cls recs grans,
    let g := s.newGroup p bid core nd idx place cls recs grans
    let ls := packLanes nd.quadPack recs
    g.pc = 0 ∧ g.alloc = nd.regs / 16 ∧ g.block = bid ∧ g.reccnt = recs.length ∧ g.intrap = false ∧ g.grid = false
    ∧ g.mtx = false ∧ g.strict = nd.strict ∧ g.q = [] ∧ g.ops = [] ∧ g.fpxmask = 0x1F#5
    ∧ (∀ n, n < 61 → g.sreg n = 0#64)
    ∧ (∀ w, w < 3 → ls.length ≤ 96 → g.sreg (61 + w) = BitVec.ofNat 64 ((2 ^ ls.length - 1) / 2 ^ (32 * w) % 2 ^ 32))
    ∧ (∀ j k r, ls[j]? = some (some r) → k < 16 →
        g.vreg j k = BitVec.ofNat 32 (leVal ((r.payload.drop (4 * k)).take 4)))
    ∧ (∀ j k, (∀ r, ls[j]? ≠ some (some r)) ∨ (16 ≤ k ∧ k < 256) → k < 256 → g.vreg j k = 0#32))
  ∧ (∀ gid g b, Stands s gid g b →
    let gone := fun status => exec (.groupEnd gid) s = .next ((State.removeGroup
      { s with reports := s.reports ++ g.stamps.map (s.reportOf gid g b status) } gid).writeReports gid)
    (∀ status, g.ended = some status → s.sendsOut b s.nextId = false → gone status)
    ∧ (g.ended = none → s.sendsOut b g.commitTo = false → g.wait = .ending → b.mode ≠ .saving → g.ops = [] → g.copying = none → g.courses = [] →
        g.arrivalDue b = false → gone (if g.intrap then 1 else 0)))
  ∧ (∀ gid g b status stamp,
    let r := s.reportOf gid g b status stamp
    r.gid = gid ∧ r.part = b.part ∧ r.block = g.block ∧ r.upto = s.nextId ∧ r.stamp = stamp ∧ r.node = b.nodeIdx
    ∧ r.status = status ∧ r.lanes = ((AMap.vals g.lanes).filter (fun l => !l.help && l.stamp.toNat == stamp)).length
    ∧ r.trapkind = (if status = 1 then g.trapkind.toNat else 0) ∧ r.aux = (if status = 1 then g.trapinfo.toNat else 0))
  ∧ (∀ gid, AMap.find gid s.groups = none →
    ((∀ r ∈ s.reports, r.gid = gid → ∃ e ∈ s.reqs, e.1 < r.upto ∧ e.2.block = r.block ∧ e.2.outTo 5 = true) →
      exec (.groupEnd gid) s = .next s)
    ∧ (∀ r, s.reports = [r] → r.gid = gid → (∀ e ∈ s.reqs, e.2.block = r.block → e.2.outTo 5 = false) →
      exec (.groupEnd gid) s = .next (State.writeReport { s with reports := [] } r)))
  ∧ (∀ (modes : List (Mode × Estimate)) bound,
    let fits := fun (x : Mode × Estimate) => x.2.t ≤ bound
    (modes ≠ [] → chooseMode modes bound ≠ none)
    ∧ ∀ m, chooseMode modes bound = some m → ∃ before e after, modes = before ++ (m, e) :: after
      ∧ ((∃ x ∈ modes, fits x) → fits (m, e) ∧ (∀ x ∈ before, fits x → e.q < x.2.q) ∧ ∀ x ∈ after, fits x → e.q ≤ x.2.q)
      ∧ ((∀ x ∈ modes, ¬ fits x) → (∀ x ∈ before, e.t < x.2.t) ∧ ∀ x ∈ after, e.t ≤ x.2.t))
  ∧ (∀ bid b,
    let drain := if b.elapsed < b.node.cycles then b.node.cycles - b.elapsed else (b.node.cycles + 3) / 4
    let save := 256 + (s.saveVolume bid b + 127) / 128
    s.modesOf [(bid, b)] = if s.collOut [bid] = true then [(.drain, { t := drain, q := drain })]
      else [(.drain, { t := drain, q := drain }), (.save, { t := save, q := 2 * save })]
        ++ if b.committed = true then [] else [(.flush, { t := 64, q := 64 + b.elapsed })])
  ∧ (∀ bid b bound, AMap.find bid s.blocks = some b → b.mode = .running → b.asked = [] →
    let blocks := s.cohortBlocks b
    let mode := chooseMode (s.modesOf (s.blockList blocks)) bound
    (s.splitDue blocks = true → exec (.preemptionRequest bid bound) s = .next (s.setBlock bid { b with asked := [bound] }))
    ∧ (s.splitDue blocks = false → (mode = some .drain → exec (.preemptionRequest bid bound) s = .next (s.setMode blocks .draining bound))
    ∧ (mode = some .save → exec (.preemptionRequest bid bound) s
        = .next ((blocks.foldl (fun s b => s.commit b) (s.setMode blocks .saving bound)).noteCores blocks))
    ∧ (mode = some .flush → exec (.preemptionRequest bid bound) s = .next (s.kill b.cohort blocks 0 none))))
  ∧ (∀ bid b, AMap.find bid s.blocks = some b → b.mode = .saving →
    let blocks := s.cohortBlocks b
    (∀ e ∈ s.reqs, ¬ (e.2.block ∈ blocks ∧ e.2.ask.isWrite = true)) → s.seenOut blocks = false →
    (∀ c, AMap.find b.cohort s.cohorts = some c → c.sends = []) →
    (∀ e ∈ s.groups, e.2.block ∈ blocks → e.2.copying = none ∧ e.2.latch = none) →
    ∃ t, exec (.saveComplete bid) s = .next t
      ∧ (∀ a, (a < bits ((s.part b.part).word 2) 51 12 * 4096
          ∨ bits ((s.part b.part).word 2) 51 12 * 4096 + 4096 * (s.part b.part).word 3 ≤ a) → t.byte a = s.byte a)
      ∧ (∀ k, (64 * k < bits ((s.part b.part).word 2) 51 12 * 4096
          ∨ bits ((s.part b.part).word 2) 51 12 * 4096 + 4096 * (s.part b.part).word 3 ≤ 64 * k) →
        Sparse.get 0 t.keyTags k = Sparse.get 0 s.keyTags k)
      ∧ ∀ k ∈ blocks, ∀ x, AMap.find k s.blocks = some x → ∃ y, AMap.find k t.blocks = some y ∧ y.mode = .saved)
  ∧ (∀ bid b core, AMap.find bid s.blocks = some b → b.mode = .saved → s.cohortBlocks b = [bid] →
    s.blockList [bid] = [(bid, b)] →
    b.node.blocks ≤ (s.usableCores b.part (core / 4)).length →
    s.clusterAdmits b.part (core / 4) ((b.records.flatten.head?).bind (s.protOf b.part)) = true →
    s.canResume b.part core bid b = true → ∀ c, AMap.find b.cohort (s.restore bid core b).cohorts = some c →
    exec (.blockResume bid core) s = .next ((s.restore bid core b).setCohort b.cohort { c with cluster := core / 4 }))
  ∧ (∀ cluster p, (s.cluster cluster).changing = none → (s.part p).holds 4 cluster = true → (s.part p).tshare ≠ 0 →
    (s.cluster cluster).turn ≠ some p → ((s.cluster cluster).turn = none ∨ ∃ q, (s.cluster cluster).turn = some q
      ∧ (s.cluster cluster).turnStart + 25000 * (s.part q).tshare ≤ s.netClock) → exec (.tshareTurnEnd cluster p) s = .next
      (((s.residentIn cluster).map Prod.fst).foldl (fun s b => s.preempt b 0)
        (s.setCluster cluster { s.cluster cluster with changing := some (.turn p) })))
  ∧ (∀ cluster c, (s.cluster cluster).changing = some c → s.residentIn cluster = [] → s.requestsFrom cluster = false →
    ∀ dirty, ∃ t, exec (.clearSequence cluster dirty) s = .next t ∧ (t.cluster cluster).changing = none
      ∧ (t.cluster cluster).icache = [] ∧ (dirty = true → (t.cluster cluster).reported = true) ∧ SameMemory s t ∧ t.groups = s.groups
      ∧ (∀ x, c = .tenure x → (t.cluster cluster).tenure = x ∧ (t.cluster cluster).lastChange = some s.netClock)
      ∧ (∀ p, c = .turn p → (t.cluster cluster).turn = some p ∧ (t.cluster cluster).tenure = none
          ∧ (t.cluster cluster).turnStart = s.netClock ∧ (t.cluster cluster).lastChange = (s.cluster cluster).lastChange)
      ∧ ∀ k, k < 4 → (t.core (4 * cluster + k)).l1 = [] ∧ (t.core (4 * cluster + k)).ranges = []
          ∧ (t.core (4 * cluster + k)).acc = [] ∧ (t.core (4 * cluster + k)).holder = none
          ∧ (dirty = true → (t.core (4 * cluster + k)).fenced = true))
  ∧ (∀ p l c, s.leastBusy p l = some c →
      let may := fun d => (s.cluster d).changing = none ∧ s.turnOf p d = true
        ∧ ∀ x, (s.cluster d).lastChange = some x → x + 250000 ≤ s.netClock
      c ∈ l ∧ may c ∧ ∀ d ∈ l, may d → (s.residentIn c).length ≤ (s.residentIn d).length)
  ∧ (∀ core,
    let fenced := s.setCore core { s.core core with fenced := true }
    ((∀ e ∈ s.blocks, e.2.core = core → e.2.mode = .saved) → exec (.coreFenceOff core) s = .next fenced)
    ∧ exec (.coreFenceOff core) s = .next (State.loseBlocks 385
        ((s.blocks.filter (fun e => e.2.core == core && e.2.mode != BlockMode.saved)).map Prod.fst) fenced))

/-- R302–R307, R361, R362, R400: the links. A slot that nobody holds stays idle; in another, at most one flit leaves,
of the slot's partition, with the next number, while the retry buffer has room and the link is up; its class is the
one that `slotClass` gives of what is ready and what the last slots carried. In 16 slots of a partition that has
express or bulk flits ready in each, four or more carry them, and one bulk, when it is ready in each. A flit in
sequence with a current postmark is gathered, and the last one brings its packet to its next link, its slice, its
stack or what asked (before its slice it stands behind an earlier one of its own that is still on its way, the model's
reading, log 19); one that fails, and every later one, is discarded and a resend is asked for, which sends again what
the retry buffer holds; eight in a row retrain the link (what is torn then, and the numbers of what is sent again, are
the model's choices, log 43). On a stack's link each flit counts under the link's key, and one that fails may have
failed its tag: which is free (the model's choice, log 86). One stack link of a die rekeys at a time; the key changes
once nothing is in flight on it. A quota period's end restarts a station's quotas. -/
def Obligations.LinkEvents : Prop := ∀ (s : State) (id : LinkId),
  let l := s.link id
  let ofStack := fun n => id = .stack n ∨ id = .stackUp n
  let inner := ∀ n, id ≠ .port n
  let sets := fun (i : Instr) (m : Link) => exec i s = .next (s.setLink id m)
  (s.slotOwner l.slot = none → sets (.frameSlot id) { l with slot := (l.slot + 1) % 16 })
  ∧ (∀ p, s.slotOwner l.slot = some p → ∃ t, exec (.frameSlot id) s = .next t ∧ SameMemory s t ∧ t.groups = s.groups
      ∧ (t.link id).slot = (l.slot + 1) % 16
      ∧ (((t.link id).retry = l.retry ∧ (t.link id).nextSeq = l.nextSeq)
        ∨ ∃ f, (t.link id).retry = l.retry ++ [f] ∧ (t.link id).nextSeq = l.nextSeq + 1#8 ∧ f.seq = l.nextSeq ∧ f.part = p
          ∧ f.ppm = (s.part p).ppm ∧ l.retry.length < 64 ∧ l.retraining = false ∧ l.resend = none ∧ l.again = []
          ∧ (inner → (t.link id).wire = l.wire ++ [f])
          ∧ (l.rekeying = true → ∃ e ∈ l.progress, e.1 = f.rid)
          ∧ (∀ n, id = .stack n → (t.link id).txCount = l.txCount + 1#64)
          ∧ (∀ n, id = .stackUp n → (t.link (.stack n)).rxCount = (s.link (.stack n)).rxCount + 1#64)))
  ∧ (∀ p, s.slotOwner l.slot = some p → l.retraining = false → l.retry.length < 64 → l.resend = none → l.again = [] →
      let ready := fun c => ((s.dropOld id p).candidate ((s.dropOld id p).link id) p c).isSome
      let h := (AMap.find p l.history).getD []
      let c := slotClass h (ready 0) (ready 1) (ready 2)
      ∃ t, exec (.frameSlot id) s = .next t
        ∧ AMap.find p (t.link id).history = some (((c.getD 3, ready 0 || ready 1, ready 0) :: h).take 15)
        ∧ (c = none → (t.link id).retry = l.retry)
        ∧ (∀ k, c = some k → ∃ f, (t.link id).retry = l.retry ++ [f] ∧ f.cls = k))
  ∧ (∀ h rs, rs.length = 16 →
      ((∀ r ∈ rs, r.1 = true ∨ r.2.1 = true) → 4 ≤ ((slotRun h rs).filter (fun c => c == some 0 || c == some 1)).length)
      ∧ ((∀ r ∈ rs, r.1 = true) → some 0 ∈ slotRun h rs))
  ∧ (∀ f rest, l.retraining = false → l.wire = f :: rest →
    (∀ corrupt, l.resend ≠ none → sets (.flitReceive id corrupt) { l with wire := rest })
    ∧ (l.resend = none → f.seq ≠ l.expect →
        sets (.flitReceive id false) { l with wire := rest, resend := some l.expect })
    ∧ (l.resend = none →
        ((∀ n, ¬ ofStack n) → sets (.flitReceive id true) { l with wire := rest, resend := some l.expect })
        ∧ (∀ n, ofStack n → ∃ t, exec (.flitReceive id true) s = .next t
          ∧ (t.link id).wire = rest ∧ (t.link id).resend = some l.expect ∧ t.reqs = s.reqs ∧ SameMemory s t
          ∧ ((t.link (.stack n)).tagFails = (s.link (.stack n)).tagFails
            ∨ (t.link (.stack n)).tagFails = min (2 ^ 32 - 1) ((s.link (.stack n)).tagFails + 1))))
    ∧ (l.resend = none → f.seq = l.expect →
      let key := 4 * f.part + f.cls
      let n := ((AMap.find key l.contexts).map Prod.snd).getD 0
      (f.ppm = (s.part f.part).ppm → f.last = false → sets (.flitReceive id false) { l with
        wire := rest, expect := l.expect + 1#8, fails := 0,
        contexts := AMap.put key (f.rid, if f.first = true then 1 else n + 1) l.contexts })
      ∧ (∀ r, f.ppm = (s.part f.part).ppm → f.last = true → AMap.find f.rid s.reqs = some r → f.rid < s.nextId →
        let ends := fun q => ∃ t, exec (.flitReceive id false) s = .next t ∧ AMap.find f.rid t.reqs = q
        (∀ x, r.hops = [x] → (∀ a, r.st ≠ .back a) → (∀ y, r.src ≠ .stack y) →
          (s.outOfTurn f.rid r = false →
            ends (some { r with hops := [], st := .arrived, arrival := s.nextId, since := s.netClock }))
          ∧ (s.outOfTurn f.rid r = true → ends (some { r with hops := [], st := .transit })))
        ∧ (∀ x y, r.hops = [x] → (∀ a, r.st ≠ .back a) → r.src = .stack y →
          (y = 0 → ends none)
          ∧ (y ≠ 0 → ∃ a, ends (some { r with hops := r.wayBack, st := .back a, since := s.netClock })))
        ∧ (∀ x y more, r.hops = x :: y :: more → ∃ t, exec (.flitReceive id false) s = .next t
          ∧ AMap.find f.rid t.reqs = some { r with hops := y :: more }
          ∧ (t.link y).ready = (s.link y).ready ++ [(f.rid, r.flits)])
        ∧ (∀ x a, r.hops = [x] → r.st = .back a →
          ((∀ gid op, r.src ≠ .engine gid op) → ends none)
          ∧ (∀ gid op v, r.src = .engine gid op → a = .line v → s.unitRuns r gid op = true →
              ends (some { r with hops := [], st := .unitData v }))
          ∧ (∀ y q, r.src = .stack y → y ≠ f.rid → AMap.find y s.reqs = some q → ∃ t, exec (.flitReceive id false) s = .next t
              ∧ AMap.find y t.reqs = some { q with fed := q.fed ++ [r.ia / 128] })))
      ∧ (f.ppm ≠ (s.part f.part).ppm → ∃ t, exec (.flitReceive id false) s = .next t
          ∧ AMap.find f.rid t.reqs = none)))
  ∧ (∀ seq, l.retraining = false → (inner → l.resend = some seq) → l.fails < 8 → sets (.linkResendRequest id seq)
      { l with resend := none, wire := [], again := flitsFrom seq l.retry, fails := l.fails + 1 })
  ∧ (∀ seq, (inner → (l.expect - 1#8 - seq).toNat < 64) → (∃ f ∈ l.retry, f.seq = seq) → ∃ n,
      sets (.linkAck id seq) { l with retry := (flitsFrom seq l.retry).drop 1, fails := n } ∧ (inner → n = l.fails))
  ∧ (∀ seq, 8 ≤ l.fails → (inner → l.resend = some seq) → sets (.linkRetrain id) { l with retraining := true })
  ∧ (∀ seq, l.retraining = true → l.resend = some seq →
      let torn := (l.contexts.map Prod.snd).map Prod.fst
      let again := renumber l.expect ((flitsFrom seq l.retry).filter (fun f => !torn.contains f.rid))
      sets (.linkRetrainDone id) { l with
        retraining := false, fails := 0, resend := none, contexts := [], wire := [], again := again, retry := again,
        nextSeq := l.expect + BitVec.ofNat 8 again.length, progress := l.progress.filter (fun e => !torn.contains e.1) })
  ∧ (∀ rid r first rest, AMap.find rid s.reqs = some r → (∀ e ∈ s.links, e.2.holdsPacket rid = false) →
      (r.st = .transit ∧ r.hops ≠ [] ∧ r.way = first :: rest) ∨ ((∃ a, r.st = .back a) ∧ r.wayBack = first :: rest) →
      exec (.tornStatus rid) s = .next ((s.setReq rid { r with hops := first :: rest }).setLink first { s.link first with
        ready := (s.link first).ready ++ [(rid, r.flits)] }))
  ∧ (∀ n, ofStack n → (∀ e ∈ s.links, e.2.rekeying = true → stackDie e.1 ≠ stackDie id) →
      exec (.linkRekey id) s = .next (s.setLink (.stack n) { s.link (.stack n) with rekeying := true }))
  ∧ (∀ n key, ofStack n →
      let k := s.link (.stack n)
      let up := s.link (.stackUp n)
      k.rekeying = true → k.progress = [] → k.wire = [] → k.again = [] → k.retry = [] →
      up.ready = [] → up.progress = [] → up.wire = [] → up.again = [] → up.retry = [] →
      exec (.linkRekeySwitch id key) s
        = .next (s.setLink (.stack n) { k with rekeying := false, key := key, txCount := 0#64, rxCount := 0#64 }))
  ∧ (∀ station, ∃ t, exec (.quotaPeriodEnd station) s = .next t ∧ SameMemory s t ∧ t.groups = s.groups
      ∧ ∀ p k, Sparse.get 0 (t.part p).quota k = if k / 4 = station then 0 else Sparse.get 0 (s.part p).quota k)
  ∧ (∀ p station (c : Cls) n,
      let limit := if c = 2 then (s.part p).quotaC else (s.part p).quotaE
      let used := Sparse.get 0 (s.part p).quota (4 * station + c) + n
      ((s.injectAt p station c n).1 = if c = 0 ∨ (limit ≠ 0xFFFF ∧ limit < used) then 0 else c)
      ∧ (c ≠ 0 → limit ≠ 0xFFFF → limit < used → Sparse.get 0 (s.injectAt p station c n).2.demoted station
          = min (2 ^ 32 - 1) (Sparse.get 0 s.demoted station + 1)))

/-- R294, R307, R313, R357, R360, R363–R369, R385, R394: what the postmaster does. Power-up is reset but for fenced
cores; an image is checked, and runs and is measured when the boot ROM accepts it; when the links then train, the
device is ready; a partition's entry changes while it is idle and within the constraints, and its removed ways are
swept, until what leaves them is written; a partition is created with its save area zeroed, the sequence counts of its
ranges 0 and nothing of them cached (that every instruction cache and every L1 of the package is emptied for it is the
model's choice, logs 9 and 32); its reset empties it and, where nothing of it is under way, is seen to raise its
postmark (V is set by creation alone: the model's reading, log 32); a key is programmed, and revoked with or without
write-back, and the revocation is complete once every write-back has been acknowledged; an uncorrectable error poisons
its sector. What memory reads as after power-up is the model's choice (log 2), and so are the steps in which an image
comes to run (log 44). -/
def Obligations.PostmasterEvents : Prop := ∀ (s : State),
  (∃ t, exec .powerUp s = .next t ∧ t.fwstat = 0#64 ∧ t.groups = [] ∧ t.parts = [] ∧ t.mem = []
    ∧ ∀ c, (t.core c).l1 = [] ∧ (t.core c).cyc = 0#64)
  ∧ (∀ image, s.fwstat = 0#64 → image.length ≤ 2 ^ 23 → exec (.firmwareCheck image) s
      = .next { s with fwctl := 1#64, staging := image, fwstat := 1#64, agenda := .boot :: s.agenda })
  ∧ (s.fwstat = 1#64 → s.bootStep = if firmwareGood s.staging = false then { s with fwstat := 2#64 }
      else { s with fwstat := 3#64, measurement := shake256 s.staging, agenda := .boot :: s.agenda })
  ∧ (s.fwstat = 3#64 →
    (Config.trainingMask s.freeTick = 0#32 → s.bootStep.fwstat = 5#64 ∧ SameMemory s s.bootStep
      ∧ s.bootStep.groups = s.groups ∧ ∀ c, (s.bootStep.core c).cyc = 0#64)
    ∧ (Config.trainingMask s.freeTick ≠ 0#32 →
      s.bootStep.fwstat = BitVec.ofNat 64 ((Config.trainingMask s.freeTick).toNat * 2 ^ 32 + 4)))
  ∧ (∀ p entry, p < 8 → s.fwstat.toNat % 256 = 5 → entry.length = 128 → s.idle p = true →
    let q' := { s.part p with map := mapEntry (s.part p) entry }
    s.mapFits p q' = true → ∃ t, exec (.partitionMapChange p entry) s = .next t
      ∧ (let removed := BitVec.ofNat 16 (s.part p).ways &&& ~~~(BitVec.ofNat 16 q'.ways)
        t.part p = { q' with sweeping := (s.part p).sweeping ||| removed, sweepTo := if removed = 0#16 then (s.part p).sweepTo else 0 })
      ∧ t.groups = s.groups ∧ SameMemory s t)
  ∧ (∀ p,
    let q := s.part p
    let swept := fun (e : Nat × L2Block) => e.1 / 2 ^ 52 = p ∧ bitAt q.sweeping.toNat e.2.way = true
    (q.sweeping ≠ 0#16 → (∃ e ∈ s.l2, swept e) ∨ q.sweepTo = 0 → ∃ t, exec (.waySweepDone p) s = .next t
      ∧ (t.part p).sweeping = q.sweeping ∧ (t.part p).sweepTo = t.nextId ∧ t.groups = s.groups ∧ ∀ e ∈ t.l2, ¬ swept e)
    ∧ (q.sweeping ≠ 0#16 → (∀ e ∈ s.l2, ¬ swept e) → q.sweepTo ≠ 0 →
      ((∃ e ∈ s.reqs, e.1 < q.sweepTo ∧ e.2.part = p ∧ e.2.src = .stack 0) → exec (.waySweepDone p) s = .next s)
      ∧ ((∀ e ∈ s.reqs, e.1 < q.sweepTo → e.2.part = p → e.2.src ≠ .stack 0) →
        SetsPart (.waySweepDone p) s p { q with sweeping := 0#16, sweepTo := 0 })))
  ∧ (∀ p, p < 8 → s.fwstat.toNat % 256 = 5 → (s.part p).valid = false → (s.part p).saveOk = true →
      ∃ t, exec (.partitionCreate p) s = .next t ∧ (t.part p).valid = true ∧ (t.part p).graphs = [] ∧ (t.part p).stamps = []
        ∧ (t.part p).tdiRun = false
        ∧ (let base := bits ((s.part p).word 2) 51 12 * 4096
           ∀ a, base ≤ a → a < base + 4096 * (s.part p).word 3 → t.byte a = 0#8)
        ∧ (∀ c, (t.cluster c).icache = [] ∧ (t.core c).l1 = [])
        ∧ (let owned := fun pa => bitAt pa 51 = false ∧ (s.part p).owns (64 * bits pa 45 41 + bits pa 35 30) = true
           (∀ e ∈ t.l2, ¬ owned e.2.pa) ∧ ∀ k, owned (128 * k) → Sparse.get 0#32 t.seqs k = 0#32))
  ∧ (∀ p, p < 8 → (s.part p).valid = true → ∃ t, exec (.partitionReset p) s = .next t
      ∧ (t.part p).batches = [] ∧ (t.part p).faults = [] ∧ (t.part p).colls = [] ∧ (∀ e ∈ t.blocks, e.2.part ≠ p)
      ∧ (∀ e ∈ t.walks, e.2.part ≠ p) ∧ (∀ r ∈ t.reports, r.part ≠ p)
      ∧ ((∀ e ∈ s.blocks, e.2.part ≠ p) → (∀ e ∈ s.reqs, e.2.part ≠ p) →
          (t.part p).ppm = (s.part p).ppm + 1#8 ∧ (t.part p).valid = true))
  ∧ (∀ key part context value, 0 < key → key ≤ 255 → part < 8 → s.sweepingKey key = false →
      (match context with
        | some c => insertUp c s.contextIds
        | none => s.contextIds).length ≤ 96 →
      exec (.memoryKeyProgram key part context value) s = .next { s with
        keys := AMap.put key { part := part, context := context, revoked := false, value := value } s.keys })
  ∧ (∀ key k, AMap.find key s.keys = some k → s.sweepingKey key = false →
      let gone := fun (t : State) => (∀ e ∈ t.tlb, e.keyid ≠ key) ∧ (∀ e ∈ t.l2, e.2.keyid ≠ key)
        ∧ AMap.find key t.keys = some { k with revoked := true } ∧ t.groups = s.groups
      (∃ t, exec (.keyRevokeFlush key) s = .next t ∧ t.revoking = s.revoking ++ [(key, t.nextId)] ∧ gone t)
      ∧ (∃ t, exec (.keyRevokeImmediate key) s = .next t ∧ t.revoking = s.revoking ++ [(key, 0)] ∧ gone t
          ∧ SameMemory s t))
  ∧ (∀ key k, AMap.find key s.keys = some k → s.sweepingKey key = true → (∀ e ∈ s.l2, e.2.keyid ≠ key) →
      (∀ r ∈ s.reqs, r.2.src = .stack 0 → r.2.part = k.part → ∀ e ∈ s.revoking, e.1 = key → e.2 ≤ r.1) →
      exec (.keyRevokeComplete key) s = .next { s with
      keys := AMap.del key s.keys, revoking := s.revoking.filter (fun e => e.1 != key) })
  ∧ (∀ pa, pa < 2 ^ 51 → bits pa 50 46 = 0 → bits pa 40 36 = 0 → ∃ t, exec (.hbmUncorrectableError pa) s = .next t
      ∧ t = { s with poison := t.poison }
      ∧ ∀ k, Sparse.get false t.poison k = if k = pa / 32 then true else Sparse.get false s.poison k)
  ∧ (∀ p run, p < 8 → s.fwstat.toNat % 256 = 5 → (s.part p).valid = true →
      SetsPart (.tdispRequest p run) s p { s.part p with tdiRun := run })
end

