-- ==== Sys2Proof/Laws/Map.lean ====
section
/-! SUPPORT. Finite maps: read after write, deletion, and the canonical form that every operation keeps. -/

namespace Sys2Proof.Machine

variable {α : Type}

/-! ## Read after write -/

@[simp] theorem AMap.find_nil (k : Nat) : AMap.find k ([] : AMap α) = none := rfl

@[simp] theorem AMap.find_put_same (k : Nat) (x : α) (m : AMap α) : AMap.find k (AMap.put k x m) = some x := by
  induction m with
  | nil => simp [AMap.put, AMap.find]
  | cons e rest ih =>
    obtain ⟨a, y⟩ := e
    simp only [AMap.put]
    split
    · simp [AMap.find]
    · split
      · simp [AMap.find]
      · rename_i h1 h2
        simp only [AMap.find, if_neg h2, ih]

theorem AMap.find_put_other {k j : Nat} (h : j ≠ k) (x : α) (m : AMap α) :
    AMap.find j (AMap.put k x m) = AMap.find j m := by
  induction m with
  | nil => simp [AMap.put, AMap.find, Ne.symm h]
  | cons e rest ih =>
    obtain ⟨a, y⟩ := e
    simp only [AMap.put]
    split
    · simp [AMap.find, Ne.symm h]
    · split
      · rename_i hk
        subst hk
        simp [AMap.find, Ne.symm h]
      · simp only [AMap.find, ih]

@[simp] theorem AMap.find_del (j k : Nat) (m : AMap α) :
    AMap.find j (AMap.del k m) = if j = k then none else AMap.find j m := by
  induction m with
  | nil => simp [AMap.del]
  | cons e rest ih =>
    obtain ⟨a, y⟩ := e
    by_cases h : a = k
    · subst h
      simp only [AMap.del, if_true, ih, AMap.find]
      by_cases hj : j = a
      · simp [hj]
      · simp [hj, Ne.symm hj]
    · simp only [AMap.del, if_neg h, AMap.find, ih]
      by_cases hj : j = k
      · subst hj; simp [h]
      · simp [hj]

theorem AMap.find_put (j k : Nat) (x : α) (m : AMap α) :
    AMap.find j (AMap.put k x m) = if j = k then some x else AMap.find j m := by
  split
  · rename_i h; subst h; simp
  · rename_i h; exact AMap.find_put_other h x m

theorem AMap.find_adj (j k : Nat) (f : α → α) (m : AMap α) :
    AMap.find j (AMap.adj k f m) = if j = k then (AMap.find k m).map f else AMap.find j m := by
  unfold AMap.adj
  split
  · rename_i h
    split
    · rename_i e; subst e; simp [h]
    · rfl
  · rename_i x h
    rw [AMap.find_put, h]; rfl

/-! ## Canonical form -/

/-- Every key of the list is above `n`. -/
def keysAbove (n : Nat) (m : List (Nat × α)) : Prop := ∀ e ∈ m, n < e.1

theorem keysRise_cons {a : Nat} {x : α} {m : List (Nat × α)} :
    keysRise ((a, x) :: m) = true ↔ keysAbove a m ∧ keysRise m = true := by
  induction m generalizing a x with
  | nil => simp [keysRise, keysAbove]
  | cons e rest ih =>
    obtain ⟨b, y⟩ := e
    have hb := ih (a := b) (x := y)
    simp only [keysRise, Bool.and_eq_true, decide_eq_true_eq]
    constructor
    · rintro ⟨hab, hr⟩
      refine ⟨?_, hr⟩
      intro z hz
      rcases List.mem_cons.1 hz with rfl | hz
      · exact hab
      · exact Nat.lt_trans hab ((hb.1 hr).1 z hz)
    · rintro ⟨ha, hr⟩
      exact ⟨ha (b, y) (by simp), hr⟩

theorem AMap.find_of_above {k : Nat} {m : AMap α} (h : keysAbove k m) : AMap.find k m = none := by
  induction m with
  | nil => rfl
  | cons e rest ih =>
    obtain ⟨a, y⟩ := e
    have : k < a := h (a, y) (by simp)
    simp only [AMap.find]
    rw [if_neg (show ¬ a = k by omega)]
    exact ih (fun z hz => h z (by simp [hz]))

theorem AMap.put_above {n k : Nat} {x : α} {m : AMap α} (hn : n < k) (h : keysAbove n m) :
    keysAbove n (AMap.put k x m) := by
  induction m with
  | nil => intro e he; simp [AMap.put] at he; subst he; exact hn
  | cons e rest ih =>
    obtain ⟨a, y⟩ := e
    have hr : keysAbove n rest := fun z hz => h z (by simp [hz])
    simp only [AMap.put]
    split
    · intro z hz
      rcases List.mem_cons.1 hz with rfl | hz
      · exact hn
      · exact h z hz
    · split
      · intro z hz
        rcases List.mem_cons.1 hz with rfl | hz
        · exact hn
        · exact hr z hz
      · intro z hz
        rcases List.mem_cons.1 hz with rfl | hz
        · exact h (a, y) (by simp)
        · exact ih hr z hz

theorem AMap.put_rise {k : Nat} {x : α} {m : AMap α} (h : keysRise m = true) : keysRise (AMap.put k x m) = true := by
  induction m with
  | nil => rfl
  | cons e rest ih =>
    obtain ⟨a, y⟩ := e
    have hc := keysRise_cons.1 h
    simp only [AMap.put]
    split
    · rename_i hk
      refine keysRise_cons.2 ⟨?_, h⟩
      intro z hz
      rcases List.mem_cons.1 hz with rfl | hz
      · exact hk
      · exact Nat.lt_trans hk (hc.1 z hz)
    · split
      · rename_i hk; subst hk
        exact keysRise_cons.2 hc
      · exact keysRise_cons.2 ⟨AMap.put_above (by omega) hc.1, ih hc.2⟩

theorem AMap.mem_del {k : Nat} {m : AMap α} {e : Nat × α} (h : e ∈ AMap.del k m) : e ∈ m := by
  induction m with
  | nil => exact h
  | cons f rest ih =>
    obtain ⟨a, y⟩ := f
    simp only [AMap.del] at h
    split at h
    · simp [ih h]
    · rcases List.mem_cons.1 h with rfl | h
      · simp
      · simp [ih h]

theorem AMap.del_rise {k : Nat} {m : AMap α} (h : keysRise m = true) : keysRise (AMap.del k m) = true := by
  induction m with
  | nil => rfl
  | cons e rest ih =>
    obtain ⟨a, y⟩ := e
    have hc := keysRise_cons.1 h
    simp only [AMap.del]
    split
    · exact ih hc.2
    · exact keysRise_cons.2 ⟨fun z hz => hc.1 z (AMap.mem_del hz), ih hc.2⟩

theorem keysAbove_mono {a b : Nat} {m : List (Nat × α)} (hab : a ≤ b) (h : keysAbove b m) : keysAbove a m :=
  fun e he => Nat.lt_of_le_of_lt hab (h e he)

theorem filter_rise {m : List (Nat × α)} (p : Nat × α → Bool) (h : keysRise m = true) : keysRise (m.filter p) = true := by
  induction m with
  | nil => rfl
  | cons e rest ih =>
    obtain ⟨a, y⟩ := e
    have hc := keysRise_cons.1 h
    simp only [List.filter_cons]
    split
    · exact keysRise_cons.2 ⟨fun z hz => hc.1 z (List.mem_filter.1 hz).1, ih hc.2⟩
    · exact ih hc.2

theorem AMap.mem_put {k : Nat} {x : α} {m : AMap α} {e : Nat × α} (h : e ∈ AMap.put k x m) : e.2 = x ∨ e ∈ m := by
  induction m with
  | nil => simp [AMap.put] at h; simp [h]
  | cons f rest ih =>
    obtain ⟨a, y⟩ := f
    simp only [AMap.put] at h
    split at h
    · rcases List.mem_cons.1 h with rfl | h
      · exact .inl rfl
      · exact .inr h
    · split at h
      · rcases List.mem_cons.1 h with rfl | h
        · exact .inl rfl
        · exact .inr (by simp [h])
      · rcases List.mem_cons.1 h with rfl | h
        · exact .inr (by simp)
        · rcases ih h with h | h
          · exact .inl h
          · exact .inr (by simp [h])

/-! ## Sparse maps -/

variable [DecidableEq α]

theorem Sparse.wf_iff {d : α} {m : Sparse α} : Sparse.wf d m = true ↔ keysRise m = true ∧ ∀ e ∈ m, e.2 ≠ d := by
  simp only [Sparse.wf, Bool.and_eq_true, List.all_eq_true, decide_eq_true_eq]

/-- A write keeps the canonical form. -/
theorem Sparse.set_wf {d : α} {m : Sparse α} (k : Nat) (x : α) (h : Sparse.wf d m = true) :
    Sparse.wf d (Sparse.set d m k x) = true := by
  obtain ⟨hr, hd⟩ := Sparse.wf_iff.1 h
  unfold Sparse.set
  split
  · exact Sparse.wf_iff.2 ⟨AMap.del_rise hr, fun e he => hd e (AMap.mem_del he)⟩
  · rename_i hx
    refine Sparse.wf_iff.2 ⟨AMap.put_rise hr, fun e he => ?_⟩
    rcases AMap.mem_put he with h | h
    · rw [h]; exact hx
    · exact hd e h

/-- Dropping entries keeps the canonical form. -/
theorem Sparse.filter_wf {d : α} {m : Sparse α} (p : Nat × α → Bool) (h : Sparse.wf d m = true) :
    Sparse.wf d (m.filter p) = true := by
  obtain ⟨hr, hd⟩ := Sparse.wf_iff.1 h
  exact Sparse.wf_iff.2 ⟨filter_rise p hr, fun e he => hd e (List.mem_filter.1 he).1⟩

/-- A read after a write. -/
theorem Sparse.get_set (d : α) (m : Sparse α) (j k : Nat) (x : α) :
    Sparse.get d (Sparse.set d m k x) j = if j = k then x else Sparse.get d m j := by
  unfold Sparse.get Sparse.set
  split
  · rename_i hx
    rw [AMap.find_del]
    split
    · simp [hx]
    · rfl
  · rw [AMap.find_put]
    split <;> rfl

@[simp] theorem Sparse.get_set_same (d : α) (m : Sparse α) (k : Nat) (x : α) : Sparse.get d (Sparse.set d m k x) k = x := by
  rw [Sparse.get_set, if_pos rfl]

theorem Sparse.get_set_other (d : α) (m : Sparse α) {j k : Nat} (h : j ≠ k) (x : α) :
    Sparse.get d (Sparse.set d m k x) j = Sparse.get d m j := by
  rw [Sparse.get_set, if_neg h]

/-! ## Equal reads, equal data -/

omit [DecidableEq α] in
theorem AMap.find_cons (a : Nat) (x : α) (m : AMap α) (k : Nat) :
    AMap.find k ((a, x) :: m) = if a = k then some x else AMap.find k m := rfl

omit [DecidableEq α] in
/-- Two rising maps that answer every key alike are the same list. -/
theorem AMap.ext {m n : AMap α} (hm : keysRise m = true) (hn : keysRise n = true)
    (h : ∀ k, AMap.find k m = AMap.find k n) : m = n := by
  induction m generalizing n with
  | nil =>
    cases n with
    | nil => rfl
    | cons e rest =>
      obtain ⟨b, y⟩ := e
      have := h b
      simp [AMap.find] at this
  | cons e m ih =>
    obtain ⟨a, x⟩ := e
    cases n with
    | nil =>
      have := h a
      simp [AMap.find] at this
    | cons f n =>
      obtain ⟨b, y⟩ := f
      have ca := keysRise_cons.1 hm
      have cb := keysRise_cons.1 hn
      have hab : a = b := by
        rcases Nat.lt_trichotomy a b with hlt | he | hlt
        · have := h a
          rw [AMap.find_cons, AMap.find_cons, if_pos rfl, if_neg (show ¬ b = a by omega),
            AMap.find_of_above (fun z hz => Nat.lt_trans hlt (cb.1 z hz))] at this
          simp at this
        · exact he
        · have := h b
          rw [AMap.find_cons, AMap.find_cons, if_pos rfl, if_neg (show ¬ a = b by omega),
            AMap.find_of_above (fun z hz => Nat.lt_trans hlt (ca.1 z hz))] at this
          simp at this
      subst hab
      have hxy : x = y := by
        have := h a
        simpa [AMap.find] using this
      subst hxy
      congr 1
      apply ih ca.2 cb.2
      intro k
      by_cases hk : a = k
      · subst hk
        rw [AMap.find_of_above ca.1, AMap.find_of_above cb.1]
      · have := h k
        rwa [AMap.find_cons, AMap.find_cons, if_neg hk, if_neg hk] at this

end Sys2Proof.Machine
end

