-- ==== Sys2Proof/Laws/State.lean ====
section
/-! SUPPORT. Every field after every single-field update of the state and of a group: what an update writes, and that it
leaves each other field alone. -/

namespace Sys2Proof.Machine

/-! ## State.setCore -/

@[simp] theorem State.setCore_cores (s : State) (n : Nat) (c : Core) : (s.setCore n c).cores = AMap.put n c s.cores := rfl
@[simp] theorem State.setCore_clusters (s : State) (n : Nat) (c : Core) : (s.setCore n c).clusters = s.clusters := rfl
@[simp] theorem State.setCore_groups (s : State) (n : Nat) (c : Core) : (s.setCore n c).groups = s.groups := rfl
@[simp] theorem State.setCore_blocks (s : State) (n : Nat) (c : Core) : (s.setCore n c).blocks = s.blocks := rfl
@[simp] theorem State.setCore_cohorts (s : State) (n : Nat) (c : Core) : (s.setCore n c).cohorts = s.cohorts := rfl
@[simp] theorem State.setCore_parts (s : State) (n : Nat) (c : Core) : (s.setCore n c).parts = s.parts := rfl
@[simp] theorem State.setCore_mem (s : State) (n : Nat) (c : Core) : (s.setCore n c).mem = s.mem := rfl
@[simp] theorem State.setCore_poison (s : State) (n : Nat) (c : Core) : (s.setCore n c).poison = s.poison := rfl
@[simp] theorem State.setCore_seqs (s : State) (n : Nat) (c : Core) : (s.setCore n c).seqs = s.seqs := rfl
@[simp] theorem State.setCore_keyTags (s : State) (n : Nat) (c : Core) : (s.setCore n c).keyTags = s.keyTags := rfl
@[simp] theorem State.setCore_keys (s : State) (n : Nat) (c : Core) : (s.setCore n c).keys = s.keys := rfl
@[simp] theorem State.setCore_l2 (s : State) (n : Nat) (c : Core) : (s.setCore n c).l2 = s.l2 := rfl
@[simp] theorem State.setCore_tlb (s : State) (n : Nat) (c : Core) : (s.setCore n c).tlb = s.tlb := rfl
@[simp] theorem State.setCore_walks (s : State) (n : Nat) (c : Core) : (s.setCore n c).walks = s.walks := rfl
@[simp] theorem State.setCore_gens (s : State) (n : Nat) (c : Core) : (s.setCore n c).gens = s.gens := rfl
@[simp] theorem State.setCore_reqs (s : State) (n : Nat) (c : Core) : (s.setCore n c).reqs = s.reqs := rfl
@[simp] theorem State.setCore_links (s : State) (n : Nat) (c : Core) : (s.setCore n c).links = s.links := rfl
@[simp] theorem State.setCore_filter (s : State) (n : Nat) (c : Core) : (s.setCore n c).filter = s.filter := rfl
@[simp] theorem State.setCore_keydrop (s : State) (n : Nat) (c : Core) : (s.setCore n c).keydrop = s.keydrop := rfl
@[simp] theorem State.setCore_pri (s : State) (n : Nat) (c : Core) : (s.setCore n c).pri = s.pri := rfl
@[simp] theorem State.setCore_demoted (s : State) (n : Nat) (c : Core) : (s.setCore n c).demoted = s.demoted := rfl
@[simp] theorem State.setCore_sliceGauges (s : State) (n : Nat) (c : Core) : (s.setCore n c).sliceGauges = s.sliceGauges := rfl
@[simp] theorem State.setCore_revoking (s : State) (n : Nat) (c : Core) : (s.setCore n c).revoking = s.revoking := rfl
@[simp] theorem State.setCore_replies (s : State) (n : Nat) (c : Core) : (s.setCore n c).replies = s.replies := rfl
@[simp] theorem State.setCore_reports (s : State) (n : Nat) (c : Core) : (s.setCore n c).reports = s.reports := rfl
@[simp] theorem State.setCore_dead (s : State) (n : Nat) (c : Core) : (s.setCore n c).dead = s.dead := rfl
@[simp] theorem State.setCore_fwctl (s : State) (n : Nat) (c : Core) : (s.setCore n c).fwctl = s.fwctl := rfl
@[simp] theorem State.setCore_fwstat (s : State) (n : Nat) (c : Core) : (s.setCore n c).fwstat = s.fwstat := rfl
@[simp] theorem State.setCore_powlim (s : State) (n : Nat) (c : Core) : (s.setCore n c).powlim = s.powlim := rfl
@[simp] theorem State.setCore_ftmo (s : State) (n : Nat) (c : Core) : (s.setCore n c).ftmo = s.ftmo := rfl
@[simp] theorem State.setCore_measurement (s : State) (n : Nat) (c : Core) : (s.setCore n c).measurement = s.measurement := rfl
@[simp] theorem State.setCore_staging (s : State) (n : Nat) (c : Core) : (s.setCore n c).staging = s.staging := rfl
@[simp] theorem State.setCore_station (s : State) (n : Nat) (c : Core) : (s.setCore n c).station = s.station := rfl
@[simp] theorem State.setCore_identity (s : State) (n : Nat) (c : Core) : (s.setCore n c).identity = s.identity := rfl
@[simp] theorem State.setCore_agenda (s : State) (n : Nat) (c : Core) : (s.setCore n c).agenda = s.agenda := rfl
@[simp] theorem State.setCore_cur (s : State) (n : Nat) (c : Core) : (s.setCore n c).cur = s.cur := rfl
@[simp] theorem State.setCore_turn (s : State) (n : Nat) (c : Core) : (s.setCore n c).turn = s.turn := rfl
@[simp] theorem State.setCore_nextId (s : State) (n : Nat) (c : Core) : (s.setCore n c).nextId = s.nextId := rfl
@[simp] theorem State.setCore_freeTick (s : State) (n : Nat) (c : Core) : (s.setCore n c).freeTick = s.freeTick := rfl
@[simp] theorem State.setCore_netClock (s : State) (n : Nat) (c : Core) : (s.setCore n c).netClock = s.netClock := rfl

/-! ## State.setCluster -/

@[simp] theorem State.setCluster_cores (s : State) (n : Nat) (c : Cluster) : (s.setCluster n c).cores = s.cores := rfl
@[simp] theorem State.setCluster_clusters (s : State) (n : Nat) (c : Cluster) : (s.setCluster n c).clusters = AMap.put n c s.clusters := rfl
@[simp] theorem State.setCluster_groups (s : State) (n : Nat) (c : Cluster) : (s.setCluster n c).groups = s.groups := rfl
@[simp] theorem State.setCluster_blocks (s : State) (n : Nat) (c : Cluster) : (s.setCluster n c).blocks = s.blocks := rfl
@[simp] theorem State.setCluster_cohorts (s : State) (n : Nat) (c : Cluster) : (s.setCluster n c).cohorts = s.cohorts := rfl
@[simp] theorem State.setCluster_parts (s : State) (n : Nat) (c : Cluster) : (s.setCluster n c).parts = s.parts := rfl
@[simp] theorem State.setCluster_mem (s : State) (n : Nat) (c : Cluster) : (s.setCluster n c).mem = s.mem := rfl
@[simp] theorem State.setCluster_poison (s : State) (n : Nat) (c : Cluster) : (s.setCluster n c).poison = s.poison := rfl
@[simp] theorem State.setCluster_seqs (s : State) (n : Nat) (c : Cluster) : (s.setCluster n c).seqs = s.seqs := rfl
@[simp] theorem State.setCluster_keyTags (s : State) (n : Nat) (c : Cluster) : (s.setCluster n c).keyTags = s.keyTags := rfl
@[simp] theorem State.setCluster_keys (s : State) (n : Nat) (c : Cluster) : (s.setCluster n c).keys = s.keys := rfl
@[simp] theorem State.setCluster_l2 (s : State) (n : Nat) (c : Cluster) : (s.setCluster n c).l2 = s.l2 := rfl
@[simp] theorem State.setCluster_tlb (s : State) (n : Nat) (c : Cluster) : (s.setCluster n c).tlb = s.tlb := rfl
@[simp] theorem State.setCluster_walks (s : State) (n : Nat) (c : Cluster) : (s.setCluster n c).walks = s.walks := rfl
@[simp] theorem State.setCluster_gens (s : State) (n : Nat) (c : Cluster) : (s.setCluster n c).gens = s.gens := rfl
@[simp] theorem State.setCluster_reqs (s : State) (n : Nat) (c : Cluster) : (s.setCluster n c).reqs = s.reqs := rfl
@[simp] theorem State.setCluster_links (s : State) (n : Nat) (c : Cluster) : (s.setCluster n c).links = s.links := rfl
@[simp] theorem State.setCluster_filter (s : State) (n : Nat) (c : Cluster) : (s.setCluster n c).filter = s.filter := rfl
@[simp] theorem State.setCluster_keydrop (s : State) (n : Nat) (c : Cluster) : (s.setCluster n c).keydrop = s.keydrop := rfl
@[simp] theorem State.setCluster_pri (s : State) (n : Nat) (c : Cluster) : (s.setCluster n c).pri = s.pri := rfl
@[simp] theorem State.setCluster_demoted (s : State) (n : Nat) (c : Cluster) : (s.setCluster n c).demoted = s.demoted := rfl
@[simp] theorem State.setCluster_sliceGauges (s : State) (n : Nat) (c : Cluster) : (s.setCluster n c).sliceGauges = s.sliceGauges := rfl
@[simp] theorem State.setCluster_revoking (s : State) (n : Nat) (c : Cluster) : (s.setCluster n c).revoking = s.revoking := rfl
@[simp] theorem State.setCluster_replies (s : State) (n : Nat) (c : Cluster) : (s.setCluster n c).replies = s.replies := rfl
@[simp] theorem State.setCluster_reports (s : State) (n : Nat) (c : Cluster) : (s.setCluster n c).reports = s.reports := rfl
@[simp] theorem State.setCluster_dead (s : State) (n : Nat) (c : Cluster) : (s.setCluster n c).dead = s.dead := rfl
@[simp] theorem State.setCluster_fwctl (s : State) (n : Nat) (c : Cluster) : (s.setCluster n c).fwctl = s.fwctl := rfl
@[simp] theorem State.setCluster_fwstat (s : State) (n : Nat) (c : Cluster) : (s.setCluster n c).fwstat = s.fwstat := rfl
@[simp] theorem State.setCluster_powlim (s : State) (n : Nat) (c : Cluster) : (s.setCluster n c).powlim = s.powlim := rfl
@[simp] theorem State.setCluster_ftmo (s : State) (n : Nat) (c : Cluster) : (s.setCluster n c).ftmo = s.ftmo := rfl
@[simp] theorem State.setCluster_measurement (s : State) (n : Nat) (c : Cluster) : (s.setCluster n c).measurement = s.measurement := rfl
@[simp] theorem State.setCluster_staging (s : State) (n : Nat) (c : Cluster) : (s.setCluster n c).staging = s.staging := rfl
@[simp] theorem State.setCluster_station (s : State) (n : Nat) (c : Cluster) : (s.setCluster n c).station = s.station := rfl
@[simp] theorem State.setCluster_identity (s : State) (n : Nat) (c : Cluster) : (s.setCluster n c).identity = s.identity := rfl
@[simp] theorem State.setCluster_agenda (s : State) (n : Nat) (c : Cluster) : (s.setCluster n c).agenda = s.agenda := rfl
@[simp] theorem State.setCluster_cur (s : State) (n : Nat) (c : Cluster) : (s.setCluster n c).cur = s.cur := rfl
@[simp] theorem State.setCluster_turn (s : State) (n : Nat) (c : Cluster) : (s.setCluster n c).turn = s.turn := rfl
@[simp] theorem State.setCluster_nextId (s : State) (n : Nat) (c : Cluster) : (s.setCluster n c).nextId = s.nextId := rfl
@[simp] theorem State.setCluster_freeTick (s : State) (n : Nat) (c : Cluster) : (s.setCluster n c).freeTick = s.freeTick := rfl
@[simp] theorem State.setCluster_netClock (s : State) (n : Nat) (c : Cluster) : (s.setCluster n c).netClock = s.netClock := rfl

/-! ## State.setPart -/

@[simp] theorem State.setPart_cores (s : State) (p : Nat) (x : Partition) : (s.setPart p x).cores = s.cores := rfl
@[simp] theorem State.setPart_clusters (s : State) (p : Nat) (x : Partition) : (s.setPart p x).clusters = s.clusters := rfl
@[simp] theorem State.setPart_groups (s : State) (p : Nat) (x : Partition) : (s.setPart p x).groups = s.groups := rfl
@[simp] theorem State.setPart_blocks (s : State) (p : Nat) (x : Partition) : (s.setPart p x).blocks = s.blocks := rfl
@[simp] theorem State.setPart_cohorts (s : State) (p : Nat) (x : Partition) : (s.setPart p x).cohorts = s.cohorts := rfl
@[simp] theorem State.setPart_parts (s : State) (p : Nat) (x : Partition) : (s.setPart p x).parts = AMap.put p x s.parts := rfl
@[simp] theorem State.setPart_mem (s : State) (p : Nat) (x : Partition) : (s.setPart p x).mem = s.mem := rfl
@[simp] theorem State.setPart_poison (s : State) (p : Nat) (x : Partition) : (s.setPart p x).poison = s.poison := rfl
@[simp] theorem State.setPart_seqs (s : State) (p : Nat) (x : Partition) : (s.setPart p x).seqs = s.seqs := rfl
@[simp] theorem State.setPart_keyTags (s : State) (p : Nat) (x : Partition) : (s.setPart p x).keyTags = s.keyTags := rfl
@[simp] theorem State.setPart_keys (s : State) (p : Nat) (x : Partition) : (s.setPart p x).keys = s.keys := rfl
@[simp] theorem State.setPart_l2 (s : State) (p : Nat) (x : Partition) : (s.setPart p x).l2 = s.l2 := rfl
@[simp] theorem State.setPart_tlb (s : State) (p : Nat) (x : Partition) : (s.setPart p x).tlb = s.tlb := rfl
@[simp] theorem State.setPart_walks (s : State) (p : Nat) (x : Partition) : (s.setPart p x).walks = s.walks := rfl
@[simp] theorem State.setPart_gens (s : State) (p : Nat) (x : Partition) : (s.setPart p x).gens = s.gens := rfl
@[simp] theorem State.setPart_reqs (s : State) (p : Nat) (x : Partition) : (s.setPart p x).reqs = s.reqs := rfl
@[simp] theorem State.setPart_links (s : State) (p : Nat) (x : Partition) : (s.setPart p x).links = s.links := rfl
@[simp] theorem State.setPart_filter (s : State) (p : Nat) (x : Partition) : (s.setPart p x).filter = s.filter := rfl
@[simp] theorem State.setPart_keydrop (s : State) (p : Nat) (x : Partition) : (s.setPart p x).keydrop = s.keydrop := rfl
@[simp] theorem State.setPart_pri (s : State) (p : Nat) (x : Partition) : (s.setPart p x).pri = s.pri := rfl
@[simp] theorem State.setPart_demoted (s : State) (p : Nat) (x : Partition) : (s.setPart p x).demoted = s.demoted := rfl
@[simp] theorem State.setPart_sliceGauges (s : State) (p : Nat) (x : Partition) : (s.setPart p x).sliceGauges = s.sliceGauges := rfl
@[simp] theorem State.setPart_revoking (s : State) (p : Nat) (x : Partition) : (s.setPart p x).revoking = s.revoking := rfl
@[simp] theorem State.setPart_replies (s : State) (p : Nat) (x : Partition) : (s.setPart p x).replies = s.replies := rfl
@[simp] theorem State.setPart_reports (s : State) (p : Nat) (x : Partition) : (s.setPart p x).reports = s.reports := rfl
@[simp] theorem State.setPart_dead (s : State) (p : Nat) (x : Partition) : (s.setPart p x).dead = s.dead := rfl
@[simp] theorem State.setPart_fwctl (s : State) (p : Nat) (x : Partition) : (s.setPart p x).fwctl = s.fwctl := rfl
@[simp] theorem State.setPart_fwstat (s : State) (p : Nat) (x : Partition) : (s.setPart p x).fwstat = s.fwstat := rfl
@[simp] theorem State.setPart_powlim (s : State) (p : Nat) (x : Partition) : (s.setPart p x).powlim = s.powlim := rfl
@[simp] theorem State.setPart_ftmo (s : State) (p : Nat) (x : Partition) : (s.setPart p x).ftmo = s.ftmo := rfl
@[simp] theorem State.setPart_measurement (s : State) (p : Nat) (x : Partition) : (s.setPart p x).measurement = s.measurement := rfl
@[simp] theorem State.setPart_staging (s : State) (p : Nat) (x : Partition) : (s.setPart p x).staging = s.staging := rfl
@[simp] theorem State.setPart_station (s : State) (p : Nat) (x : Partition) : (s.setPart p x).station = s.station := rfl
@[simp] theorem State.setPart_identity (s : State) (p : Nat) (x : Partition) : (s.setPart p x).identity = s.identity := rfl
@[simp] theorem State.setPart_agenda (s : State) (p : Nat) (x : Partition) : (s.setPart p x).agenda = s.agenda := rfl
@[simp] theorem State.setPart_cur (s : State) (p : Nat) (x : Partition) : (s.setPart p x).cur = s.cur := rfl
@[simp] theorem State.setPart_turn (s : State) (p : Nat) (x : Partition) : (s.setPart p x).turn = s.turn := rfl
@[simp] theorem State.setPart_nextId (s : State) (p : Nat) (x : Partition) : (s.setPart p x).nextId = s.nextId := rfl
@[simp] theorem State.setPart_freeTick (s : State) (p : Nat) (x : Partition) : (s.setPart p x).freeTick = s.freeTick := rfl
@[simp] theorem State.setPart_netClock (s : State) (p : Nat) (x : Partition) : (s.setPart p x).netClock = s.netClock := rfl

/-! ## State.setGroup -/

@[simp] theorem State.setGroup_cores (s : State) (gid : Nat) (g : Group) : (s.setGroup gid g).cores = s.cores := rfl
@[simp] theorem State.setGroup_clusters (s : State) (gid : Nat) (g : Group) : (s.setGroup gid g).clusters = s.clusters := rfl
@[simp] theorem State.setGroup_groups (s : State) (gid : Nat) (g : Group) : (s.setGroup gid g).groups = AMap.put gid g s.groups := rfl
@[simp] theorem State.setGroup_blocks (s : State) (gid : Nat) (g : Group) : (s.setGroup gid g).blocks = s.blocks := rfl
@[simp] theorem State.setGroup_cohorts (s : State) (gid : Nat) (g : Group) : (s.setGroup gid g).cohorts = s.cohorts := rfl
@[simp] theorem State.setGroup_parts (s : State) (gid : Nat) (g : Group) : (s.setGroup gid g).parts = s.parts := rfl
@[simp] theorem State.setGroup_mem (s : State) (gid : Nat) (g : Group) : (s.setGroup gid g).mem = s.mem := rfl
@[simp] theorem State.setGroup_poison (s : State) (gid : Nat) (g : Group) : (s.setGroup gid g).poison = s.poison := rfl
@[simp] theorem State.setGroup_seqs (s : State) (gid : Nat) (g : Group) : (s.setGroup gid g).seqs = s.seqs := rfl
@[simp] theorem State.setGroup_keyTags (s : State) (gid : Nat) (g : Group) : (s.setGroup gid g).keyTags = s.keyTags := rfl
@[simp] theorem State.setGroup_keys (s : State) (gid : Nat) (g : Group) : (s.setGroup gid g).keys = s.keys := rfl
@[simp] theorem State.setGroup_l2 (s : State) (gid : Nat) (g : Group) : (s.setGroup gid g).l2 = s.l2 := rfl
@[simp] theorem State.setGroup_tlb (s : State) (gid : Nat) (g : Group) : (s.setGroup gid g).tlb = s.tlb := rfl
@[simp] theorem State.setGroup_walks (s : State) (gid : Nat) (g : Group) : (s.setGroup gid g).walks = s.walks := rfl
@[simp] theorem State.setGroup_gens (s : State) (gid : Nat) (g : Group) : (s.setGroup gid g).gens = s.gens := rfl
@[simp] theorem State.setGroup_reqs (s : State) (gid : Nat) (g : Group) : (s.setGroup gid g).reqs = s.reqs := rfl
@[simp] theorem State.setGroup_links (s : State) (gid : Nat) (g : Group) : (s.setGroup gid g).links = s.links := rfl
@[simp] theorem State.setGroup_filter (s : State) (gid : Nat) (g : Group) : (s.setGroup gid g).filter = s.filter := rfl
@[simp] theorem State.setGroup_keydrop (s : State) (gid : Nat) (g : Group) : (s.setGroup gid g).keydrop = s.keydrop := rfl
@[simp] theorem State.setGroup_pri (s : State) (gid : Nat) (g : Group) : (s.setGroup gid g).pri = s.pri := rfl
@[simp] theorem State.setGroup_demoted (s : State) (gid : Nat) (g : Group) : (s.setGroup gid g).demoted = s.demoted := rfl
@[simp] theorem State.setGroup_sliceGauges (s : State) (gid : Nat) (g : Group) : (s.setGroup gid g).sliceGauges = s.sliceGauges := rfl
@[simp] theorem State.setGroup_revoking (s : State) (gid : Nat) (g : Group) : (s.setGroup gid g).revoking = s.revoking := rfl
@[simp] theorem State.setGroup_replies (s : State) (gid : Nat) (g : Group) : (s.setGroup gid g).replies = s.replies := rfl
@[simp] theorem State.setGroup_reports (s : State) (gid : Nat) (g : Group) : (s.setGroup gid g).reports = s.reports := rfl
@[simp] theorem State.setGroup_dead (s : State) (gid : Nat) (g : Group) : (s.setGroup gid g).dead = s.dead := rfl
@[simp] theorem State.setGroup_fwctl (s : State) (gid : Nat) (g : Group) : (s.setGroup gid g).fwctl = s.fwctl := rfl
@[simp] theorem State.setGroup_fwstat (s : State) (gid : Nat) (g : Group) : (s.setGroup gid g).fwstat = s.fwstat := rfl
@[simp] theorem State.setGroup_powlim (s : State) (gid : Nat) (g : Group) : (s.setGroup gid g).powlim = s.powlim := rfl
@[simp] theorem State.setGroup_ftmo (s : State) (gid : Nat) (g : Group) : (s.setGroup gid g).ftmo = s.ftmo := rfl
@[simp] theorem State.setGroup_measurement (s : State) (gid : Nat) (g : Group) : (s.setGroup gid g).measurement = s.measurement := rfl
@[simp] theorem State.setGroup_staging (s : State) (gid : Nat) (g : Group) : (s.setGroup gid g).staging = s.staging := rfl
@[simp] theorem State.setGroup_station (s : State) (gid : Nat) (g : Group) : (s.setGroup gid g).station = s.station := rfl
@[simp] theorem State.setGroup_identity (s : State) (gid : Nat) (g : Group) : (s.setGroup gid g).identity = s.identity := rfl
@[simp] theorem State.setGroup_agenda (s : State) (gid : Nat) (g : Group) : (s.setGroup gid g).agenda = s.agenda := rfl
@[simp] theorem State.setGroup_cur (s : State) (gid : Nat) (g : Group) : (s.setGroup gid g).cur = s.cur := rfl
@[simp] theorem State.setGroup_turn (s : State) (gid : Nat) (g : Group) : (s.setGroup gid g).turn = s.turn := rfl
@[simp] theorem State.setGroup_nextId (s : State) (gid : Nat) (g : Group) : (s.setGroup gid g).nextId = s.nextId := rfl
@[simp] theorem State.setGroup_freeTick (s : State) (gid : Nat) (g : Group) : (s.setGroup gid g).freeTick = s.freeTick := rfl
@[simp] theorem State.setGroup_netClock (s : State) (gid : Nat) (g : Group) : (s.setGroup gid g).netClock = s.netClock := rfl

/-! ## State.setBlock -/

@[simp] theorem State.setBlock_cores (s : State) (b : Nat) (x : Block) : (s.setBlock b x).cores = s.cores := rfl
@[simp] theorem State.setBlock_clusters (s : State) (b : Nat) (x : Block) : (s.setBlock b x).clusters = s.clusters := rfl
@[simp] theorem State.setBlock_groups (s : State) (b : Nat) (x : Block) : (s.setBlock b x).groups = s.groups := rfl
@[simp] theorem State.setBlock_blocks (s : State) (b : Nat) (x : Block) : (s.setBlock b x).blocks = AMap.put b x s.blocks := rfl
@[simp] theorem State.setBlock_cohorts (s : State) (b : Nat) (x : Block) : (s.setBlock b x).cohorts = s.cohorts := rfl
@[simp] theorem State.setBlock_parts (s : State) (b : Nat) (x : Block) : (s.setBlock b x).parts = s.parts := rfl
@[simp] theorem State.setBlock_mem (s : State) (b : Nat) (x : Block) : (s.setBlock b x).mem = s.mem := rfl
@[simp] theorem State.setBlock_poison (s : State) (b : Nat) (x : Block) : (s.setBlock b x).poison = s.poison := rfl
@[simp] theorem State.setBlock_seqs (s : State) (b : Nat) (x : Block) : (s.setBlock b x).seqs = s.seqs := rfl
@[simp] theorem State.setBlock_keyTags (s : State) (b : Nat) (x : Block) : (s.setBlock b x).keyTags = s.keyTags := rfl
@[simp] theorem State.setBlock_keys (s : State) (b : Nat) (x : Block) : (s.setBlock b x).keys = s.keys := rfl
@[simp] theorem State.setBlock_l2 (s : State) (b : Nat) (x : Block) : (s.setBlock b x).l2 = s.l2 := rfl
@[simp] theorem State.setBlock_tlb (s : State) (b : Nat) (x : Block) : (s.setBlock b x).tlb = s.tlb := rfl
@[simp] theorem State.setBlock_walks (s : State) (b : Nat) (x : Block) : (s.setBlock b x).walks = s.walks := rfl
@[simp] theorem State.setBlock_gens (s : State) (b : Nat) (x : Block) : (s.setBlock b x).gens = s.gens := rfl
@[simp] theorem State.setBlock_reqs (s : State) (b : Nat) (x : Block) : (s.setBlock b x).reqs = s.reqs := rfl
@[simp] theorem State.setBlock_links (s : State) (b : Nat) (x : Block) : (s.setBlock b x).links = s.links := rfl
@[simp] theorem State.setBlock_filter (s : State) (b : Nat) (x : Block) : (s.setBlock b x).filter = s.filter := rfl
@[simp] theorem State.setBlock_keydrop (s : State) (b : Nat) (x : Block) : (s.setBlock b x).keydrop = s.keydrop := rfl
@[simp] theorem State.setBlock_pri (s : State) (b : Nat) (x : Block) : (s.setBlock b x).pri = s.pri := rfl
@[simp] theorem State.setBlock_demoted (s : State) (b : Nat) (x : Block) : (s.setBlock b x).demoted = s.demoted := rfl
@[simp] theorem State.setBlock_sliceGauges (s : State) (b : Nat) (x : Block) : (s.setBlock b x).sliceGauges = s.sliceGauges := rfl
@[simp] theorem State.setBlock_revoking (s : State) (b : Nat) (x : Block) : (s.setBlock b x).revoking = s.revoking := rfl
@[simp] theorem State.setBlock_replies (s : State) (b : Nat) (x : Block) : (s.setBlock b x).replies = s.replies := rfl
@[simp] theorem State.setBlock_reports (s : State) (b : Nat) (x : Block) : (s.setBlock b x).reports = s.reports := rfl
@[simp] theorem State.setBlock_dead (s : State) (b : Nat) (x : Block) : (s.setBlock b x).dead = s.dead := rfl
@[simp] theorem State.setBlock_fwctl (s : State) (b : Nat) (x : Block) : (s.setBlock b x).fwctl = s.fwctl := rfl
@[simp] theorem State.setBlock_fwstat (s : State) (b : Nat) (x : Block) : (s.setBlock b x).fwstat = s.fwstat := rfl
@[simp] theorem State.setBlock_powlim (s : State) (b : Nat) (x : Block) : (s.setBlock b x).powlim = s.powlim := rfl
@[simp] theorem State.setBlock_ftmo (s : State) (b : Nat) (x : Block) : (s.setBlock b x).ftmo = s.ftmo := rfl
@[simp] theorem State.setBlock_measurement (s : State) (b : Nat) (x : Block) : (s.setBlock b x).measurement = s.measurement := rfl
@[simp] theorem State.setBlock_staging (s : State) (b : Nat) (x : Block) : (s.setBlock b x).staging = s.staging := rfl
@[simp] theorem State.setBlock_station (s : State) (b : Nat) (x : Block) : (s.setBlock b x).station = s.station := rfl
@[simp] theorem State.setBlock_identity (s : State) (b : Nat) (x : Block) : (s.setBlock b x).identity = s.identity := rfl
@[simp] theorem State.setBlock_agenda (s : State) (b : Nat) (x : Block) : (s.setBlock b x).agenda = s.agenda := rfl
@[simp] theorem State.setBlock_cur (s : State) (b : Nat) (x : Block) : (s.setBlock b x).cur = s.cur := rfl
@[simp] theorem State.setBlock_turn (s : State) (b : Nat) (x : Block) : (s.setBlock b x).turn = s.turn := rfl
@[simp] theorem State.setBlock_nextId (s : State) (b : Nat) (x : Block) : (s.setBlock b x).nextId = s.nextId := rfl
@[simp] theorem State.setBlock_freeTick (s : State) (b : Nat) (x : Block) : (s.setBlock b x).freeTick = s.freeTick := rfl
@[simp] theorem State.setBlock_netClock (s : State) (b : Nat) (x : Block) : (s.setBlock b x).netClock = s.netClock := rfl

/-! ## State.setCohort -/

@[simp] theorem State.setCohort_cores (s : State) (c : Nat) (x : Cohort) : (s.setCohort c x).cores = s.cores := rfl
@[simp] theorem State.setCohort_clusters (s : State) (c : Nat) (x : Cohort) : (s.setCohort c x).clusters = s.clusters := rfl
@[simp] theorem State.setCohort_groups (s : State) (c : Nat) (x : Cohort) : (s.setCohort c x).groups = s.groups := rfl
@[simp] theorem State.setCohort_blocks (s : State) (c : Nat) (x : Cohort) : (s.setCohort c x).blocks = s.blocks := rfl
@[simp] theorem State.setCohort_cohorts (s : State) (c : Nat) (x : Cohort) : (s.setCohort c x).cohorts = AMap.put c x s.cohorts := rfl
@[simp] theorem State.setCohort_parts (s : State) (c : Nat) (x : Cohort) : (s.setCohort c x).parts = s.parts := rfl
@[simp] theorem State.setCohort_mem (s : State) (c : Nat) (x : Cohort) : (s.setCohort c x).mem = s.mem := rfl
@[simp] theorem State.setCohort_poison (s : State) (c : Nat) (x : Cohort) : (s.setCohort c x).poison = s.poison := rfl
@[simp] theorem State.setCohort_seqs (s : State) (c : Nat) (x : Cohort) : (s.setCohort c x).seqs = s.seqs := rfl
@[simp] theorem State.setCohort_keyTags (s : State) (c : Nat) (x : Cohort) : (s.setCohort c x).keyTags = s.keyTags := rfl
@[simp] theorem State.setCohort_keys (s : State) (c : Nat) (x : Cohort) : (s.setCohort c x).keys = s.keys := rfl
@[simp] theorem State.setCohort_l2 (s : State) (c : Nat) (x : Cohort) : (s.setCohort c x).l2 = s.l2 := rfl
@[simp] theorem State.setCohort_tlb (s : State) (c : Nat) (x : Cohort) : (s.setCohort c x).tlb = s.tlb := rfl
@[simp] theorem State.setCohort_walks (s : State) (c : Nat) (x : Cohort) : (s.setCohort c x).walks = s.walks := rfl
@[simp] theorem State.setCohort_gens (s : State) (c : Nat) (x : Cohort) : (s.setCohort c x).gens = s.gens := rfl
@[simp] theorem State.setCohort_reqs (s : State) (c : Nat) (x : Cohort) : (s.setCohort c x).reqs = s.reqs := rfl
@[simp] theorem State.setCohort_links (s : State) (c : Nat) (x : Cohort) : (s.setCohort c x).links = s.links := rfl
@[simp] theorem State.setCohort_filter (s : State) (c : Nat) (x : Cohort) : (s.setCohort c x).filter = s.filter := rfl
@[simp] theorem State.setCohort_keydrop (s : State) (c : Nat) (x : Cohort) : (s.setCohort c x).keydrop = s.keydrop := rfl
@[simp] theorem State.setCohort_pri (s : State) (c : Nat) (x : Cohort) : (s.setCohort c x).pri = s.pri := rfl
@[simp] theorem State.setCohort_demoted (s : State) (c : Nat) (x : Cohort) : (s.setCohort c x).demoted = s.demoted := rfl
@[simp] theorem State.setCohort_sliceGauges (s : State) (c : Nat) (x : Cohort) : (s.setCohort c x).sliceGauges = s.sliceGauges := rfl
@[simp] theorem State.setCohort_revoking (s : State) (c : Nat) (x : Cohort) : (s.setCohort c x).revoking = s.revoking := rfl
@[simp] theorem State.setCohort_replies (s : State) (c : Nat) (x : Cohort) : (s.setCohort c x).replies = s.replies := rfl
@[simp] theorem State.setCohort_reports (s : State) (c : Nat) (x : Cohort) : (s.setCohort c x).reports = s.reports := rfl
@[simp] theorem State.setCohort_dead (s : State) (c : Nat) (x : Cohort) : (s.setCohort c x).dead = s.dead := rfl
@[simp] theorem State.setCohort_fwctl (s : State) (c : Nat) (x : Cohort) : (s.setCohort c x).fwctl = s.fwctl := rfl
@[simp] theorem State.setCohort_fwstat (s : State) (c : Nat) (x : Cohort) : (s.setCohort c x).fwstat = s.fwstat := rfl
@[simp] theorem State.setCohort_powlim (s : State) (c : Nat) (x : Cohort) : (s.setCohort c x).powlim = s.powlim := rfl
@[simp] theorem State.setCohort_ftmo (s : State) (c : Nat) (x : Cohort) : (s.setCohort c x).ftmo = s.ftmo := rfl
@[simp] theorem State.setCohort_measurement (s : State) (c : Nat) (x : Cohort) : (s.setCohort c x).measurement = s.measurement := rfl
@[simp] theorem State.setCohort_staging (s : State) (c : Nat) (x : Cohort) : (s.setCohort c x).staging = s.staging := rfl
@[simp] theorem State.setCohort_station (s : State) (c : Nat) (x : Cohort) : (s.setCohort c x).station = s.station := rfl
@[simp] theorem State.setCohort_identity (s : State) (c : Nat) (x : Cohort) : (s.setCohort c x).identity = s.identity := rfl
@[simp] theorem State.setCohort_agenda (s : State) (c : Nat) (x : Cohort) : (s.setCohort c x).agenda = s.agenda := rfl
@[simp] theorem State.setCohort_cur (s : State) (c : Nat) (x : Cohort) : (s.setCohort c x).cur = s.cur := rfl
@[simp] theorem State.setCohort_turn (s : State) (c : Nat) (x : Cohort) : (s.setCohort c x).turn = s.turn := rfl
@[simp] theorem State.setCohort_nextId (s : State) (c : Nat) (x : Cohort) : (s.setCohort c x).nextId = s.nextId := rfl
@[simp] theorem State.setCohort_freeTick (s : State) (c : Nat) (x : Cohort) : (s.setCohort c x).freeTick = s.freeTick := rfl
@[simp] theorem State.setCohort_netClock (s : State) (c : Nat) (x : Cohort) : (s.setCohort c x).netClock = s.netClock := rfl

/-! ## State.adjGroup -/

@[simp] theorem State.adjGroup_cores (s : State) (gid : Nat) (f : Group → Group) : (s.adjGroup gid f).cores = s.cores := rfl
@[simp] theorem State.adjGroup_clusters (s : State) (gid : Nat) (f : Group → Group) : (s.adjGroup gid f).clusters = s.clusters := rfl
@[simp] theorem State.adjGroup_groups (s : State) (gid : Nat) (f : Group → Group) : (s.adjGroup gid f).groups = AMap.adj gid f s.groups := rfl
@[simp] theorem State.adjGroup_blocks (s : State) (gid : Nat) (f : Group → Group) : (s.adjGroup gid f).blocks = s.blocks := rfl
@[simp] theorem State.adjGroup_cohorts (s : State) (gid : Nat) (f : Group → Group) : (s.adjGroup gid f).cohorts = s.cohorts := rfl
@[simp] theorem State.adjGroup_parts (s : State) (gid : Nat) (f : Group → Group) : (s.adjGroup gid f).parts = s.parts := rfl
@[simp] theorem State.adjGroup_mem (s : State) (gid : Nat) (f : Group → Group) : (s.adjGroup gid f).mem = s.mem := rfl
@[simp] theorem State.adjGroup_poison (s : State) (gid : Nat) (f : Group → Group) : (s.adjGroup gid f).poison = s.poison := rfl
@[simp] theorem State.adjGroup_seqs (s : State) (gid : Nat) (f : Group → Group) : (s.adjGroup gid f).seqs = s.seqs := rfl
@[simp] theorem State.adjGroup_keyTags (s : State) (gid : Nat) (f : Group → Group) : (s.adjGroup gid f).keyTags = s.keyTags := rfl
@[simp] theorem State.adjGroup_keys (s : State) (gid : Nat) (f : Group → Group) : (s.adjGroup gid f).keys = s.keys := rfl
@[simp] theorem State.adjGroup_l2 (s : State) (gid : Nat) (f : Group → Group) : (s.adjGroup gid f).l2 = s.l2 := rfl
@[simp] theorem State.adjGroup_tlb (s : State) (gid : Nat) (f : Group → Group) : (s.adjGroup gid f).tlb = s.tlb := rfl
@[simp] theorem State.adjGroup_walks (s : State) (gid : Nat) (f : Group → Group) : (s.adjGroup gid f).walks = s.walks := rfl
@[simp] theorem State.adjGroup_gens (s : State) (gid : Nat) (f : Group → Group) : (s.adjGroup gid f).gens = s.gens := rfl
@[simp] theorem State.adjGroup_reqs (s : State) (gid : Nat) (f : Group → Group) : (s.adjGroup gid f).reqs = s.reqs := rfl
@[simp] theorem State.adjGroup_links (s : State) (gid : Nat) (f : Group → Group) : (s.adjGroup gid f).links = s.links := rfl
@[simp] theorem State.adjGroup_filter (s : State) (gid : Nat) (f : Group → Group) : (s.adjGroup gid f).filter = s.filter := rfl
@[simp] theorem State.adjGroup_keydrop (s : State) (gid : Nat) (f : Group → Group) : (s.adjGroup gid f).keydrop = s.keydrop := rfl
@[simp] theorem State.adjGroup_pri (s : State) (gid : Nat) (f : Group → Group) : (s.adjGroup gid f).pri = s.pri := rfl
@[simp] theorem State.adjGroup_demoted (s : State) (gid : Nat) (f : Group → Group) : (s.adjGroup gid f).demoted = s.demoted := rfl
@[simp] theorem State.adjGroup_sliceGauges (s : State) (gid : Nat) (f : Group → Group) : (s.adjGroup gid f).sliceGauges = s.sliceGauges := rfl
@[simp] theorem State.adjGroup_revoking (s : State) (gid : Nat) (f : Group → Group) : (s.adjGroup gid f).revoking = s.revoking := rfl
@[simp] theorem State.adjGroup_replies (s : State) (gid : Nat) (f : Group → Group) : (s.adjGroup gid f).replies = s.replies := rfl
@[simp] theorem State.adjGroup_reports (s : State) (gid : Nat) (f : Group → Group) : (s.adjGroup gid f).reports = s.reports := rfl
@[simp] theorem State.adjGroup_dead (s : State) (gid : Nat) (f : Group → Group) : (s.adjGroup gid f).dead = s.dead := rfl
@[simp] theorem State.adjGroup_fwctl (s : State) (gid : Nat) (f : Group → Group) : (s.adjGroup gid f).fwctl = s.fwctl := rfl
@[simp] theorem State.adjGroup_fwstat (s : State) (gid : Nat) (f : Group → Group) : (s.adjGroup gid f).fwstat = s.fwstat := rfl
@[simp] theorem State.adjGroup_powlim (s : State) (gid : Nat) (f : Group → Group) : (s.adjGroup gid f).powlim = s.powlim := rfl
@[simp] theorem State.adjGroup_ftmo (s : State) (gid : Nat) (f : Group → Group) : (s.adjGroup gid f).ftmo = s.ftmo := rfl
@[simp] theorem State.adjGroup_measurement (s : State) (gid : Nat) (f : Group → Group) : (s.adjGroup gid f).measurement = s.measurement := rfl
@[simp] theorem State.adjGroup_staging (s : State) (gid : Nat) (f : Group → Group) : (s.adjGroup gid f).staging = s.staging := rfl
@[simp] theorem State.adjGroup_station (s : State) (gid : Nat) (f : Group → Group) : (s.adjGroup gid f).station = s.station := rfl
@[simp] theorem State.adjGroup_identity (s : State) (gid : Nat) (f : Group → Group) : (s.adjGroup gid f).identity = s.identity := rfl
@[simp] theorem State.adjGroup_agenda (s : State) (gid : Nat) (f : Group → Group) : (s.adjGroup gid f).agenda = s.agenda := rfl
@[simp] theorem State.adjGroup_cur (s : State) (gid : Nat) (f : Group → Group) : (s.adjGroup gid f).cur = s.cur := rfl
@[simp] theorem State.adjGroup_turn (s : State) (gid : Nat) (f : Group → Group) : (s.adjGroup gid f).turn = s.turn := rfl
@[simp] theorem State.adjGroup_nextId (s : State) (gid : Nat) (f : Group → Group) : (s.adjGroup gid f).nextId = s.nextId := rfl
@[simp] theorem State.adjGroup_freeTick (s : State) (gid : Nat) (f : Group → Group) : (s.adjGroup gid f).freeTick = s.freeTick := rfl
@[simp] theorem State.adjGroup_netClock (s : State) (gid : Nat) (f : Group → Group) : (s.adjGroup gid f).netClock = s.netClock := rfl

/-! ## State.adjBlock -/

@[simp] theorem State.adjBlock_cores (s : State) (b : Nat) (f : Block → Block) : (s.adjBlock b f).cores = s.cores := rfl
@[simp] theorem State.adjBlock_clusters (s : State) (b : Nat) (f : Block → Block) : (s.adjBlock b f).clusters = s.clusters := rfl
@[simp] theorem State.adjBlock_groups (s : State) (b : Nat) (f : Block → Block) : (s.adjBlock b f).groups = s.groups := rfl
@[simp] theorem State.adjBlock_blocks (s : State) (b : Nat) (f : Block → Block) : (s.adjBlock b f).blocks = AMap.adj b f s.blocks := rfl
@[simp] theorem State.adjBlock_cohorts (s : State) (b : Nat) (f : Block → Block) : (s.adjBlock b f).cohorts = s.cohorts := rfl
@[simp] theorem State.adjBlock_parts (s : State) (b : Nat) (f : Block → Block) : (s.adjBlock b f).parts = s.parts := rfl
@[simp] theorem State.adjBlock_mem (s : State) (b : Nat) (f : Block → Block) : (s.adjBlock b f).mem = s.mem := rfl
@[simp] theorem State.adjBlock_poison (s : State) (b : Nat) (f : Block → Block) : (s.adjBlock b f).poison = s.poison := rfl
@[simp] theorem State.adjBlock_seqs (s : State) (b : Nat) (f : Block → Block) : (s.adjBlock b f).seqs = s.seqs := rfl
@[simp] theorem State.adjBlock_keyTags (s : State) (b : Nat) (f : Block → Block) : (s.adjBlock b f).keyTags = s.keyTags := rfl
@[simp] theorem State.adjBlock_keys (s : State) (b : Nat) (f : Block → Block) : (s.adjBlock b f).keys = s.keys := rfl
@[simp] theorem State.adjBlock_l2 (s : State) (b : Nat) (f : Block → Block) : (s.adjBlock b f).l2 = s.l2 := rfl
@[simp] theorem State.adjBlock_tlb (s : State) (b : Nat) (f : Block → Block) : (s.adjBlock b f).tlb = s.tlb := rfl
@[simp] theorem State.adjBlock_walks (s : State) (b : Nat) (f : Block → Block) : (s.adjBlock b f).walks = s.walks := rfl
@[simp] theorem State.adjBlock_gens (s : State) (b : Nat) (f : Block → Block) : (s.adjBlock b f).gens = s.gens := rfl
@[simp] theorem State.adjBlock_reqs (s : State) (b : Nat) (f : Block → Block) : (s.adjBlock b f).reqs = s.reqs := rfl
@[simp] theorem State.adjBlock_links (s : State) (b : Nat) (f : Block → Block) : (s.adjBlock b f).links = s.links := rfl
@[simp] theorem State.adjBlock_filter (s : State) (b : Nat) (f : Block → Block) : (s.adjBlock b f).filter = s.filter := rfl
@[simp] theorem State.adjBlock_keydrop (s : State) (b : Nat) (f : Block → Block) : (s.adjBlock b f).keydrop = s.keydrop := rfl
@[simp] theorem State.adjBlock_pri (s : State) (b : Nat) (f : Block → Block) : (s.adjBlock b f).pri = s.pri := rfl
@[simp] theorem State.adjBlock_demoted (s : State) (b : Nat) (f : Block → Block) : (s.adjBlock b f).demoted = s.demoted := rfl
@[simp] theorem State.adjBlock_sliceGauges (s : State) (b : Nat) (f : Block → Block) : (s.adjBlock b f).sliceGauges = s.sliceGauges := rfl
@[simp] theorem State.adjBlock_revoking (s : State) (b : Nat) (f : Block → Block) : (s.adjBlock b f).revoking = s.revoking := rfl
@[simp] theorem State.adjBlock_replies (s : State) (b : Nat) (f : Block → Block) : (s.adjBlock b f).replies = s.replies := rfl
@[simp] theorem State.adjBlock_reports (s : State) (b : Nat) (f : Block → Block) : (s.adjBlock b f).reports = s.reports := rfl
@[simp] theorem State.adjBlock_dead (s : State) (b : Nat) (f : Block → Block) : (s.adjBlock b f).dead = s.dead := rfl
@[simp] theorem State.adjBlock_fwctl (s : State) (b : Nat) (f : Block → Block) : (s.adjBlock b f).fwctl = s.fwctl := rfl
@[simp] theorem State.adjBlock_fwstat (s : State) (b : Nat) (f : Block → Block) : (s.adjBlock b f).fwstat = s.fwstat := rfl
@[simp] theorem State.adjBlock_powlim (s : State) (b : Nat) (f : Block → Block) : (s.adjBlock b f).powlim = s.powlim := rfl
@[simp] theorem State.adjBlock_ftmo (s : State) (b : Nat) (f : Block → Block) : (s.adjBlock b f).ftmo = s.ftmo := rfl
@[simp] theorem State.adjBlock_measurement (s : State) (b : Nat) (f : Block → Block) : (s.adjBlock b f).measurement = s.measurement := rfl
@[simp] theorem State.adjBlock_staging (s : State) (b : Nat) (f : Block → Block) : (s.adjBlock b f).staging = s.staging := rfl
@[simp] theorem State.adjBlock_station (s : State) (b : Nat) (f : Block → Block) : (s.adjBlock b f).station = s.station := rfl
@[simp] theorem State.adjBlock_identity (s : State) (b : Nat) (f : Block → Block) : (s.adjBlock b f).identity = s.identity := rfl
@[simp] theorem State.adjBlock_agenda (s : State) (b : Nat) (f : Block → Block) : (s.adjBlock b f).agenda = s.agenda := rfl
@[simp] theorem State.adjBlock_cur (s : State) (b : Nat) (f : Block → Block) : (s.adjBlock b f).cur = s.cur := rfl
@[simp] theorem State.adjBlock_turn (s : State) (b : Nat) (f : Block → Block) : (s.adjBlock b f).turn = s.turn := rfl
@[simp] theorem State.adjBlock_nextId (s : State) (b : Nat) (f : Block → Block) : (s.adjBlock b f).nextId = s.nextId := rfl
@[simp] theorem State.adjBlock_freeTick (s : State) (b : Nat) (f : Block → Block) : (s.adjBlock b f).freeTick = s.freeTick := rfl
@[simp] theorem State.adjBlock_netClock (s : State) (b : Nat) (f : Block → Block) : (s.adjBlock b f).netClock = s.netClock := rfl

/-! ## State.setLink -/

@[simp] theorem State.setLink_cores (s : State) (id : LinkId) (l : Link) : (s.setLink id l).cores = s.cores := rfl
@[simp] theorem State.setLink_clusters (s : State) (id : LinkId) (l : Link) : (s.setLink id l).clusters = s.clusters := rfl
@[simp] theorem State.setLink_groups (s : State) (id : LinkId) (l : Link) : (s.setLink id l).groups = s.groups := rfl
@[simp] theorem State.setLink_blocks (s : State) (id : LinkId) (l : Link) : (s.setLink id l).blocks = s.blocks := rfl
@[simp] theorem State.setLink_cohorts (s : State) (id : LinkId) (l : Link) : (s.setLink id l).cohorts = s.cohorts := rfl
@[simp] theorem State.setLink_parts (s : State) (id : LinkId) (l : Link) : (s.setLink id l).parts = s.parts := rfl
@[simp] theorem State.setLink_mem (s : State) (id : LinkId) (l : Link) : (s.setLink id l).mem = s.mem := rfl
@[simp] theorem State.setLink_poison (s : State) (id : LinkId) (l : Link) : (s.setLink id l).poison = s.poison := rfl
@[simp] theorem State.setLink_seqs (s : State) (id : LinkId) (l : Link) : (s.setLink id l).seqs = s.seqs := rfl
@[simp] theorem State.setLink_keyTags (s : State) (id : LinkId) (l : Link) : (s.setLink id l).keyTags = s.keyTags := rfl
@[simp] theorem State.setLink_keys (s : State) (id : LinkId) (l : Link) : (s.setLink id l).keys = s.keys := rfl
@[simp] theorem State.setLink_l2 (s : State) (id : LinkId) (l : Link) : (s.setLink id l).l2 = s.l2 := rfl
@[simp] theorem State.setLink_tlb (s : State) (id : LinkId) (l : Link) : (s.setLink id l).tlb = s.tlb := rfl
@[simp] theorem State.setLink_walks (s : State) (id : LinkId) (l : Link) : (s.setLink id l).walks = s.walks := rfl
@[simp] theorem State.setLink_gens (s : State) (id : LinkId) (l : Link) : (s.setLink id l).gens = s.gens := rfl
@[simp] theorem State.setLink_reqs (s : State) (id : LinkId) (l : Link) : (s.setLink id l).reqs = s.reqs := rfl
@[simp] theorem State.setLink_links (s : State) (id : LinkId) (l : Link) : (s.setLink id l).links = putLink id l s.links := rfl
@[simp] theorem State.setLink_filter (s : State) (id : LinkId) (l : Link) : (s.setLink id l).filter = s.filter := rfl
@[simp] theorem State.setLink_keydrop (s : State) (id : LinkId) (l : Link) : (s.setLink id l).keydrop = s.keydrop := rfl
@[simp] theorem State.setLink_pri (s : State) (id : LinkId) (l : Link) : (s.setLink id l).pri = s.pri := rfl
@[simp] theorem State.setLink_demoted (s : State) (id : LinkId) (l : Link) : (s.setLink id l).demoted = s.demoted := rfl
@[simp] theorem State.setLink_sliceGauges (s : State) (id : LinkId) (l : Link) : (s.setLink id l).sliceGauges = s.sliceGauges := rfl
@[simp] theorem State.setLink_revoking (s : State) (id : LinkId) (l : Link) : (s.setLink id l).revoking = s.revoking := rfl
@[simp] theorem State.setLink_replies (s : State) (id : LinkId) (l : Link) : (s.setLink id l).replies = s.replies := rfl
@[simp] theorem State.setLink_reports (s : State) (id : LinkId) (l : Link) : (s.setLink id l).reports = s.reports := rfl
@[simp] theorem State.setLink_dead (s : State) (id : LinkId) (l : Link) : (s.setLink id l).dead = s.dead := rfl
@[simp] theorem State.setLink_fwctl (s : State) (id : LinkId) (l : Link) : (s.setLink id l).fwctl = s.fwctl := rfl
@[simp] theorem State.setLink_fwstat (s : State) (id : LinkId) (l : Link) : (s.setLink id l).fwstat = s.fwstat := rfl
@[simp] theorem State.setLink_powlim (s : State) (id : LinkId) (l : Link) : (s.setLink id l).powlim = s.powlim := rfl
@[simp] theorem State.setLink_ftmo (s : State) (id : LinkId) (l : Link) : (s.setLink id l).ftmo = s.ftmo := rfl
@[simp] theorem State.setLink_measurement (s : State) (id : LinkId) (l : Link) : (s.setLink id l).measurement = s.measurement := rfl
@[simp] theorem State.setLink_staging (s : State) (id : LinkId) (l : Link) : (s.setLink id l).staging = s.staging := rfl
@[simp] theorem State.setLink_station (s : State) (id : LinkId) (l : Link) : (s.setLink id l).station = s.station := rfl
@[simp] theorem State.setLink_identity (s : State) (id : LinkId) (l : Link) : (s.setLink id l).identity = s.identity := rfl
@[simp] theorem State.setLink_agenda (s : State) (id : LinkId) (l : Link) : (s.setLink id l).agenda = s.agenda := rfl
@[simp] theorem State.setLink_cur (s : State) (id : LinkId) (l : Link) : (s.setLink id l).cur = s.cur := rfl
@[simp] theorem State.setLink_turn (s : State) (id : LinkId) (l : Link) : (s.setLink id l).turn = s.turn := rfl
@[simp] theorem State.setLink_nextId (s : State) (id : LinkId) (l : Link) : (s.setLink id l).nextId = s.nextId := rfl
@[simp] theorem State.setLink_freeTick (s : State) (id : LinkId) (l : Link) : (s.setLink id l).freeTick = s.freeTick := rfl
@[simp] theorem State.setLink_netClock (s : State) (id : LinkId) (l : Link) : (s.setLink id l).netClock = s.netClock := rfl

/-! ## State.setReq -/

@[simp] theorem State.setReq_cores (s : State) (rid : Nat) (r : Req) : (s.setReq rid r).cores = s.cores := rfl
@[simp] theorem State.setReq_clusters (s : State) (rid : Nat) (r : Req) : (s.setReq rid r).clusters = s.clusters := rfl
@[simp] theorem State.setReq_groups (s : State) (rid : Nat) (r : Req) : (s.setReq rid r).groups = s.groups := rfl
@[simp] theorem State.setReq_blocks (s : State) (rid : Nat) (r : Req) : (s.setReq rid r).blocks = s.blocks := rfl
@[simp] theorem State.setReq_cohorts (s : State) (rid : Nat) (r : Req) : (s.setReq rid r).cohorts = s.cohorts := rfl
@[simp] theorem State.setReq_parts (s : State) (rid : Nat) (r : Req) : (s.setReq rid r).parts = s.parts := rfl
@[simp] theorem State.setReq_mem (s : State) (rid : Nat) (r : Req) : (s.setReq rid r).mem = s.mem := rfl
@[simp] theorem State.setReq_poison (s : State) (rid : Nat) (r : Req) : (s.setReq rid r).poison = s.poison := rfl
@[simp] theorem State.setReq_seqs (s : State) (rid : Nat) (r : Req) : (s.setReq rid r).seqs = s.seqs := rfl
@[simp] theorem State.setReq_keyTags (s : State) (rid : Nat) (r : Req) : (s.setReq rid r).keyTags = s.keyTags := rfl
@[simp] theorem State.setReq_keys (s : State) (rid : Nat) (r : Req) : (s.setReq rid r).keys = s.keys := rfl
@[simp] theorem State.setReq_l2 (s : State) (rid : Nat) (r : Req) : (s.setReq rid r).l2 = s.l2 := rfl
@[simp] theorem State.setReq_tlb (s : State) (rid : Nat) (r : Req) : (s.setReq rid r).tlb = s.tlb := rfl
@[simp] theorem State.setReq_walks (s : State) (rid : Nat) (r : Req) : (s.setReq rid r).walks = s.walks := rfl
@[simp] theorem State.setReq_gens (s : State) (rid : Nat) (r : Req) : (s.setReq rid r).gens = s.gens := rfl
@[simp] theorem State.setReq_reqs (s : State) (rid : Nat) (r : Req) : (s.setReq rid r).reqs = AMap.put rid r s.reqs := rfl
@[simp] theorem State.setReq_links (s : State) (rid : Nat) (r : Req) : (s.setReq rid r).links = s.links := rfl
@[simp] theorem State.setReq_filter (s : State) (rid : Nat) (r : Req) : (s.setReq rid r).filter = s.filter := rfl
@[simp] theorem State.setReq_keydrop (s : State) (rid : Nat) (r : Req) : (s.setReq rid r).keydrop = s.keydrop := rfl
@[simp] theorem State.setReq_pri (s : State) (rid : Nat) (r : Req) : (s.setReq rid r).pri = s.pri := rfl
@[simp] theorem State.setReq_demoted (s : State) (rid : Nat) (r : Req) : (s.setReq rid r).demoted = s.demoted := rfl
@[simp] theorem State.setReq_sliceGauges (s : State) (rid : Nat) (r : Req) : (s.setReq rid r).sliceGauges = s.sliceGauges := rfl
@[simp] theorem State.setReq_revoking (s : State) (rid : Nat) (r : Req) : (s.setReq rid r).revoking = s.revoking := rfl
@[simp] theorem State.setReq_replies (s : State) (rid : Nat) (r : Req) : (s.setReq rid r).replies = s.replies := rfl
@[simp] theorem State.setReq_reports (s : State) (rid : Nat) (r : Req) : (s.setReq rid r).reports = s.reports := rfl
@[simp] theorem State.setReq_dead (s : State) (rid : Nat) (r : Req) : (s.setReq rid r).dead = s.dead := rfl
@[simp] theorem State.setReq_fwctl (s : State) (rid : Nat) (r : Req) : (s.setReq rid r).fwctl = s.fwctl := rfl
@[simp] theorem State.setReq_fwstat (s : State) (rid : Nat) (r : Req) : (s.setReq rid r).fwstat = s.fwstat := rfl
@[simp] theorem State.setReq_powlim (s : State) (rid : Nat) (r : Req) : (s.setReq rid r).powlim = s.powlim := rfl
@[simp] theorem State.setReq_ftmo (s : State) (rid : Nat) (r : Req) : (s.setReq rid r).ftmo = s.ftmo := rfl
@[simp] theorem State.setReq_measurement (s : State) (rid : Nat) (r : Req) : (s.setReq rid r).measurement = s.measurement := rfl
@[simp] theorem State.setReq_staging (s : State) (rid : Nat) (r : Req) : (s.setReq rid r).staging = s.staging := rfl
@[simp] theorem State.setReq_station (s : State) (rid : Nat) (r : Req) : (s.setReq rid r).station = s.station := rfl
@[simp] theorem State.setReq_identity (s : State) (rid : Nat) (r : Req) : (s.setReq rid r).identity = s.identity := rfl
@[simp] theorem State.setReq_agenda (s : State) (rid : Nat) (r : Req) : (s.setReq rid r).agenda = s.agenda := rfl
@[simp] theorem State.setReq_cur (s : State) (rid : Nat) (r : Req) : (s.setReq rid r).cur = s.cur := rfl
@[simp] theorem State.setReq_turn (s : State) (rid : Nat) (r : Req) : (s.setReq rid r).turn = s.turn := rfl
@[simp] theorem State.setReq_nextId (s : State) (rid : Nat) (r : Req) : (s.setReq rid r).nextId = s.nextId := rfl
@[simp] theorem State.setReq_freeTick (s : State) (rid : Nat) (r : Req) : (s.setReq rid r).freeTick = s.freeTick := rfl
@[simp] theorem State.setReq_netClock (s : State) (rid : Nat) (r : Req) : (s.setReq rid r).netClock = s.netClock := rfl

/-! ## State.dropReq -/

@[simp] theorem State.dropReq_cores (s : State) (rid : Nat) : (s.dropReq rid).cores = s.cores := rfl
@[simp] theorem State.dropReq_clusters (s : State) (rid : Nat) : (s.dropReq rid).clusters = s.clusters := rfl
@[simp] theorem State.dropReq_groups (s : State) (rid : Nat) : (s.dropReq rid).groups = s.groups := rfl
@[simp] theorem State.dropReq_blocks (s : State) (rid : Nat) : (s.dropReq rid).blocks = s.blocks := rfl
@[simp] theorem State.dropReq_cohorts (s : State) (rid : Nat) : (s.dropReq rid).cohorts = s.cohorts := rfl
@[simp] theorem State.dropReq_parts (s : State) (rid : Nat) : (s.dropReq rid).parts = s.parts := rfl
@[simp] theorem State.dropReq_mem (s : State) (rid : Nat) : (s.dropReq rid).mem = s.mem := rfl
@[simp] theorem State.dropReq_poison (s : State) (rid : Nat) : (s.dropReq rid).poison = s.poison := rfl
@[simp] theorem State.dropReq_seqs (s : State) (rid : Nat) : (s.dropReq rid).seqs = s.seqs := rfl
@[simp] theorem State.dropReq_keyTags (s : State) (rid : Nat) : (s.dropReq rid).keyTags = s.keyTags := rfl
@[simp] theorem State.dropReq_keys (s : State) (rid : Nat) : (s.dropReq rid).keys = s.keys := rfl
@[simp] theorem State.dropReq_l2 (s : State) (rid : Nat) : (s.dropReq rid).l2 = s.l2 := rfl
@[simp] theorem State.dropReq_tlb (s : State) (rid : Nat) : (s.dropReq rid).tlb = s.tlb := rfl
@[simp] theorem State.dropReq_walks (s : State) (rid : Nat) : (s.dropReq rid).walks = s.walks := rfl
@[simp] theorem State.dropReq_gens (s : State) (rid : Nat) : (s.dropReq rid).gens = s.gens := rfl
@[simp] theorem State.dropReq_reqs (s : State) (rid : Nat) : (s.dropReq rid).reqs = AMap.del rid s.reqs := rfl
@[simp] theorem State.dropReq_links (s : State) (rid : Nat) : (s.dropReq rid).links = s.links := rfl
@[simp] theorem State.dropReq_filter (s : State) (rid : Nat) : (s.dropReq rid).filter = s.filter := rfl
@[simp] theorem State.dropReq_keydrop (s : State) (rid : Nat) : (s.dropReq rid).keydrop = s.keydrop := rfl
@[simp] theorem State.dropReq_pri (s : State) (rid : Nat) : (s.dropReq rid).pri = s.pri := rfl
@[simp] theorem State.dropReq_demoted (s : State) (rid : Nat) : (s.dropReq rid).demoted = s.demoted := rfl
@[simp] theorem State.dropReq_sliceGauges (s : State) (rid : Nat) : (s.dropReq rid).sliceGauges = s.sliceGauges := rfl
@[simp] theorem State.dropReq_revoking (s : State) (rid : Nat) : (s.dropReq rid).revoking = s.revoking := rfl
@[simp] theorem State.dropReq_replies (s : State) (rid : Nat) : (s.dropReq rid).replies = s.replies := rfl
@[simp] theorem State.dropReq_reports (s : State) (rid : Nat) : (s.dropReq rid).reports = s.reports := rfl
@[simp] theorem State.dropReq_dead (s : State) (rid : Nat) : (s.dropReq rid).dead = s.dead := rfl
@[simp] theorem State.dropReq_fwctl (s : State) (rid : Nat) : (s.dropReq rid).fwctl = s.fwctl := rfl
@[simp] theorem State.dropReq_fwstat (s : State) (rid : Nat) : (s.dropReq rid).fwstat = s.fwstat := rfl
@[simp] theorem State.dropReq_powlim (s : State) (rid : Nat) : (s.dropReq rid).powlim = s.powlim := rfl
@[simp] theorem State.dropReq_ftmo (s : State) (rid : Nat) : (s.dropReq rid).ftmo = s.ftmo := rfl
@[simp] theorem State.dropReq_measurement (s : State) (rid : Nat) : (s.dropReq rid).measurement = s.measurement := rfl
@[simp] theorem State.dropReq_staging (s : State) (rid : Nat) : (s.dropReq rid).staging = s.staging := rfl
@[simp] theorem State.dropReq_station (s : State) (rid : Nat) : (s.dropReq rid).station = s.station := rfl
@[simp] theorem State.dropReq_identity (s : State) (rid : Nat) : (s.dropReq rid).identity = s.identity := rfl
@[simp] theorem State.dropReq_agenda (s : State) (rid : Nat) : (s.dropReq rid).agenda = s.agenda := rfl
@[simp] theorem State.dropReq_cur (s : State) (rid : Nat) : (s.dropReq rid).cur = s.cur := rfl
@[simp] theorem State.dropReq_turn (s : State) (rid : Nat) : (s.dropReq rid).turn = s.turn := rfl
@[simp] theorem State.dropReq_nextId (s : State) (rid : Nat) : (s.dropReq rid).nextId = s.nextId := rfl
@[simp] theorem State.dropReq_freeTick (s : State) (rid : Nat) : (s.dropReq rid).freeTick = s.freeTick := rfl
@[simp] theorem State.dropReq_netClock (s : State) (rid : Nat) : (s.dropReq rid).netClock = s.netClock := rfl

/-! ## State.setPoison -/

@[simp] theorem State.setPoison_cores (s : State) (pa : Nat) (b : Bool) : (s.setPoison pa b).cores = s.cores := rfl
@[simp] theorem State.setPoison_clusters (s : State) (pa : Nat) (b : Bool) : (s.setPoison pa b).clusters = s.clusters := rfl
@[simp] theorem State.setPoison_groups (s : State) (pa : Nat) (b : Bool) : (s.setPoison pa b).groups = s.groups := rfl
@[simp] theorem State.setPoison_blocks (s : State) (pa : Nat) (b : Bool) : (s.setPoison pa b).blocks = s.blocks := rfl
@[simp] theorem State.setPoison_cohorts (s : State) (pa : Nat) (b : Bool) : (s.setPoison pa b).cohorts = s.cohorts := rfl
@[simp] theorem State.setPoison_parts (s : State) (pa : Nat) (b : Bool) : (s.setPoison pa b).parts = s.parts := rfl
@[simp] theorem State.setPoison_mem (s : State) (pa : Nat) (b : Bool) : (s.setPoison pa b).mem = s.mem := rfl
@[simp] theorem State.setPoison_poison (s : State) (pa : Nat) (b : Bool) : (s.setPoison pa b).poison = Sparse.set false s.poison (pa / 32) b := rfl
@[simp] theorem State.setPoison_seqs (s : State) (pa : Nat) (b : Bool) : (s.setPoison pa b).seqs = s.seqs := rfl
@[simp] theorem State.setPoison_keyTags (s : State) (pa : Nat) (b : Bool) : (s.setPoison pa b).keyTags = s.keyTags := rfl
@[simp] theorem State.setPoison_keys (s : State) (pa : Nat) (b : Bool) : (s.setPoison pa b).keys = s.keys := rfl
@[simp] theorem State.setPoison_l2 (s : State) (pa : Nat) (b : Bool) : (s.setPoison pa b).l2 = s.l2 := rfl
@[simp] theorem State.setPoison_tlb (s : State) (pa : Nat) (b : Bool) : (s.setPoison pa b).tlb = s.tlb := rfl
@[simp] theorem State.setPoison_walks (s : State) (pa : Nat) (b : Bool) : (s.setPoison pa b).walks = s.walks := rfl
@[simp] theorem State.setPoison_gens (s : State) (pa : Nat) (b : Bool) : (s.setPoison pa b).gens = s.gens := rfl
@[simp] theorem State.setPoison_reqs (s : State) (pa : Nat) (b : Bool) : (s.setPoison pa b).reqs = s.reqs := rfl
@[simp] theorem State.setPoison_links (s : State) (pa : Nat) (b : Bool) : (s.setPoison pa b).links = s.links := rfl
@[simp] theorem State.setPoison_filter (s : State) (pa : Nat) (b : Bool) : (s.setPoison pa b).filter = s.filter := rfl
@[simp] theorem State.setPoison_keydrop (s : State) (pa : Nat) (b : Bool) : (s.setPoison pa b).keydrop = s.keydrop := rfl
@[simp] theorem State.setPoison_pri (s : State) (pa : Nat) (b : Bool) : (s.setPoison pa b).pri = s.pri := rfl
@[simp] theorem State.setPoison_demoted (s : State) (pa : Nat) (b : Bool) : (s.setPoison pa b).demoted = s.demoted := rfl
@[simp] theorem State.setPoison_sliceGauges (s : State) (pa : Nat) (b : Bool) : (s.setPoison pa b).sliceGauges = s.sliceGauges := rfl
@[simp] theorem State.setPoison_revoking (s : State) (pa : Nat) (b : Bool) : (s.setPoison pa b).revoking = s.revoking := rfl
@[simp] theorem State.setPoison_replies (s : State) (pa : Nat) (b : Bool) : (s.setPoison pa b).replies = s.replies := rfl
@[simp] theorem State.setPoison_reports (s : State) (pa : Nat) (b : Bool) : (s.setPoison pa b).reports = s.reports := rfl
@[simp] theorem State.setPoison_dead (s : State) (pa : Nat) (b : Bool) : (s.setPoison pa b).dead = s.dead := rfl
@[simp] theorem State.setPoison_fwctl (s : State) (pa : Nat) (b : Bool) : (s.setPoison pa b).fwctl = s.fwctl := rfl
@[simp] theorem State.setPoison_fwstat (s : State) (pa : Nat) (b : Bool) : (s.setPoison pa b).fwstat = s.fwstat := rfl
@[simp] theorem State.setPoison_powlim (s : State) (pa : Nat) (b : Bool) : (s.setPoison pa b).powlim = s.powlim := rfl
@[simp] theorem State.setPoison_ftmo (s : State) (pa : Nat) (b : Bool) : (s.setPoison pa b).ftmo = s.ftmo := rfl
@[simp] theorem State.setPoison_measurement (s : State) (pa : Nat) (b : Bool) : (s.setPoison pa b).measurement = s.measurement := rfl
@[simp] theorem State.setPoison_staging (s : State) (pa : Nat) (b : Bool) : (s.setPoison pa b).staging = s.staging := rfl
@[simp] theorem State.setPoison_station (s : State) (pa : Nat) (b : Bool) : (s.setPoison pa b).station = s.station := rfl
@[simp] theorem State.setPoison_identity (s : State) (pa : Nat) (b : Bool) : (s.setPoison pa b).identity = s.identity := rfl
@[simp] theorem State.setPoison_agenda (s : State) (pa : Nat) (b : Bool) : (s.setPoison pa b).agenda = s.agenda := rfl
@[simp] theorem State.setPoison_cur (s : State) (pa : Nat) (b : Bool) : (s.setPoison pa b).cur = s.cur := rfl
@[simp] theorem State.setPoison_turn (s : State) (pa : Nat) (b : Bool) : (s.setPoison pa b).turn = s.turn := rfl
@[simp] theorem State.setPoison_nextId (s : State) (pa : Nat) (b : Bool) : (s.setPoison pa b).nextId = s.nextId := rfl
@[simp] theorem State.setPoison_freeTick (s : State) (pa : Nat) (b : Bool) : (s.setPoison pa b).freeTick = s.freeTick := rfl
@[simp] theorem State.setPoison_netClock (s : State) (pa : Nat) (b : Bool) : (s.setPoison pa b).netClock = s.netClock := rfl

/-! ## The free counter (log 5) -/

@[simp] theorem State.fresh_cores (s : State) : s.fresh.2.cores = s.cores := rfl
@[simp] theorem State.fresh_clusters (s : State) : s.fresh.2.clusters = s.clusters := rfl
@[simp] theorem State.fresh_groups (s : State) : s.fresh.2.groups = s.groups := rfl
@[simp] theorem State.fresh_blocks (s : State) : s.fresh.2.blocks = s.blocks := rfl
@[simp] theorem State.fresh_cohorts (s : State) : s.fresh.2.cohorts = s.cohorts := rfl
@[simp] theorem State.fresh_parts (s : State) : s.fresh.2.parts = s.parts := rfl
@[simp] theorem State.fresh_mem (s : State) : s.fresh.2.mem = s.mem := rfl
@[simp] theorem State.fresh_poison (s : State) : s.fresh.2.poison = s.poison := rfl
@[simp] theorem State.fresh_seqs (s : State) : s.fresh.2.seqs = s.seqs := rfl
@[simp] theorem State.fresh_keyTags (s : State) : s.fresh.2.keyTags = s.keyTags := rfl
@[simp] theorem State.fresh_keys (s : State) : s.fresh.2.keys = s.keys := rfl
@[simp] theorem State.fresh_l2 (s : State) : s.fresh.2.l2 = s.l2 := rfl
@[simp] theorem State.fresh_tlb (s : State) : s.fresh.2.tlb = s.tlb := rfl
@[simp] theorem State.fresh_walks (s : State) : s.fresh.2.walks = s.walks := rfl
@[simp] theorem State.fresh_gens (s : State) : s.fresh.2.gens = s.gens := rfl
@[simp] theorem State.fresh_reqs (s : State) : s.fresh.2.reqs = s.reqs := rfl
@[simp] theorem State.fresh_links (s : State) : s.fresh.2.links = s.links := rfl
@[simp] theorem State.fresh_filter (s : State) : s.fresh.2.filter = s.filter := rfl
@[simp] theorem State.fresh_keydrop (s : State) : s.fresh.2.keydrop = s.keydrop := rfl
@[simp] theorem State.fresh_pri (s : State) : s.fresh.2.pri = s.pri := rfl
@[simp] theorem State.fresh_demoted (s : State) : s.fresh.2.demoted = s.demoted := rfl
@[simp] theorem State.fresh_sliceGauges (s : State) : s.fresh.2.sliceGauges = s.sliceGauges := rfl
@[simp] theorem State.fresh_revoking (s : State) : s.fresh.2.revoking = s.revoking := rfl
@[simp] theorem State.fresh_replies (s : State) : s.fresh.2.replies = s.replies := rfl
@[simp] theorem State.fresh_reports (s : State) : s.fresh.2.reports = s.reports := rfl
@[simp] theorem State.fresh_dead (s : State) : s.fresh.2.dead = s.dead := rfl
@[simp] theorem State.fresh_fwctl (s : State) : s.fresh.2.fwctl = s.fwctl := rfl
@[simp] theorem State.fresh_fwstat (s : State) : s.fresh.2.fwstat = s.fwstat := rfl
@[simp] theorem State.fresh_powlim (s : State) : s.fresh.2.powlim = s.powlim := rfl
@[simp] theorem State.fresh_ftmo (s : State) : s.fresh.2.ftmo = s.ftmo := rfl
@[simp] theorem State.fresh_measurement (s : State) : s.fresh.2.measurement = s.measurement := rfl
@[simp] theorem State.fresh_staging (s : State) : s.fresh.2.staging = s.staging := rfl
@[simp] theorem State.fresh_station (s : State) : s.fresh.2.station = s.station := rfl
@[simp] theorem State.fresh_identity (s : State) : s.fresh.2.identity = s.identity := rfl
@[simp] theorem State.fresh_agenda (s : State) : s.fresh.2.agenda = s.agenda := rfl
@[simp] theorem State.fresh_cur (s : State) : s.fresh.2.cur = s.cur := rfl
@[simp] theorem State.fresh_turn (s : State) : s.fresh.2.turn = s.turn := rfl
@[simp] theorem State.fresh_nextId (s : State) : s.fresh.2.nextId = s.nextId := rfl
@[simp] theorem State.fresh_freeTick (s : State) : s.fresh.2.freeTick = s.freeTick + 1 := rfl
@[simp] theorem State.fresh_netClock (s : State) : s.fresh.2.netClock = s.netClock := rfl

/-! ## Group.setV -/

@[simp] theorem Group.setV_block (g : Group) (j r x : Nat) : (g.setV j r x).block = g.block := rfl
@[simp] theorem Group.setV_idx (g : Group) (j r x : Nat) : (g.setV j r x).idx = g.idx := rfl
@[simp] theorem Group.setV_lanes (g : Group) (j r x : Nat) : (g.setV j r x).lanes = g.lanes := rfl
@[simp] theorem Group.setV_v (g : Group) (j r x : Nat) : (g.setV j r x).v = Sparse.set 0#32 g.v (256 * j + r) (BitVec.ofNat 32 x) := rfl
@[simp] theorem Group.setV_q (g : Group) (j r x : Nat) : (g.setV j r x).q = g.q := rfl
@[simp] theorem Group.setV_s (g : Group) (j r x : Nat) : (g.setV j r x).s = g.s := rfl
@[simp] theorem Group.setV_pc (g : Group) (j r x : Nat) : (g.setV j r x).pc = g.pc := rfl
@[simp] theorem Group.setV_alloc (g : Group) (j r x : Nat) : (g.setV j r x).alloc = g.alloc := rfl
@[simp] theorem Group.setV_sdov (g : Group) (j r x : Nat) : (g.setV j r x).sdov = g.sdov := rfl
@[simp] theorem Group.setV_sdz (g : Group) (j r x : Nat) : (g.setV j r x).sdz = g.sdz := rfl
@[simp] theorem Group.setV_strict (g : Group) (j r x : Nat) : (g.setV j r x).strict = g.strict := rfl
@[simp] theorem Group.setV_split (g : Group) (j r x : Nat) : (g.setV j r x).split = g.split := rfl
@[simp] theorem Group.setV_grid (g : Group) (j r x : Nat) : (g.setV j r x).grid = g.grid := rfl
@[simp] theorem Group.setV_mtx (g : Group) (j r x : Nat) : (g.setV j r x).mtx = g.mtx := rfl
@[simp] theorem Group.setV_intrap (g : Group) (j r x : Nat) : (g.setV j r x).intrap = g.intrap := rfl
@[simp] theorem Group.setV_trapkind (g : Group) (j r x : Nat) : (g.setV j r x).trapkind = g.trapkind := rfl
@[simp] theorem Group.setV_trappc (g : Group) (j r x : Nat) : (g.setV j r x).trappc = g.trappc := rfl
@[simp] theorem Group.setV_trapinfo (g : Group) (j r x : Nat) : (g.setV j r x).trapinfo = g.trapinfo := rfl
@[simp] theorem Group.setV_reccnt (g : Group) (j r x : Nat) : (g.setV j r x).reccnt = g.reccnt := rfl
@[simp] theorem Group.setV_fpxmask (g : Group) (j r x : Nat) : (g.setV j r x).fpxmask = g.fpxmask := rfl
@[simp] theorem Group.setV_tensor (g : Group) (j r x : Nat) : (g.setV j r x).tensor = g.tensor := rfl
@[simp] theorem Group.setV_cls (g : Group) (j r x : Nat) : (g.setV j r x).cls = g.cls := rfl
@[simp] theorem Group.setV_age (g : Group) (j r x : Nat) : (g.setV j r x).age = g.age := rfl
@[simp] theorem Group.setV_bound (g : Group) (j r x : Nat) : (g.setV j r x).bound = g.bound := rfl
@[simp] theorem Group.setV_wait (g : Group) (j r x : Nat) : (g.setV j r x).wait = g.wait := rfl
@[simp] theorem Group.setV_sealDue (g : Group) (j r x : Nat) : (g.setV j r x).sealDue = g.sealDue := rfl
@[simp] theorem Group.setV_ops (g : Group) (j r x : Nat) : (g.setV j r x).ops = g.ops := rfl
@[simp] theorem Group.setV_arrivals (g : Group) (j r x : Nat) : (g.setV j r x).arrivals = g.arrivals := rfl
@[simp] theorem Group.setV_arrNum (g : Group) (j r x : Nat) : (g.setV j r x).arrNum = g.arrNum := rfl
@[simp] theorem Group.setV_cohNum (g : Group) (j r x : Nat) : (g.setV j r x).cohNum = g.cohNum := rfl
@[simp] theorem Group.setV_atomSeq (g : Group) (j r x : Nat) : (g.setV j r x).atomSeq = g.atomSeq := rfl
@[simp] theorem Group.setV_efull (g : Group) (j r x : Nat) : (g.setV j r x).efull = g.efull := rfl
@[simp] theorem Group.setV_courses (g : Group) (j r x : Nat) : (g.setV j r x).courses = g.courses := rfl
@[simp] theorem Group.setV_parkedWhole (g : Group) (j r x : Nat) : (g.setV j r x).parkedWhole = g.parkedWhole := rfl
@[simp] theorem Group.setV_copying (g : Group) (j r x : Nat) : (g.setV j r x).copying = g.copying := rfl
@[simp] theorem Group.setV_place (g : Group) (j r x : Nat) : (g.setV j r x).place = g.place := rfl
@[simp] theorem Group.setV_inActive (g : Group) (j r x : Nat) : (g.setV j r x).inActive = g.inActive := rfl
@[simp] theorem Group.setV_slot (g : Group) (j r x : Nat) : (g.setV j r x).slot = g.slot := rfl
@[simp] theorem Group.setV_passCount (g : Group) (j r x : Nat) : (g.setV j r x).passCount = g.passCount := rfl
@[simp] theorem Group.setV_since (g : Group) (j r x : Nat) : (g.setV j r x).since = g.since := rfl
@[simp] theorem Group.setV_promoted (g : Group) (j r x : Nat) : (g.setV j r x).promoted = g.promoted := rfl
@[simp] theorem Group.setV_notBefore (g : Group) (j r x : Nat) : (g.setV j r x).notBefore = g.notBefore := rfl
@[simp] theorem Group.setV_grans (g : Group) (j r x : Nat) : (g.setV j r x).grans = g.grans := rfl
@[simp] theorem Group.setV_fetchPark (g : Group) (j r x : Nat) : (g.setV j r x).fetchPark = g.fetchPark := rfl
@[simp] theorem Group.setV_commitTo (g : Group) (j r x : Nat) : (g.setV j r x).commitTo = g.commitTo := rfl
@[simp] theorem Group.setV_seen (g : Group) (j r x : Nat) : (g.setV j r x).seen = g.seen := rfl
@[simp] theorem Group.setV_ended (g : Group) (j r x : Nat) : (g.setV j r x).ended = g.ended := rfl
@[simp] theorem Group.setV_latch (g : Group) (j r x : Nat) : (g.setV j r x).latch = g.latch := rfl

/-! ## Group.advance -/

@[simp] theorem Group.advance_block (g : Group) : (g.advance).block = g.block := rfl
@[simp] theorem Group.advance_idx (g : Group) : (g.advance).idx = g.idx := rfl
@[simp] theorem Group.advance_lanes (g : Group) : (g.advance).lanes = g.lanes := rfl
@[simp] theorem Group.advance_v (g : Group) : (g.advance).v = g.v := rfl
@[simp] theorem Group.advance_q (g : Group) : (g.advance).q = g.q := rfl
@[simp] theorem Group.advance_s (g : Group) : (g.advance).s = g.s := rfl
@[simp] theorem Group.advance_pc (g : Group) : (g.advance).pc = g.pc + 8 := rfl
@[simp] theorem Group.advance_alloc (g : Group) : (g.advance).alloc = g.alloc := rfl
@[simp] theorem Group.advance_sdov (g : Group) : (g.advance).sdov = g.sdov := rfl
@[simp] theorem Group.advance_sdz (g : Group) : (g.advance).sdz = g.sdz := rfl
@[simp] theorem Group.advance_strict (g : Group) : (g.advance).strict = g.strict := rfl
@[simp] theorem Group.advance_split (g : Group) : (g.advance).split = g.split := rfl
@[simp] theorem Group.advance_grid (g : Group) : (g.advance).grid = g.grid := rfl
@[simp] theorem Group.advance_mtx (g : Group) : (g.advance).mtx = g.mtx := rfl
@[simp] theorem Group.advance_intrap (g : Group) : (g.advance).intrap = g.intrap := rfl
@[simp] theorem Group.advance_trapkind (g : Group) : (g.advance).trapkind = g.trapkind := rfl
@[simp] theorem Group.advance_trappc (g : Group) : (g.advance).trappc = g.trappc := rfl
@[simp] theorem Group.advance_trapinfo (g : Group) : (g.advance).trapinfo = g.trapinfo := rfl
@[simp] theorem Group.advance_reccnt (g : Group) : (g.advance).reccnt = g.reccnt := rfl
@[simp] theorem Group.advance_fpxmask (g : Group) : (g.advance).fpxmask = g.fpxmask := rfl
@[simp] theorem Group.advance_tensor (g : Group) : (g.advance).tensor = g.tensor := rfl
@[simp] theorem Group.advance_cls (g : Group) : (g.advance).cls = g.cls := rfl
@[simp] theorem Group.advance_age (g : Group) : (g.advance).age = g.age := rfl
@[simp] theorem Group.advance_bound (g : Group) : (g.advance).bound = g.bound := rfl
@[simp] theorem Group.advance_wait (g : Group) : (g.advance).wait = g.wait := rfl
@[simp] theorem Group.advance_sealDue (g : Group) : (g.advance).sealDue = g.sealDue := rfl
@[simp] theorem Group.advance_ops (g : Group) : (g.advance).ops = g.ops := rfl
@[simp] theorem Group.advance_arrivals (g : Group) : (g.advance).arrivals = g.arrivals := rfl
@[simp] theorem Group.advance_arrNum (g : Group) : (g.advance).arrNum = g.arrNum := rfl
@[simp] theorem Group.advance_cohNum (g : Group) : (g.advance).cohNum = g.cohNum := rfl
@[simp] theorem Group.advance_atomSeq (g : Group) : (g.advance).atomSeq = g.atomSeq := rfl
@[simp] theorem Group.advance_efull (g : Group) : (g.advance).efull = g.efull := rfl
@[simp] theorem Group.advance_courses (g : Group) : (g.advance).courses = g.courses := rfl
@[simp] theorem Group.advance_parkedWhole (g : Group) : (g.advance).parkedWhole = g.parkedWhole := rfl
@[simp] theorem Group.advance_copying (g : Group) : (g.advance).copying = g.copying := rfl
@[simp] theorem Group.advance_place (g : Group) : (g.advance).place = g.place := rfl
@[simp] theorem Group.advance_inActive (g : Group) : (g.advance).inActive = g.inActive := rfl
@[simp] theorem Group.advance_slot (g : Group) : (g.advance).slot = g.slot := rfl
@[simp] theorem Group.advance_passCount (g : Group) : (g.advance).passCount = g.passCount := rfl
@[simp] theorem Group.advance_since (g : Group) : (g.advance).since = g.since := rfl
@[simp] theorem Group.advance_promoted (g : Group) : (g.advance).promoted = g.promoted := rfl
@[simp] theorem Group.advance_notBefore (g : Group) : (g.advance).notBefore = g.notBefore := rfl
@[simp] theorem Group.advance_grans (g : Group) : (g.advance).grans = g.grans := rfl
@[simp] theorem Group.advance_fetchPark (g : Group) : (g.advance).fetchPark = g.fetchPark := rfl
@[simp] theorem Group.advance_commitTo (g : Group) : (g.advance).commitTo = g.commitTo := rfl
@[simp] theorem Group.advance_seen (g : Group) : (g.advance).seen = g.seen := rfl
@[simp] theorem Group.advance_ended (g : Group) : (g.advance).ended = g.ended := rfl
@[simp] theorem Group.advance_latch (g : Group) : (g.advance).latch = g.latch := rfl

/-! ## Group.retire -/

@[simp] theorem Group.retire_block (g : Group) : (g.retire).block = g.block := rfl
@[simp] theorem Group.retire_idx (g : Group) : (g.retire).idx = g.idx := rfl
@[simp] theorem Group.retire_lanes (g : Group) : (g.retire).lanes = g.lanes := rfl
@[simp] theorem Group.retire_v (g : Group) : (g.retire).v = g.v := rfl
@[simp] theorem Group.retire_q (g : Group) : (g.retire).q = g.q := rfl
@[simp] theorem Group.retire_s (g : Group) : (g.retire).s = g.s := rfl
@[simp] theorem Group.retire_pc (g : Group) : (g.retire).pc = g.pc := rfl
@[simp] theorem Group.retire_alloc (g : Group) : (g.retire).alloc = g.alloc := rfl
@[simp] theorem Group.retire_sdov (g : Group) : (g.retire).sdov = g.sdov := rfl
@[simp] theorem Group.retire_sdz (g : Group) : (g.retire).sdz = g.sdz := rfl
@[simp] theorem Group.retire_strict (g : Group) : (g.retire).strict = g.strict := rfl
@[simp] theorem Group.retire_split (g : Group) : (g.retire).split = g.split := rfl
@[simp] theorem Group.retire_grid (g : Group) : (g.retire).grid = g.grid := rfl
@[simp] theorem Group.retire_mtx (g : Group) : (g.retire).mtx = g.mtx := rfl
@[simp] theorem Group.retire_intrap (g : Group) : (g.retire).intrap = g.intrap := rfl
@[simp] theorem Group.retire_trapkind (g : Group) : (g.retire).trapkind = g.trapkind := rfl
@[simp] theorem Group.retire_trappc (g : Group) : (g.retire).trappc = g.trappc := rfl
@[simp] theorem Group.retire_trapinfo (g : Group) : (g.retire).trapinfo = g.trapinfo := rfl
@[simp] theorem Group.retire_reccnt (g : Group) : (g.retire).reccnt = g.reccnt := rfl
@[simp] theorem Group.retire_fpxmask (g : Group) : (g.retire).fpxmask = g.fpxmask := rfl
@[simp] theorem Group.retire_tensor (g : Group) : (g.retire).tensor = g.tensor := rfl
@[simp] theorem Group.retire_cls (g : Group) : (g.retire).cls = g.cls := rfl
@[simp] theorem Group.retire_age (g : Group) : (g.retire).age = g.age := rfl
@[simp] theorem Group.retire_bound (g : Group) : (g.retire).bound = g.bound := rfl
@[simp] theorem Group.retire_wait (g : Group) : (g.retire).wait = g.wait := rfl
@[simp] theorem Group.retire_sealDue (g : Group) : (g.retire).sealDue = g.sealDue := rfl
@[simp] theorem Group.retire_ops (g : Group) : (g.retire).ops = retireOps g.ops [] := rfl
@[simp] theorem Group.retire_arrivals (g : Group) : (g.retire).arrivals = g.arrivals := rfl
@[simp] theorem Group.retire_arrNum (g : Group) : (g.retire).arrNum = g.arrNum := rfl
@[simp] theorem Group.retire_cohNum (g : Group) : (g.retire).cohNum = g.cohNum := rfl
@[simp] theorem Group.retire_atomSeq (g : Group) : (g.retire).atomSeq = g.atomSeq := rfl
@[simp] theorem Group.retire_efull (g : Group) : (g.retire).efull = g.efull := rfl
@[simp] theorem Group.retire_courses (g : Group) : (g.retire).courses = g.courses := rfl
@[simp] theorem Group.retire_parkedWhole (g : Group) : (g.retire).parkedWhole = g.parkedWhole := rfl
@[simp] theorem Group.retire_copying (g : Group) : (g.retire).copying = g.copying := rfl
@[simp] theorem Group.retire_place (g : Group) : (g.retire).place = g.place := rfl
@[simp] theorem Group.retire_inActive (g : Group) : (g.retire).inActive = g.inActive := rfl
@[simp] theorem Group.retire_slot (g : Group) : (g.retire).slot = g.slot := rfl
@[simp] theorem Group.retire_passCount (g : Group) : (g.retire).passCount = g.passCount := rfl
@[simp] theorem Group.retire_since (g : Group) : (g.retire).since = g.since := rfl
@[simp] theorem Group.retire_promoted (g : Group) : (g.retire).promoted = g.promoted := rfl
@[simp] theorem Group.retire_notBefore (g : Group) : (g.retire).notBefore = g.notBefore := rfl
@[simp] theorem Group.retire_grans (g : Group) : (g.retire).grans = g.grans := rfl
@[simp] theorem Group.retire_fetchPark (g : Group) : (g.retire).fetchPark = g.fetchPark := rfl
@[simp] theorem Group.retire_commitTo (g : Group) : (g.retire).commitTo = g.commitTo := rfl
@[simp] theorem Group.retire_seen (g : Group) : (g.retire).seen = g.seen := rfl
@[simp] theorem Group.retire_ended (g : Group) : (g.retire).ended = g.ended := rfl
@[simp] theorem Group.retire_latch (g : Group) : (g.retire).latch = g.latch := rfl

/-! ## Group.adjOp -/

@[simp] theorem Group.adjOp_block (g : Group) (id : Nat) (f : Op → Op) : (g.adjOp id f).block = g.block := rfl
@[simp] theorem Group.adjOp_idx (g : Group) (id : Nat) (f : Op → Op) : (g.adjOp id f).idx = g.idx := rfl
@[simp] theorem Group.adjOp_lanes (g : Group) (id : Nat) (f : Op → Op) : (g.adjOp id f).lanes = g.lanes := rfl
@[simp] theorem Group.adjOp_v (g : Group) (id : Nat) (f : Op → Op) : (g.adjOp id f).v = g.v := rfl
@[simp] theorem Group.adjOp_q (g : Group) (id : Nat) (f : Op → Op) : (g.adjOp id f).q = g.q := rfl
@[simp] theorem Group.adjOp_s (g : Group) (id : Nat) (f : Op → Op) : (g.adjOp id f).s = g.s := rfl
@[simp] theorem Group.adjOp_pc (g : Group) (id : Nat) (f : Op → Op) : (g.adjOp id f).pc = g.pc := rfl
@[simp] theorem Group.adjOp_alloc (g : Group) (id : Nat) (f : Op → Op) : (g.adjOp id f).alloc = g.alloc := rfl
@[simp] theorem Group.adjOp_sdov (g : Group) (id : Nat) (f : Op → Op) : (g.adjOp id f).sdov = g.sdov := rfl
@[simp] theorem Group.adjOp_sdz (g : Group) (id : Nat) (f : Op → Op) : (g.adjOp id f).sdz = g.sdz := rfl
@[simp] theorem Group.adjOp_strict (g : Group) (id : Nat) (f : Op → Op) : (g.adjOp id f).strict = g.strict := rfl
@[simp] theorem Group.adjOp_split (g : Group) (id : Nat) (f : Op → Op) : (g.adjOp id f).split = g.split := rfl
@[simp] theorem Group.adjOp_grid (g : Group) (id : Nat) (f : Op → Op) : (g.adjOp id f).grid = g.grid := rfl
@[simp] theorem Group.adjOp_mtx (g : Group) (id : Nat) (f : Op → Op) : (g.adjOp id f).mtx = g.mtx := rfl
@[simp] theorem Group.adjOp_intrap (g : Group) (id : Nat) (f : Op → Op) : (g.adjOp id f).intrap = g.intrap := rfl
@[simp] theorem Group.adjOp_trapkind (g : Group) (id : Nat) (f : Op → Op) : (g.adjOp id f).trapkind = g.trapkind := rfl
@[simp] theorem Group.adjOp_trappc (g : Group) (id : Nat) (f : Op → Op) : (g.adjOp id f).trappc = g.trappc := rfl
@[simp] theorem Group.adjOp_trapinfo (g : Group) (id : Nat) (f : Op → Op) : (g.adjOp id f).trapinfo = g.trapinfo := rfl
@[simp] theorem Group.adjOp_reccnt (g : Group) (id : Nat) (f : Op → Op) : (g.adjOp id f).reccnt = g.reccnt := rfl
@[simp] theorem Group.adjOp_fpxmask (g : Group) (id : Nat) (f : Op → Op) : (g.adjOp id f).fpxmask = g.fpxmask := rfl
@[simp] theorem Group.adjOp_tensor (g : Group) (id : Nat) (f : Op → Op) : (g.adjOp id f).tensor = g.tensor := rfl
@[simp] theorem Group.adjOp_cls (g : Group) (id : Nat) (f : Op → Op) : (g.adjOp id f).cls = g.cls := rfl
@[simp] theorem Group.adjOp_age (g : Group) (id : Nat) (f : Op → Op) : (g.adjOp id f).age = g.age := rfl
@[simp] theorem Group.adjOp_bound (g : Group) (id : Nat) (f : Op → Op) : (g.adjOp id f).bound = g.bound := rfl
@[simp] theorem Group.adjOp_wait (g : Group) (id : Nat) (f : Op → Op) : (g.adjOp id f).wait = g.wait := rfl
@[simp] theorem Group.adjOp_sealDue (g : Group) (id : Nat) (f : Op → Op) : (g.adjOp id f).sealDue = g.sealDue := rfl
@[simp] theorem Group.adjOp_ops (g : Group) (id : Nat) (f : Op → Op) : (g.adjOp id f).ops = g.ops.map (fun o => if o.id = id then f o else o) := rfl
@[simp] theorem Group.adjOp_arrivals (g : Group) (id : Nat) (f : Op → Op) : (g.adjOp id f).arrivals = g.arrivals := rfl
@[simp] theorem Group.adjOp_arrNum (g : Group) (id : Nat) (f : Op → Op) : (g.adjOp id f).arrNum = g.arrNum := rfl
@[simp] theorem Group.adjOp_cohNum (g : Group) (id : Nat) (f : Op → Op) : (g.adjOp id f).cohNum = g.cohNum := rfl
@[simp] theorem Group.adjOp_atomSeq (g : Group) (id : Nat) (f : Op → Op) : (g.adjOp id f).atomSeq = g.atomSeq := rfl
@[simp] theorem Group.adjOp_efull (g : Group) (id : Nat) (f : Op → Op) : (g.adjOp id f).efull = g.efull := rfl
@[simp] theorem Group.adjOp_courses (g : Group) (id : Nat) (f : Op → Op) : (g.adjOp id f).courses = g.courses := rfl
@[simp] theorem Group.adjOp_parkedWhole (g : Group) (id : Nat) (f : Op → Op) : (g.adjOp id f).parkedWhole = g.parkedWhole := rfl
@[simp] theorem Group.adjOp_copying (g : Group) (id : Nat) (f : Op → Op) : (g.adjOp id f).copying = g.copying := rfl
@[simp] theorem Group.adjOp_place (g : Group) (id : Nat) (f : Op → Op) : (g.adjOp id f).place = g.place := rfl
@[simp] theorem Group.adjOp_inActive (g : Group) (id : Nat) (f : Op → Op) : (g.adjOp id f).inActive = g.inActive := rfl
@[simp] theorem Group.adjOp_slot (g : Group) (id : Nat) (f : Op → Op) : (g.adjOp id f).slot = g.slot := rfl
@[simp] theorem Group.adjOp_passCount (g : Group) (id : Nat) (f : Op → Op) : (g.adjOp id f).passCount = g.passCount := rfl
@[simp] theorem Group.adjOp_since (g : Group) (id : Nat) (f : Op → Op) : (g.adjOp id f).since = g.since := rfl
@[simp] theorem Group.adjOp_promoted (g : Group) (id : Nat) (f : Op → Op) : (g.adjOp id f).promoted = g.promoted := rfl
@[simp] theorem Group.adjOp_notBefore (g : Group) (id : Nat) (f : Op → Op) : (g.adjOp id f).notBefore = g.notBefore := rfl
@[simp] theorem Group.adjOp_grans (g : Group) (id : Nat) (f : Op → Op) : (g.adjOp id f).grans = g.grans := rfl
@[simp] theorem Group.adjOp_fetchPark (g : Group) (id : Nat) (f : Op → Op) : (g.adjOp id f).fetchPark = g.fetchPark := rfl
@[simp] theorem Group.adjOp_commitTo (g : Group) (id : Nat) (f : Op → Op) : (g.adjOp id f).commitTo = g.commitTo := rfl
@[simp] theorem Group.adjOp_seen (g : Group) (id : Nat) (f : Op → Op) : (g.adjOp id f).seen = g.seen := rfl
@[simp] theorem Group.adjOp_ended (g : Group) (id : Nat) (f : Op → Op) : (g.adjOp id f).ended = g.ended := rfl
@[simp] theorem Group.adjOp_latch (g : Group) (id : Nat) (f : Op → Op) : (g.adjOp id f).latch = g.latch := rfl

/-! ## Group.adjLane -/

@[simp] theorem Group.adjLane_block (g : Group) (j : Nat) (f : Lane → Lane) : (g.adjLane j f).block = g.block := rfl
@[simp] theorem Group.adjLane_idx (g : Group) (j : Nat) (f : Lane → Lane) : (g.adjLane j f).idx = g.idx := rfl
@[simp] theorem Group.adjLane_lanes (g : Group) (j : Nat) (f : Lane → Lane) : (g.adjLane j f).lanes = AMap.adj j f g.lanes := rfl
@[simp] theorem Group.adjLane_v (g : Group) (j : Nat) (f : Lane → Lane) : (g.adjLane j f).v = g.v := rfl
@[simp] theorem Group.adjLane_q (g : Group) (j : Nat) (f : Lane → Lane) : (g.adjLane j f).q = g.q := rfl
@[simp] theorem Group.adjLane_s (g : Group) (j : Nat) (f : Lane → Lane) : (g.adjLane j f).s = g.s := rfl
@[simp] theorem Group.adjLane_pc (g : Group) (j : Nat) (f : Lane → Lane) : (g.adjLane j f).pc = g.pc := rfl
@[simp] theorem Group.adjLane_alloc (g : Group) (j : Nat) (f : Lane → Lane) : (g.adjLane j f).alloc = g.alloc := rfl
@[simp] theorem Group.adjLane_sdov (g : Group) (j : Nat) (f : Lane → Lane) : (g.adjLane j f).sdov = g.sdov := rfl
@[simp] theorem Group.adjLane_sdz (g : Group) (j : Nat) (f : Lane → Lane) : (g.adjLane j f).sdz = g.sdz := rfl
@[simp] theorem Group.adjLane_strict (g : Group) (j : Nat) (f : Lane → Lane) : (g.adjLane j f).strict = g.strict := rfl
@[simp] theorem Group.adjLane_split (g : Group) (j : Nat) (f : Lane → Lane) : (g.adjLane j f).split = g.split := rfl
@[simp] theorem Group.adjLane_grid (g : Group) (j : Nat) (f : Lane → Lane) : (g.adjLane j f).grid = g.grid := rfl
@[simp] theorem Group.adjLane_mtx (g : Group) (j : Nat) (f : Lane → Lane) : (g.adjLane j f).mtx = g.mtx := rfl
@[simp] theorem Group.adjLane_intrap (g : Group) (j : Nat) (f : Lane → Lane) : (g.adjLane j f).intrap = g.intrap := rfl
@[simp] theorem Group.adjLane_trapkind (g : Group) (j : Nat) (f : Lane → Lane) : (g.adjLane j f).trapkind = g.trapkind := rfl
@[simp] theorem Group.adjLane_trappc (g : Group) (j : Nat) (f : Lane → Lane) : (g.adjLane j f).trappc = g.trappc := rfl
@[simp] theorem Group.adjLane_trapinfo (g : Group) (j : Nat) (f : Lane → Lane) : (g.adjLane j f).trapinfo = g.trapinfo := rfl
@[simp] theorem Group.adjLane_reccnt (g : Group) (j : Nat) (f : Lane → Lane) : (g.adjLane j f).reccnt = g.reccnt := rfl
@[simp] theorem Group.adjLane_fpxmask (g : Group) (j : Nat) (f : Lane → Lane) : (g.adjLane j f).fpxmask = g.fpxmask := rfl
@[simp] theorem Group.adjLane_tensor (g : Group) (j : Nat) (f : Lane → Lane) : (g.adjLane j f).tensor = g.tensor := rfl
@[simp] theorem Group.adjLane_cls (g : Group) (j : Nat) (f : Lane → Lane) : (g.adjLane j f).cls = g.cls := rfl
@[simp] theorem Group.adjLane_age (g : Group) (j : Nat) (f : Lane → Lane) : (g.adjLane j f).age = g.age := rfl
@[simp] theorem Group.adjLane_bound (g : Group) (j : Nat) (f : Lane → Lane) : (g.adjLane j f).bound = g.bound := rfl
@[simp] theorem Group.adjLane_wait (g : Group) (j : Nat) (f : Lane → Lane) : (g.adjLane j f).wait = g.wait := rfl
@[simp] theorem Group.adjLane_sealDue (g : Group) (j : Nat) (f : Lane → Lane) : (g.adjLane j f).sealDue = g.sealDue := rfl
@[simp] theorem Group.adjLane_ops (g : Group) (j : Nat) (f : Lane → Lane) : (g.adjLane j f).ops = g.ops := rfl
@[simp] theorem Group.adjLane_arrivals (g : Group) (j : Nat) (f : Lane → Lane) : (g.adjLane j f).arrivals = g.arrivals := rfl
@[simp] theorem Group.adjLane_arrNum (g : Group) (j : Nat) (f : Lane → Lane) : (g.adjLane j f).arrNum = g.arrNum := rfl
@[simp] theorem Group.adjLane_cohNum (g : Group) (j : Nat) (f : Lane → Lane) : (g.adjLane j f).cohNum = g.cohNum := rfl
@[simp] theorem Group.adjLane_atomSeq (g : Group) (j : Nat) (f : Lane → Lane) : (g.adjLane j f).atomSeq = g.atomSeq := rfl
@[simp] theorem Group.adjLane_efull (g : Group) (j : Nat) (f : Lane → Lane) : (g.adjLane j f).efull = g.efull := rfl
@[simp] theorem Group.adjLane_courses (g : Group) (j : Nat) (f : Lane → Lane) : (g.adjLane j f).courses = g.courses := rfl
@[simp] theorem Group.adjLane_parkedWhole (g : Group) (j : Nat) (f : Lane → Lane) : (g.adjLane j f).parkedWhole = g.parkedWhole := rfl
@[simp] theorem Group.adjLane_copying (g : Group) (j : Nat) (f : Lane → Lane) : (g.adjLane j f).copying = g.copying := rfl
@[simp] theorem Group.adjLane_place (g : Group) (j : Nat) (f : Lane → Lane) : (g.adjLane j f).place = g.place := rfl
@[simp] theorem Group.adjLane_inActive (g : Group) (j : Nat) (f : Lane → Lane) : (g.adjLane j f).inActive = g.inActive := rfl
@[simp] theorem Group.adjLane_slot (g : Group) (j : Nat) (f : Lane → Lane) : (g.adjLane j f).slot = g.slot := rfl
@[simp] theorem Group.adjLane_passCount (g : Group) (j : Nat) (f : Lane → Lane) : (g.adjLane j f).passCount = g.passCount := rfl
@[simp] theorem Group.adjLane_since (g : Group) (j : Nat) (f : Lane → Lane) : (g.adjLane j f).since = g.since := rfl
@[simp] theorem Group.adjLane_promoted (g : Group) (j : Nat) (f : Lane → Lane) : (g.adjLane j f).promoted = g.promoted := rfl
@[simp] theorem Group.adjLane_notBefore (g : Group) (j : Nat) (f : Lane → Lane) : (g.adjLane j f).notBefore = g.notBefore := rfl
@[simp] theorem Group.adjLane_grans (g : Group) (j : Nat) (f : Lane → Lane) : (g.adjLane j f).grans = g.grans := rfl
@[simp] theorem Group.adjLane_fetchPark (g : Group) (j : Nat) (f : Lane → Lane) : (g.adjLane j f).fetchPark = g.fetchPark := rfl
@[simp] theorem Group.adjLane_commitTo (g : Group) (j : Nat) (f : Lane → Lane) : (g.adjLane j f).commitTo = g.commitTo := rfl
@[simp] theorem Group.adjLane_seen (g : Group) (j : Nat) (f : Lane → Lane) : (g.adjLane j f).seen = g.seen := rfl
@[simp] theorem Group.adjLane_ended (g : Group) (j : Nat) (f : Lane → Lane) : (g.adjLane j f).ended = g.ended := rfl
@[simp] theorem Group.adjLane_latch (g : Group) (j : Nat) (f : Lane → Lane) : (g.adjLane j f).latch = g.latch := rfl

/-! ## Group.setS -/

@[simp] theorem Group.setS_block (g : Group) (n x : Nat) : (g.setS n x).block = g.block := rfl
@[simp] theorem Group.setS_idx (g : Group) (n x : Nat) : (g.setS n x).idx = g.idx := rfl
@[simp] theorem Group.setS_lanes (g : Group) (n x : Nat) : (g.setS n x).lanes = g.lanes := rfl
@[simp] theorem Group.setS_v (g : Group) (n x : Nat) : (g.setS n x).v = g.v := rfl
@[simp] theorem Group.setS_q (g : Group) (n x : Nat) : (g.setS n x).q = g.q := rfl
@[simp] theorem Group.setS_pc (g : Group) (n x : Nat) : (g.setS n x).pc = g.pc := rfl
@[simp] theorem Group.setS_alloc (g : Group) (n x : Nat) : (g.setS n x).alloc = g.alloc := rfl
@[simp] theorem Group.setS_sdov (g : Group) (n x : Nat) : (g.setS n x).sdov = g.sdov := rfl
@[simp] theorem Group.setS_sdz (g : Group) (n x : Nat) : (g.setS n x).sdz = g.sdz := rfl
@[simp] theorem Group.setS_strict (g : Group) (n x : Nat) : (g.setS n x).strict = g.strict := rfl
@[simp] theorem Group.setS_split (g : Group) (n x : Nat) : (g.setS n x).split = g.split := rfl
@[simp] theorem Group.setS_grid (g : Group) (n x : Nat) : (g.setS n x).grid = g.grid := rfl
@[simp] theorem Group.setS_mtx (g : Group) (n x : Nat) : (g.setS n x).mtx = g.mtx := rfl
@[simp] theorem Group.setS_intrap (g : Group) (n x : Nat) : (g.setS n x).intrap = g.intrap := rfl
@[simp] theorem Group.setS_trapkind (g : Group) (n x : Nat) : (g.setS n x).trapkind = g.trapkind := rfl
@[simp] theorem Group.setS_trappc (g : Group) (n x : Nat) : (g.setS n x).trappc = g.trappc := rfl
@[simp] theorem Group.setS_trapinfo (g : Group) (n x : Nat) : (g.setS n x).trapinfo = g.trapinfo := rfl
@[simp] theorem Group.setS_reccnt (g : Group) (n x : Nat) : (g.setS n x).reccnt = g.reccnt := rfl
@[simp] theorem Group.setS_fpxmask (g : Group) (n x : Nat) : (g.setS n x).fpxmask = g.fpxmask := rfl
@[simp] theorem Group.setS_tensor (g : Group) (n x : Nat) : (g.setS n x).tensor = g.tensor := rfl
@[simp] theorem Group.setS_cls (g : Group) (n x : Nat) : (g.setS n x).cls = g.cls := rfl
@[simp] theorem Group.setS_age (g : Group) (n x : Nat) : (g.setS n x).age = g.age := rfl
@[simp] theorem Group.setS_bound (g : Group) (n x : Nat) : (g.setS n x).bound = g.bound := rfl
@[simp] theorem Group.setS_wait (g : Group) (n x : Nat) : (g.setS n x).wait = g.wait := rfl
@[simp] theorem Group.setS_sealDue (g : Group) (n x : Nat) : (g.setS n x).sealDue = g.sealDue := rfl
@[simp] theorem Group.setS_ops (g : Group) (n x : Nat) : (g.setS n x).ops = g.ops := rfl
@[simp] theorem Group.setS_arrivals (g : Group) (n x : Nat) : (g.setS n x).arrivals = g.arrivals := rfl
@[simp] theorem Group.setS_arrNum (g : Group) (n x : Nat) : (g.setS n x).arrNum = g.arrNum := rfl
@[simp] theorem Group.setS_cohNum (g : Group) (n x : Nat) : (g.setS n x).cohNum = g.cohNum := rfl
@[simp] theorem Group.setS_atomSeq (g : Group) (n x : Nat) : (g.setS n x).atomSeq = g.atomSeq := rfl
@[simp] theorem Group.setS_efull (g : Group) (n x : Nat) : (g.setS n x).efull = g.efull := rfl
@[simp] theorem Group.setS_courses (g : Group) (n x : Nat) : (g.setS n x).courses = g.courses := rfl
@[simp] theorem Group.setS_parkedWhole (g : Group) (n x : Nat) : (g.setS n x).parkedWhole = g.parkedWhole := rfl
@[simp] theorem Group.setS_copying (g : Group) (n x : Nat) : (g.setS n x).copying = g.copying := rfl
@[simp] theorem Group.setS_place (g : Group) (n x : Nat) : (g.setS n x).place = g.place := rfl
@[simp] theorem Group.setS_inActive (g : Group) (n x : Nat) : (g.setS n x).inActive = g.inActive := rfl
@[simp] theorem Group.setS_slot (g : Group) (n x : Nat) : (g.setS n x).slot = g.slot := rfl
@[simp] theorem Group.setS_passCount (g : Group) (n x : Nat) : (g.setS n x).passCount = g.passCount := rfl
@[simp] theorem Group.setS_since (g : Group) (n x : Nat) : (g.setS n x).since = g.since := rfl
@[simp] theorem Group.setS_promoted (g : Group) (n x : Nat) : (g.setS n x).promoted = g.promoted := rfl
@[simp] theorem Group.setS_notBefore (g : Group) (n x : Nat) : (g.setS n x).notBefore = g.notBefore := rfl
@[simp] theorem Group.setS_grans (g : Group) (n x : Nat) : (g.setS n x).grans = g.grans := rfl
@[simp] theorem Group.setS_fetchPark (g : Group) (n x : Nat) : (g.setS n x).fetchPark = g.fetchPark := rfl
@[simp] theorem Group.setS_commitTo (g : Group) (n x : Nat) : (g.setS n x).commitTo = g.commitTo := rfl
@[simp] theorem Group.setS_seen (g : Group) (n x : Nat) : (g.setS n x).seen = g.seen := rfl
@[simp] theorem Group.setS_ended (g : Group) (n x : Nat) : (g.setS n x).ended = g.ended := rfl
@[simp] theorem Group.setS_latch (g : Group) (n x : Nat) : (g.setS n x).latch = g.latch := rfl

/-! ## Group.setQ -/

@[simp] theorem Group.setQ_block (g : Group) (j n : Nat) (b : Bool) : (g.setQ j n b).block = g.block := by unfold Group.setQ; split <;> rfl
@[simp] theorem Group.setQ_idx (g : Group) (j n : Nat) (b : Bool) : (g.setQ j n b).idx = g.idx := by unfold Group.setQ; split <;> rfl
@[simp] theorem Group.setQ_lanes (g : Group) (j n : Nat) (b : Bool) : (g.setQ j n b).lanes = g.lanes := by unfold Group.setQ; split <;> rfl
@[simp] theorem Group.setQ_v (g : Group) (j n : Nat) (b : Bool) : (g.setQ j n b).v = g.v := by unfold Group.setQ; split <;> rfl
@[simp] theorem Group.setQ_s (g : Group) (j n : Nat) (b : Bool) : (g.setQ j n b).s = g.s := by unfold Group.setQ; split <;> rfl
@[simp] theorem Group.setQ_pc (g : Group) (j n : Nat) (b : Bool) : (g.setQ j n b).pc = g.pc := by unfold Group.setQ; split <;> rfl
@[simp] theorem Group.setQ_alloc (g : Group) (j n : Nat) (b : Bool) : (g.setQ j n b).alloc = g.alloc := by unfold Group.setQ; split <;> rfl
@[simp] theorem Group.setQ_sdov (g : Group) (j n : Nat) (b : Bool) : (g.setQ j n b).sdov = g.sdov := by unfold Group.setQ; split <;> rfl
@[simp] theorem Group.setQ_sdz (g : Group) (j n : Nat) (b : Bool) : (g.setQ j n b).sdz = g.sdz := by unfold Group.setQ; split <;> rfl
@[simp] theorem Group.setQ_strict (g : Group) (j n : Nat) (b : Bool) : (g.setQ j n b).strict = g.strict := by unfold Group.setQ; split <;> rfl
@[simp] theorem Group.setQ_split (g : Group) (j n : Nat) (b : Bool) : (g.setQ j n b).split = g.split := by unfold Group.setQ; split <;> rfl
@[simp] theorem Group.setQ_grid (g : Group) (j n : Nat) (b : Bool) : (g.setQ j n b).grid = g.grid := by unfold Group.setQ; split <;> rfl
@[simp] theorem Group.setQ_mtx (g : Group) (j n : Nat) (b : Bool) : (g.setQ j n b).mtx = g.mtx := by unfold Group.setQ; split <;> rfl
@[simp] theorem Group.setQ_intrap (g : Group) (j n : Nat) (b : Bool) : (g.setQ j n b).intrap = g.intrap := by unfold Group.setQ; split <;> rfl
@[simp] theorem Group.setQ_trapkind (g : Group) (j n : Nat) (b : Bool) : (g.setQ j n b).trapkind = g.trapkind := by unfold Group.setQ; split <;> rfl
@[simp] theorem Group.setQ_trappc (g : Group) (j n : Nat) (b : Bool) : (g.setQ j n b).trappc = g.trappc := by unfold Group.setQ; split <;> rfl
@[simp] theorem Group.setQ_trapinfo (g : Group) (j n : Nat) (b : Bool) : (g.setQ j n b).trapinfo = g.trapinfo := by unfold Group.setQ; split <;> rfl
@[simp] theorem Group.setQ_reccnt (g : Group) (j n : Nat) (b : Bool) : (g.setQ j n b).reccnt = g.reccnt := by unfold Group.setQ; split <;> rfl
@[simp] theorem Group.setQ_fpxmask (g : Group) (j n : Nat) (b : Bool) : (g.setQ j n b).fpxmask = g.fpxmask := by unfold Group.setQ; split <;> rfl
@[simp] theorem Group.setQ_tensor (g : Group) (j n : Nat) (b : Bool) : (g.setQ j n b).tensor = g.tensor := by unfold Group.setQ; split <;> rfl
@[simp] theorem Group.setQ_cls (g : Group) (j n : Nat) (b : Bool) : (g.setQ j n b).cls = g.cls := by unfold Group.setQ; split <;> rfl
@[simp] theorem Group.setQ_age (g : Group) (j n : Nat) (b : Bool) : (g.setQ j n b).age = g.age := by unfold Group.setQ; split <;> rfl
@[simp] theorem Group.setQ_bound (g : Group) (j n : Nat) (b : Bool) : (g.setQ j n b).bound = g.bound := by unfold Group.setQ; split <;> rfl
@[simp] theorem Group.setQ_wait (g : Group) (j n : Nat) (b : Bool) : (g.setQ j n b).wait = g.wait := by unfold Group.setQ; split <;> rfl
@[simp] theorem Group.setQ_sealDue (g : Group) (j n : Nat) (b : Bool) : (g.setQ j n b).sealDue = g.sealDue := by unfold Group.setQ; split <;> rfl
@[simp] theorem Group.setQ_ops (g : Group) (j n : Nat) (b : Bool) : (g.setQ j n b).ops = g.ops := by unfold Group.setQ; split <;> rfl
@[simp] theorem Group.setQ_arrivals (g : Group) (j n : Nat) (b : Bool) : (g.setQ j n b).arrivals = g.arrivals := by unfold Group.setQ; split <;> rfl
@[simp] theorem Group.setQ_arrNum (g : Group) (j n : Nat) (b : Bool) : (g.setQ j n b).arrNum = g.arrNum := by unfold Group.setQ; split <;> rfl
@[simp] theorem Group.setQ_cohNum (g : Group) (j n : Nat) (b : Bool) : (g.setQ j n b).cohNum = g.cohNum := by unfold Group.setQ; split <;> rfl
@[simp] theorem Group.setQ_atomSeq (g : Group) (j n : Nat) (b : Bool) : (g.setQ j n b).atomSeq = g.atomSeq := by unfold Group.setQ; split <;> rfl
@[simp] theorem Group.setQ_efull (g : Group) (j n : Nat) (b : Bool) : (g.setQ j n b).efull = g.efull := by unfold Group.setQ; split <;> rfl
@[simp] theorem Group.setQ_courses (g : Group) (j n : Nat) (b : Bool) : (g.setQ j n b).courses = g.courses := by unfold Group.setQ; split <;> rfl
@[simp] theorem Group.setQ_parkedWhole (g : Group) (j n : Nat) (b : Bool) : (g.setQ j n b).parkedWhole = g.parkedWhole := by unfold Group.setQ; split <;> rfl
@[simp] theorem Group.setQ_copying (g : Group) (j n : Nat) (b : Bool) : (g.setQ j n b).copying = g.copying := by unfold Group.setQ; split <;> rfl
@[simp] theorem Group.setQ_place (g : Group) (j n : Nat) (b : Bool) : (g.setQ j n b).place = g.place := by unfold Group.setQ; split <;> rfl
@[simp] theorem Group.setQ_inActive (g : Group) (j n : Nat) (b : Bool) : (g.setQ j n b).inActive = g.inActive := by unfold Group.setQ; split <;> rfl
@[simp] theorem Group.setQ_slot (g : Group) (j n : Nat) (b : Bool) : (g.setQ j n b).slot = g.slot := by unfold Group.setQ; split <;> rfl
@[simp] theorem Group.setQ_passCount (g : Group) (j n : Nat) (b : Bool) : (g.setQ j n b).passCount = g.passCount := by unfold Group.setQ; split <;> rfl
@[simp] theorem Group.setQ_since (g : Group) (j n : Nat) (b : Bool) : (g.setQ j n b).since = g.since := by unfold Group.setQ; split <;> rfl
@[simp] theorem Group.setQ_promoted (g : Group) (j n : Nat) (b : Bool) : (g.setQ j n b).promoted = g.promoted := by unfold Group.setQ; split <;> rfl
@[simp] theorem Group.setQ_notBefore (g : Group) (j n : Nat) (b : Bool) : (g.setQ j n b).notBefore = g.notBefore := by unfold Group.setQ; split <;> rfl
@[simp] theorem Group.setQ_grans (g : Group) (j n : Nat) (b : Bool) : (g.setQ j n b).grans = g.grans := by unfold Group.setQ; split <;> rfl
@[simp] theorem Group.setQ_fetchPark (g : Group) (j n : Nat) (b : Bool) : (g.setQ j n b).fetchPark = g.fetchPark := by unfold Group.setQ; split <;> rfl
@[simp] theorem Group.setQ_commitTo (g : Group) (j n : Nat) (b : Bool) : (g.setQ j n b).commitTo = g.commitTo := by unfold Group.setQ; split <;> rfl
@[simp] theorem Group.setQ_seen (g : Group) (j n : Nat) (b : Bool) : (g.setQ j n b).seen = g.seen := by unfold Group.setQ; split <;> rfl
@[simp] theorem Group.setQ_ended (g : Group) (j n : Nat) (b : Bool) : (g.setQ j n b).ended = g.ended := by unfold Group.setQ; split <;> rfl
@[simp] theorem Group.setQ_latch (g : Group) (j n : Nat) (b : Bool) : (g.setQ j n b).latch = g.latch := by unfold Group.setQ; split <;> rfl

/-! ## Group.deliver -/

@[simp] theorem Group.deliver_block (g : Group) : g.deliver.block = g.block := rfl
@[simp] theorem Group.deliver_idx (g : Group) : g.deliver.idx = g.idx := rfl
@[simp] theorem Group.deliver_v (g : Group) : g.deliver.v = g.v := rfl
@[simp] theorem Group.deliver_q (g : Group) : g.deliver.q = g.q := rfl
@[simp] theorem Group.deliver_s (g : Group) : g.deliver.s = g.s := rfl
@[simp] theorem Group.deliver_pc (g : Group) : g.deliver.pc = g.pc := rfl
@[simp] theorem Group.deliver_alloc (g : Group) : g.deliver.alloc = g.alloc := rfl
@[simp] theorem Group.deliver_sdov (g : Group) : g.deliver.sdov = g.sdov := rfl
@[simp] theorem Group.deliver_sdz (g : Group) : g.deliver.sdz = g.sdz := rfl
@[simp] theorem Group.deliver_strict (g : Group) : g.deliver.strict = g.strict := rfl
@[simp] theorem Group.deliver_split (g : Group) : g.deliver.split = g.split := rfl
@[simp] theorem Group.deliver_grid (g : Group) : g.deliver.grid = g.grid := rfl
@[simp] theorem Group.deliver_mtx (g : Group) : g.deliver.mtx = g.mtx := rfl
@[simp] theorem Group.deliver_intrap (g : Group) : g.deliver.intrap = g.intrap := rfl
@[simp] theorem Group.deliver_trapkind (g : Group) : g.deliver.trapkind = g.trapkind := rfl
@[simp] theorem Group.deliver_trappc (g : Group) : g.deliver.trappc = g.trappc := rfl
@[simp] theorem Group.deliver_trapinfo (g : Group) : g.deliver.trapinfo = g.trapinfo := rfl
@[simp] theorem Group.deliver_reccnt (g : Group) : g.deliver.reccnt = g.reccnt := rfl
@[simp] theorem Group.deliver_fpxmask (g : Group) : g.deliver.fpxmask = g.fpxmask := rfl
@[simp] theorem Group.deliver_tensor (g : Group) : g.deliver.tensor = g.tensor := rfl
@[simp] theorem Group.deliver_cls (g : Group) : g.deliver.cls = g.cls := rfl
@[simp] theorem Group.deliver_age (g : Group) : g.deliver.age = g.age := rfl
@[simp] theorem Group.deliver_bound (g : Group) : g.deliver.bound = g.bound := rfl
@[simp] theorem Group.deliver_wait (g : Group) : g.deliver.wait = g.wait := rfl
@[simp] theorem Group.deliver_sealDue (g : Group) : g.deliver.sealDue = g.sealDue := rfl
@[simp] theorem Group.deliver_ops (g : Group) : g.deliver.ops = g.ops := rfl
@[simp] theorem Group.deliver_arrivals (g : Group) : g.deliver.arrivals = g.arrivals := rfl
@[simp] theorem Group.deliver_arrNum (g : Group) : g.deliver.arrNum = g.arrNum := rfl
@[simp] theorem Group.deliver_cohNum (g : Group) : g.deliver.cohNum = g.cohNum := rfl
@[simp] theorem Group.deliver_atomSeq (g : Group) : g.deliver.atomSeq = g.atomSeq := rfl
@[simp] theorem Group.deliver_efull (g : Group) : g.deliver.efull = g.efull := rfl
@[simp] theorem Group.deliver_courses (g : Group) : g.deliver.courses = g.courses := rfl
@[simp] theorem Group.deliver_parkedWhole (g : Group) : g.deliver.parkedWhole = g.parkedWhole := rfl
@[simp] theorem Group.deliver_copying (g : Group) : g.deliver.copying = g.copying := rfl
@[simp] theorem Group.deliver_place (g : Group) : g.deliver.place = g.place := rfl
@[simp] theorem Group.deliver_inActive (g : Group) : g.deliver.inActive = g.inActive := rfl
@[simp] theorem Group.deliver_slot (g : Group) : g.deliver.slot = g.slot := rfl
@[simp] theorem Group.deliver_passCount (g : Group) : g.deliver.passCount = g.passCount := rfl
@[simp] theorem Group.deliver_since (g : Group) : g.deliver.since = g.since := rfl
@[simp] theorem Group.deliver_promoted (g : Group) : g.deliver.promoted = g.promoted := rfl
@[simp] theorem Group.deliver_notBefore (g : Group) : g.deliver.notBefore = g.notBefore := rfl
@[simp] theorem Group.deliver_grans (g : Group) : g.deliver.grans = g.grans := rfl
@[simp] theorem Group.deliver_fetchPark (g : Group) : g.deliver.fetchPark = g.fetchPark := rfl
@[simp] theorem Group.deliver_commitTo (g : Group) : g.deliver.commitTo = g.commitTo := rfl
@[simp] theorem Group.deliver_seen (g : Group) : g.deliver.seen = g.seen := rfl
@[simp] theorem Group.deliver_ended (g : Group) : g.deliver.ended = g.ended := rfl
@[simp] theorem Group.deliver_latch (g : Group) : g.deliver.latch = g.latch := rfl

end Sys2Proof.Machine
end

