-- ==== Sys2Proof/Laws/Ops.lean ====
section
/-! SUPPORT. What each shared operation of a word can do: the wrapper's checks and traps, the effect of a word that
passes them, a transfer, a trap taken and left. -/

namespace Sys2Proof.Machine

variable {s : State} {gid : Nat} {g : Group}

/-! ## Registers of a group -/

theorem Sparse.get_setV (g : Group) (j r x i q : Nat) :
    Sparse.get 0#32 (g.setV j r x).v (256 * i + q)
      = if 256 * i + q = 256 * j + r then BitVec.ofNat 32 x else Sparse.get 0#32 g.v (256 * i + q) :=
  Sparse.get_set _ _ _ _ _

theorem Sparse.get_setS (g : Group) (n x m : Nat) :
    Sparse.get 0#64 (g.setS n x).s m
      = if m = n then BitVec.ofNat 64 (if n < 61 then x % 2 ^ 64 else x % 2 ^ 32 &&& g.rosterWord (n - 61))
        else Sparse.get 0#64 g.s m :=
  Sparse.get_set _ _ _ _ _

/-- q7 is 1 whatever is written (R57). -/
@[simp] theorem Group.getQ_seven (g : Group) (j : Nat) : g.getQ j 7 = true := rfl

@[simp] theorem Group.setQ_seven (g : Group) (j : Nat) (b : Bool) : g.setQ j 7 b = g := rfl

theorem Sparse.get_setQ (g : Group) (j n : Nat) (b : Bool) (hn : n ≠ 7) (i : Nat) :
    Sparse.get false (g.setQ j n b).q i = if i = 8 * j + n then b else Sparse.get false g.q i := by
  unfold Group.setQ
  rw [if_neg hn]
  exact Sparse.get_set _ _ _ _ _

/-! ## The issuing group -/

theorem onCur_next (hc : s.cur = some gid) (hg : AMap.find gid s.groups = some g) (f : Nat → Group → State) :
    onCur s f = .next (f gid g) := by
  simp only [onCur, hc, hg]

theorem onCur_none (hc : s.cur = none) (f : Nat → Group → State) : onCur s f = .fault .noGroup := by
  simp only [onCur, hc]

/-- The wrapper answers a next state, or the one fault of a machine with no issuing group. -/
theorem onCur_cases (s : State) (f : Nat → Group → State) :
    onCur s f = .fault .noGroup
      ∨ ∃ gid g, s.cur = some gid ∧ AMap.find gid s.groups = some g ∧ onCur s f = .next (f gid g) := by
  unfold onCur
  cases h : s.cur with
  | none => exact .inl rfl
  | some gid =>
    dsimp only
    cases k : AMap.find gid s.groups with
    | none => exact .inl rfl
    | some g => exact .inr ⟨gid, g, rfl, k, rfl⟩

/-! ## The wrapper of a word (Table 2.12) -/

/-- A word that passes its checks has its effect. -/
theorem runWord_ok {i : Instr} {sp : List (Nat × Nat)} (hc : s.cur = some gid) (hg : AMap.find gid s.groups = some g)
    (hi : i.check = none) (hs : spansOk (16 * g.alloc) sp = true) (f : Nat → Group → State) :
    runWord i sp s f = .next (f gid g) := by
  simp only [runWord, onCur_next hc hg, hi, hs, Bool.not_true, Bool.false_eq_true, if_false]

/-- A word that fails a check of its own bits takes the illegal-instruction trap with that check's reason. -/
theorem runWord_illegal {i : Instr} {sp : List (Nat × Nat)} {r : Nat} (hc : s.cur = some gid)
    (hg : AMap.find gid s.groups = some g) (hi : i.check = some r) (f : Nat → Group → State) :
    runWord i sp s f = .next (s.enterTrap gid g 0x01 (r + (if 0x09 ≤ r then g.halfBit else 0)) g.pc) := by
  simp only [runWord, onCur_next hc hg, hi]

/-- A word that names a register beyond the allocation takes trap 0x09 (check 16). -/
theorem runWord_range {i : Instr} {sp : List (Nat × Nat)} (hc : s.cur = some gid) (hg : AMap.find gid s.groups = some g)
    (hi : i.check = none) (hs : spansOk (16 * g.alloc) sp = false) (f : Nat → Group → State) :
    runWord i sp s f = .next (s.enterTrap gid g 0x09 0x21 g.pc) := by
  simp only [runWord, onCur_next hc hg, hi, hs, Bool.not_false, if_true]

theorem State.count_nil (s : State) (g : Group) : s.count g [] = s := rfl

/-- A word that touches only its group: the group it leaves, eight bytes on. -/
theorem runLocal_ok {i : Instr} {sp : List (Nat × Nat)} {f : Ctx → Group → Eff} {g' : Group} {ks : List Nat}
    (hc : s.cur = some gid) (hg : AMap.find gid s.groups = some g) (hi : i.check = none)
    (hs : spansOk (16 * g.alloc) sp = true) (hf : f (s.ctx g) g = .ok g' ks) :
    runLocal i sp s f = .next ((s.setGroup gid g'.advance).count g ks) := by
  rw [runLocal, runWord_ok hc hg hi hs]
  simp only [State.apply, hf]

theorem runLocal_trap {i : Instr} {sp : List (Nat × Nat)} {f : Ctx → Group → Eff} {k info : Nat}
    (hc : s.cur = some gid) (hg : AMap.find gid s.groups = some g) (hi : i.check = none)
    (hs : spansOk (16 * g.alloc) sp = true) (hf : f (s.ctx g) g = .trap k info) :
    runLocal i sp s f = .next (s.enterTrap gid g k info g.pc) := by
  rw [runLocal, runWord_ok hc hg hi hs]
  simp only [State.apply, hf]

/-- A half: the group it leaves, the PC where it was. -/
theorem runHalf_ok {i : Instr} {sp : List (Nat × Nat)} {f : Ctx → Group → Eff} {g' : Group} {ks : List Nat}
    (hc : s.cur = some gid) (hg : AMap.find gid s.groups = some g) (hi : i.check = none)
    (hs : spansOk (16 * g.alloc) sp = true) (hf : f (s.ctx g) g = .ok g' ks) :
    runHalf i sp s f = .next ((s.setGroup gid g').count g ks) := by
  rw [runHalf, runWord_ok hc hg hi hs]
  simp only [hf]

/-! ## Traps (R178–R181) -/

/-- With a handler, outside one: the kind, the detail and the offset are saved, and the PC goes to the handler. -/
theorem State.enterTrap_handler {k info off h : Nat} (hh : s.handler g = some h) (hi : g.intrap = false) :
    s.enterTrap gid g k info off
      = s.setGroup gid { g with trapkind := BitVec.ofNat 8 k, trapinfo := BitVec.ofNat 64 info, latch := none,
                                trappc := BitVec.ofNat 64 off, intrap := true, pc := h } := by
  simp only [State.enterTrap, hh, hi, Bool.false_eq_true, if_false]

/-- With no handler the group ends, INTRAP 1. -/
theorem State.enterTrap_none {k info off : Nat} (hh : s.handler g = none) :
    s.enterTrap gid g k info off
      = (s.setGroup gid { g with trapkind := BitVec.ofNat 8 k, trapinfo := BitVec.ofNat 64 info, latch := none,
                                 intrap := true }).beginEnd gid := by
  simp only [State.enterTrap, hh]

/-- Inside the handler the group ends. -/
theorem State.enterTrap_nested {k info off h : Nat} (hh : s.handler g = some h) (hi : g.intrap = true) :
    s.enterTrap gid g k info off
      = (s.setGroup gid { g with trapkind := BitVec.ofNat 8 k, trapinfo := BitVec.ofNat 64 info,
                                 latch := none }).beginEnd gid := by
  simp only [State.enterTrap, hh, hi, if_true]

/-- The return: the PC takes TRAPPC. -/
theorem State.leaveTrap_ok (hi : g.intrap = true) (ha : g.trappc.toNat % 8 = 0) (hb : g.trappc.toNat < s.textSize g) :
    s.leaveTrap gid g = s.setGroup gid { g with pc := g.trappc.toNat, intrap := false } := by
  simp only [State.leaveTrap, hi, Bool.not_true, Bool.false_eq_true, if_false]
  rw [if_neg (by simpa using ha), if_neg (by omega)]

/-- A transfer to an offset inside .text. -/
theorem State.transfer_ok {t : Int} {al : Bool} (ha : al = true → t % 8 = 0) (h0 : 0 ≤ t) (h1 : t < s.textSize g) :
    s.transfer gid g t al = s.setGroup gid { g with pc := t.toNat, notBefore := s.afterTransfer g } := by
  unfold State.transfer
  rw [if_neg, if_neg]
  · simp only [Bool.or_eq_true, decide_eq_true_eq]
    omega
  · cases al
    · simp
    · simp [ha rfl]

/-- A transfer outside .text traps. -/
theorem State.transfer_outside {t : Int} (h : t < 0 ∨ (s.textSize g : Int) ≤ t) :
    s.transfer gid g t false = s.enterTrap gid g 0x08 0x35 g.pc := by
  unfold State.transfer
  rw [if_neg (by simp), if_pos (by simpa using h)]

/-- A transfer to an offset that is no multiple of 8 traps. -/
theorem State.transfer_misaligned {t : Int} (h : t % 8 ≠ 0) :
    s.transfer gid g t true = s.enterTrap gid g 0x08 0x34 g.pc := by
  unfold State.transfer
  rw [if_pos (by simpa using h)]

/-! ## Commits and the end of a group (R176, R322) -/

theorem State.injectAt_groups (s : State) (p st c n : Nat) :
    (s.injectAt p st c n).2.groups = s.groups ∧ (s.injectAt p st c n).2.mem = s.mem := by
  unfold State.injectAt
  dsimp only
  refine ⟨?_, ?_⟩ <;> (repeat' split) <;> rfl

theorem State.enqueue_groups (s : State) (rid : Nat) (r : Req) :
    (s.enqueue rid r).groups = s.groups ∧ (s.enqueue rid r).mem = s.mem := by
  unfold State.enqueue
  dsimp only
  split <;> exact ⟨rfl, rfl⟩

/-- A request sent changes no group and no byte of stack memory. -/
theorem State.send_groups (s : State) (r : Req) : (s.send r).groups = s.groups ∧ (s.send r).mem = s.mem := by
  unfold State.send
  split
  · rename_i n _
    have h := s.injectAt_groups r.part n (s.classFor r) (flitCount r.ask.dataBytes)
    have k := State.enqueue_groups
    exact ⟨(k _ _ _).1.trans h.1, (k _ _ _).2.trans h.2⟩
  · exact State.enqueue_groups _ _ _

theorem State.commitEntry_groups (bid : Nat) (b : Block) (s : State) (e : BufEntry) :
    (s.commitEntry bid b e).groups = s.groups ∧ (s.commitEntry bid b e).mem = s.mem := by
  unfold State.commitEntry
  cases e with
  | store => exact State.send_groups _ _
  | send =>
    dsimp only
    split <;> exact ⟨rfl, rfl⟩

theorem State.foldl_commitEntry_groups (bid : Nat) (b : Block) (l : List BufEntry) (s : State) :
    (l.foldl (State.commitEntry bid b) s).groups = s.groups ∧ (l.foldl (State.commitEntry bid b) s).mem = s.mem := by
  induction l generalizing s with
  | nil => exact ⟨rfl, rfl⟩
  | cons e l ih =>
    rw [List.foldl_cons]
    exact ⟨(ih _).1.trans (s.commitEntry_groups bid b e).1, (ih _).2.trans (s.commitEntry_groups bid b e).2⟩

/-- A commit changes no group and no byte of stack memory. -/
theorem State.commit_groups (s : State) (bid : Nat) : (s.commit bid).groups = s.groups ∧ (s.commit bid).mem = s.mem := by
  unfold State.commit
  split
  · exact ⟨rfl, rfl⟩
  · exact State.foldl_commitEntry_groups _ _ _ _

/-- What END leaves of the group: its held flags delivered, ending. -/
theorem State.beginEnd_eq (s : State) (gid : Nat) (g : Group) :
    (s.setGroup gid g).beginEnd gid = ((s.setGroup gid g).setGroup gid { g.deliver with wait := .ending, commitTo := s.nextId }).commit g.block := by
  simp only [State.beginEnd, State.setGroup, AMap.find_put, if_true]

/-! ## Every word answers a next state once a group issues -/

theorem runWord_next {i : Instr} {sp : List (Nat × Nat)} (hc : s.cur = some gid) (hg : AMap.find gid s.groups = some g)
    (f : Nat → Group → State) : ∃ t, runWord i sp s f = .next t := by
  rw [runWord, onCur_next hc hg]
  exact ⟨_, rfl⟩

theorem runLocal_next {i : Instr} {sp : List (Nat × Nat)} (hc : s.cur = some gid) (hg : AMap.find gid s.groups = some g)
    (f : Ctx → Group → Eff) : ∃ t, runLocal i sp s f = .next t := runWord_next hc hg _

theorem runHalf_next {i : Instr} {sp : List (Nat × Nat)} (hc : s.cur = some gid) (hg : AMap.find gid s.groups = some g)
    (f : Ctx → Group → Eff) : ∃ t, runHalf i sp s f = .next t := runWord_next hc hg _

end Sys2Proof.Machine
end

