-- ==== Sys2Proof/Laws/Lanes.lean ====
section
/-! SUPPORT. What the folds over lanes leave: one write per lane that takes part, its status bits, its flags, its
predicate. -/

namespace Sys2Proof.Machine

/-! ## One lane -/

@[simp] theorem Group.vreg_setV (g : Group) (j d x i r : Nat) (hd : d < 256) (hr : r < 256) :
    (g.setV j d x).vreg i r = if i = j ∧ r = d then BitVec.ofNat 32 x else g.vreg i r := by
  unfold Group.vreg
  rw [Sparse.get_setV]
  by_cases h : i = j ∧ r = d
  · rw [if_pos h, if_pos (by rw [h.1, h.2])]
  · rw [if_neg h, if_neg (by omega)]

theorem Group.setStat_eq (g : Group) (j : Nat) (m : BitVec 32) :
    g.setStat j m = { g with lanes := (g.setStat j m).lanes } := by
  unfold Group.setStat
  split <;> rfl

@[simp] theorem Group.vreg_setStat (g : Group) (j : Nat) (m : BitVec 32) (i r : Nat) :
    (g.setStat j m).vreg i r = g.vreg i r := by
  unfold Group.setStat
  split <;> rfl

theorem Group.find_setStat (g : Group) (j : Nat) (m : BitVec 32) (i : Nat) :
    AMap.find i (g.setStat j m).lanes
      = (AMap.find i g.lanes).map (fun l => if i = j then { l with lstat := l.lstat ||| m } else l) := by
  unfold Group.setStat
  split
  · rename_i h
    subst h
    cases AMap.find i g.lanes <;> simp
  · simp only [Group.adjLane, AMap.find_adj]
    split
    · rename_i h; subst h; rfl
    · cases AMap.find i g.lanes <;> simp

theorem Group.raise_eq (g : Group) (j : Nat) (f : FFlags) : g.raise j f = { g with lanes := (g.raise j f).lanes } := by
  unfold Group.raise
  split <;> rfl

@[simp] theorem Group.vreg_raise (g : Group) (j : Nat) (f : FFlags) (i r : Nat) : (g.raise j f).vreg i r = g.vreg i r := by
  unfold Group.raise
  split <;> rfl

theorem Group.find_raise (g : Group) (j : Nat) (f : FFlags) (i : Nat) :
    AMap.find i (g.raise j f).lanes = (AMap.find i g.lanes).map (fun l =>
      if i = j ∧ g.strict = true then { l with heldF := l.heldF ||| (f &&& g.fpxmask) } else l) := by
  unfold Group.raise
  split
  · rename_i h
    simp only [Bool.and_eq_true] at h
    simp only [Group.adjLane, AMap.find_adj]
    split
    · rename_i e; subst e; simp [h.1]
    · cases AMap.find i g.lanes <;> simp_all
  · rename_i h
    by_cases e : i = j ∧ g.strict = true
    · have z : f &&& g.fpxmask = 0#5 := by simpa [e.2] using h
      rw [z]
      cases AMap.find i g.lanes <;> simp
    · cases AMap.find i g.lanes <;> simp [e]

/-! ## Folds -/

/-- What a fold of vector writes and status bits leaves. -/
theorem fold_stat (d : Nat) (hd : d < 256) (val : Nat → Nat) (st : Nat → BitVec 32) (ls : List Nat) (g : Group) :
    let h := ls.foldl (fun acc j => (acc.setV j d (val j)).setStat j (st j)) g
    h = { g with v := h.v, lanes := h.lanes } ∧ WritesV g h ls d (fun j => BitVec.ofNat 32 (val j)) ∧ SetsStat g h ls st := by
  induction ls generalizing g with
  | nil =>
    refine ⟨rfl, fun j r _ => by simp, fun j => ?_⟩
    simp
  | cons a ls ih =>
    obtain ⟨h1, h2, h3⟩ := ih ((g.setV a d (val a)).setStat a (st a))
    dsimp only [List.foldl_cons] at h1 h2 h3 ⊢
    generalize ls.foldl (fun acc j => (acc.setV j d (val j)).setStat j (st j)) ((g.setV a d (val a)).setStat a (st a)) = k
      at h1 h2 h3 ⊢
    refine ⟨?_, ?_, ?_⟩
    · rw [h1, Group.setStat_eq]; rfl
    · intro j r hr
      rw [h2 j r hr, Group.vreg_setStat, Group.vreg_setV _ _ _ _ _ _ hd hr]
      by_cases hj : j = a
      · subst hj
        by_cases hrd : r = d <;> simp [hrd]
      · simp [hj]
    · intro j
      rw [h3 j, Group.find_setStat, Group.setV_lanes]
      cases AMap.find j g.lanes with
      | none => rfl
      | some l =>
        simp only [Option.map_some, List.mem_cons]
        by_cases hj : j = a
        · subst hj
          by_cases hm : j ∈ ls <;> simp [hm, BitVec.or_assoc]
        · by_cases hm : j ∈ ls <;> simp [hm, hj]

/-- What a fold of vector writes leaves. -/
theorem fold_setV (d : Nat) (hd : d < 256) (val : Nat → Nat) (ls : List Nat) (g : Group) :
    let h := ls.foldl (fun acc j => acc.setV j d (val j)) g
    h = { g with v := h.v } ∧ WritesV g h ls d (fun j => BitVec.ofNat 32 (val j)) := by
  induction ls generalizing g with
  | nil => exact ⟨rfl, fun j r _ => by simp⟩
  | cons a ls ih =>
    obtain ⟨h1, h2⟩ := ih (g.setV a d (val a))
    dsimp only [List.foldl_cons] at h1 h2 ⊢
    generalize ls.foldl (fun acc j => acc.setV j d (val j)) (g.setV a d (val a)) = k at h1 h2 ⊢
    refine ⟨by rw [h1]; rfl, fun j r hr => ?_⟩
    rw [h2 j r hr, Group.vreg_setV _ _ _ _ _ _ hd hr]
    by_cases hj : j = a
    · subst hj
      by_cases hrd : r = d <;> simp [hrd]
    · simp [hj]

/-- What a fold of predicate writes leaves. -/
theorem fold_setQ (d : Nat) (hd : d < 7) (p : Nat → Bool) (ls : List Nat) (g : Group) :
    let h := ls.foldl (fun acc j => acc.setQ j d (p j)) g
    h = { g with q := h.q } ∧ WritesQ g h ls d p := by
  induction ls generalizing g with
  | nil => exact ⟨rfl, fun j r _ => by simp⟩
  | cons a ls ih =>
    obtain ⟨h1, h2⟩ := ih (g.setQ a d (p a))
    dsimp only [List.foldl_cons] at h1 h2 ⊢
    generalize ls.foldl (fun acc j => acc.setQ j d (p j)) (g.setQ a d (p a)) = k at h1 h2 ⊢
    have e : g.setQ a d (p a) = { g with q := (g.setQ a d (p a)).q } := by
      unfold Group.setQ
      split <;> rfl
    refine ⟨by rw [h1, e], fun j n hn => ?_⟩
    rw [h2 j n hn]
    have q : (g.setQ a d (p a)).qreg j n = if j = a ∧ n = d then p a else g.qreg j n := by
      unfold Group.qreg
      rw [Sparse.get_setQ _ _ _ _ (by omega)]
      by_cases h : j = a ∧ n = d
      · rw [if_pos h, if_pos (by rw [h.1, h.2])]
      · rw [if_neg h, if_neg (by omega)]
    rw [q]
    by_cases hj : j = a
    · subst hj
      by_cases hnd : n = d <;> simp [hnd]
    · simp [hj]

/-- What a fold of vector writes and raised flags leaves. -/
theorem fold_flags (d : Nat) (hd : d < 256) (val : Nat → Nat) (fl : Nat → FFlags) (help : Nat → Bool) (ls : List Nat)
    (g : Group) :
    let h := ls.foldl (fun acc j =>
      if help j then acc.setV j d (val j) else (acc.setV j d (val j)).raise j (fl j)) g
    h = { g with v := h.v, lanes := h.lanes } ∧ WritesV g h ls d (fun j => BitVec.ofNat 32 (val j))
      ∧ ∀ j, AMap.find j h.lanes = (AMap.find j g.lanes).map (fun l =>
          if j ∈ ls ∧ help j = false ∧ g.strict = true then { l with heldF := l.heldF ||| (fl j &&& g.fpxmask) } else l) := by
  induction ls generalizing g with
  | nil =>
    refine ⟨rfl, fun j r _ => by simp, fun j => by simp⟩
  | cons a ls ih =>
    obtain ⟨h1, h2, h3⟩ := ih (if help a then g.setV a d (val a) else (g.setV a d (val a)).raise a (fl a))
    dsimp only [List.foldl_cons] at h1 h2 h3 ⊢
    generalize ls.foldl (fun acc j => if help j then acc.setV j d (val j) else (acc.setV j d (val j)).raise j (fl j))
      (if help a then g.setV a d (val a) else (g.setV a d (val a)).raise a (fl a)) = k at h1 h2 h3 ⊢
    cases ha : help a with
    | true =>
      simp only [ha, if_true] at h1 h2 h3
      refine ⟨by rw [h1]; rfl, fun j r hr => ?_, fun j => ?_⟩
      · rw [h2 j r hr, Group.vreg_setV _ _ _ _ _ _ hd hr]
        by_cases hj : j = a
        · subst hj
          by_cases hrd : r = d <;> simp [hrd]
        · simp [hj]
      · rw [h3 j, show (g.setV a d (val a)).strict = g.strict from rfl,
          show (g.setV a d (val a)).fpxmask = g.fpxmask from rfl]
        simp only [Group.setV_lanes, List.mem_cons]
        cases AMap.find j g.lanes with
        | none => rfl
        | some l =>
          simp only [Option.map_some]
          by_cases hj : j = a
          · subst hj
            rw [if_neg (by simp [ha]), if_neg (by simp [ha])]
          · simp only [hj, false_or]
    | false =>
      simp only [ha, Bool.false_eq_true, if_false] at h1 h2 h3
      refine ⟨by rw [h1, Group.raise_eq]; rfl, fun j r hr => ?_, fun j => ?_⟩
      · rw [h2 j r hr, Group.vreg_raise, Group.vreg_setV _ _ _ _ _ _ hd hr]
        by_cases hj : j = a
        · subst hj
          by_cases hrd : r = d <;> simp [hrd]
        · simp [hj]
      · have s1 : ((g.setV a d (val a)).raise a (fl a)).strict = g.strict := by rw [Group.raise_eq]; rfl
        have s2 : ((g.setV a d (val a)).raise a (fl a)).fpxmask = g.fpxmask := by rw [Group.raise_eq]; rfl
        rw [h3 j, s1, s2, Group.find_raise]
        simp only [Group.setV_lanes, Group.setV_strict, Group.setV_fpxmask, List.mem_cons]
        cases AMap.find j g.lanes with
        | none => rfl
        | some l =>
          simp only [Option.map_some]
          by_cases hj : j = a
          · subst hj
            by_cases hs : g.strict = true
            · by_cases hm : j ∈ ls <;> simp [hm, ha, hs, BitVec.or_assoc]
            · simp [hs]
          · simp [hj]

/-! ## The shared lane operations -/

theorem mem_parts_find {g : Group} {j gd : Nat} (h : j ∈ g.parts gd) : j ∈ g.lanes.map Prod.fst :=
  (List.mem_filter.1 h).1

/-- vop: D and the status bits of every lane that takes part. -/
theorem vop_ok (x : FR) (f : Nat → Nat → Nat → Nat × BitVec 32) (c : Ctx) (g : Group) (hd : regNum x.d < 256) :
    ∃ h, vop x f c g = .ok h [] ∧ h = { g with v := h.v, lanes := h.lanes }
      ∧ WritesV g h (g.parts x.g.toNat) (regNum x.d)
          (fun j => BitVec.ofNat 32 (f (g.src c j x.a) (g.src c j x.b) (g.src c j x.c)).1)
      ∧ SetsStat g h (g.parts x.g.toNat) (fun j => (f (g.src c j x.a) (g.src c j x.b) (g.src c j x.c)).2) :=
  have k := fold_stat (regNum x.d) hd (fun j => (f (g.src c j x.a) (g.src c j x.b) (g.src c j x.c)).1)
    (fun j => (f (g.src c j x.a) (g.src c j x.b) (g.src c j x.c)).2) (g.parts x.g.toNat) g
  ⟨_, rfl, k.1, k.2.1, k.2.2⟩

/-- vopI: D of every lane that takes part. -/
theorem vopI_ok (x : FI) (n : Nat) (f : Nat → Nat → Nat → Nat × BitVec 32) (c : Ctx) (g : Group) (hd : regNum x.d < 256) :
    ∃ h, vopI x n f c g = .ok h [] ∧ h = { g with v := h.v }
      ∧ WritesV g h (g.parts x.g.toNat) (regNum x.d) (fun j => BitVec.ofNat 32 (f (g.src c j x.a) n 0).1) :=
  have k := fold_setV (regNum x.d) hd (fun j => (f (g.src c j x.a) n 0).1) (g.parts x.g.toNat) g
  ⟨_, rfl, k.1, k.2⟩

/-- selOp: D takes A or B by the predicate. -/
theorem selOp_ok (x : FR) (c : Ctx) (g : Group) (hd : regNum x.d < 256) :
    ∃ h, selOp x c g = .ok h [] ∧ h = { g with v := h.v }
      ∧ WritesV g h (g.parts x.g.toNat) (regNum x.d)
          (fun j => BitVec.ofNat 32 (if g.pred j x.c then g.src c j x.a else g.src c j x.b)) :=
  have k := fold_setV (regNum x.d) hd (fun j => if g.pred j x.c then g.src c j x.a else g.src c j x.b) (g.parts x.g.toNat) g
  ⟨_, rfl, k.1, k.2⟩

/-- vcmpOp: the predicate of every lane that takes part. -/
theorem vcmpOp_ok (gd : Nat) (d a b : Operand) (p : Nat → Nat → Bool) (c : Ctx) (g : Group) (hd : regNum d < 7) :
    ∃ h, vcmpOp gd d a b p c g = .ok h [] ∧ h = { g with q := h.q }
      ∧ WritesQ g h (g.parts gd) (regNum d) (fun j => p (g.src c j a) (g.src c j b)) :=
  have k := fold_setQ (regNum d) hd (fun j => p (g.src c j a) (g.src c j b)) (g.parts gd) g
  ⟨_, rfl, k.1, k.2⟩

/-- The help bit of a lane is what its record says. -/
theorem Group.help_find {g : Group} {j : Nat} {l : Lane} (h : AMap.find j g.lanes = some l) : g.help j = l.help := by
  simp only [Group.help, h]

/-- fop: D, the held flags and the counts. -/
theorem fop_ok (x : FR) (f : Nat → Nat → Nat → LaneF) (c : Ctx) (g : Group) (hd : regNum x.d < 256) :
    let r := fun j => f (g.src c j x.a) (g.src c j x.b) (g.src c j x.c)
    ∃ h, fop x f c g = .ok h (((g.parts x.g.toNat).filter (fun j => !g.help j)).flatMap (fun j => (r j).counts))
      ∧ h = { g with v := h.v, lanes := h.lanes }
      ∧ WritesV g h (g.parts x.g.toNat) (regNum x.d) (fun j => BitVec.ofNat 32 (r j).val)
      ∧ RaisesF g h (g.parts x.g.toNat) (fun j => (r j).flags) := by
  intro r
  obtain ⟨h1, h2, h3⟩ := fold_flags (regNum x.d) hd (fun j => (r j).val) (fun j => (r j).flags) g.help (g.parts x.g.toNat) g
  refine ⟨_, ?_, h1, h2, ?_⟩
  · simp only [fop, List.foldl_map, List.flatMap_map]
    congr 1
    induction g.parts x.g.toNat with
    | nil => rfl
    | cons a l ih =>
      simp only [List.flatMap_cons, List.filter_cons, ih]
      cases g.help a <;> simp [r]
  · intro j
    rw [h3 j]
    cases hj : AMap.find j g.lanes with
    | none => rfl
    | some l => simp only [Option.map_some, Group.help_find hj]

end Sys2Proof.Machine
end

