-- ==== Sys2Proof/Laws/Memory.lean ====
section
/-! SUPPORT. Stack memory: a run of bytes written and read back, and the canonical form that every operation of a home
slice, a walk and a translation keeps. -/

namespace Sys2Proof.Machine

/-! ## Bytes -/

theorem putBytes_wf {m : Memory} (h : Memory.wf m = true) (k n x : Nat) : Memory.wf (putBytes m k n x) = true := by
  induction n generalizing m k x with
  | zero => exact h
  | succ n ih => exact ih (Sparse.set_wf _ _ h) _ _

/-- A byte after a run of bytes is written. -/
theorem get_putBytes (m : Memory) (k n x j : Nat) :
    Sparse.get 0#8 (putBytes m k n x) j
      = if k ≤ j ∧ j < k + n then BitVec.ofNat 8 (x / 256 ^ (j - k)) else Sparse.get 0#8 m j := by
  induction n generalizing m k x with
  | zero => rw [if_neg (by omega)]; rfl
  | succ n ih =>
    rw [putBytes, ih, Sparse.get_set]
    by_cases hj : j = k
    · subst hj
      rw [if_neg (by omega), if_pos rfl, if_pos (by omega), Nat.sub_self, Nat.pow_zero, Nat.div_one]
    · by_cases hr : k ≤ j ∧ j < k + (n + 1)
      · rw [if_pos (by omega), if_pos hr]
        obtain ⟨d, hd⟩ : ∃ d, j - k = d + 1 := ⟨j - k - 1, by omega⟩
        rw [hd, show j - (k + 1) = d by omega, Nat.div_div_eq_div_mul, Nat.pow_succ, Nat.mul_comm 256]
      · rw [if_neg (by omega), if_neg hj, if_neg hr]

theorem bytesAt_putBytes_same (m : Memory) (k n x : Nat) (h : x < 256 ^ n) : bytesAt (putBytes m k n x) k n = x := by
  suffices H : ∀ (i l : Nat) (q : Memory) (y : Nat), k ≤ l → l + i ≤ k + n → y < 256 ^ i →
      (∀ j, l ≤ j → j < l + i → Sparse.get 0#8 q j = BitVec.ofNat 8 (y / 256 ^ (j - l))) → bytesAt q l i = y by
    refine H n k _ x (Nat.le_refl _) (Nat.le_refl _) h fun j h1 h2 => ?_
    rw [get_putBytes, if_pos ⟨h1, h2⟩]
  intro i
  induction i with
  | zero =>
    intro l q y _ _ hy _
    have : y = 0 := by simpa using hy
    rw [this]; rfl
  | succ i ih =>
    intro l q y h1 h2 hy hq
    rw [bytesAt, hq l (Nat.le_refl _) (by omega)]
    have hd : y / 256 < 256 ^ i := by
      rw [Nat.pow_succ] at hy
      exact Nat.div_lt_of_lt_mul (by omega)
    rw [ih (l + 1) q (y / 256) (by omega) (by omega) hd]
    · simp only [Nat.sub_self, Nat.pow_zero, Nat.div_one, BitVec.toNat_ofNat]
      omega
    · intro j h3 h4
      rw [hq j (by omega) (by omega)]
      obtain ⟨d, hd⟩ : ∃ d, j - l = d + 1 := ⟨j - l - 1, by omega⟩
      rw [hd, show j - (l + 1) = d by omega, Nat.div_div_eq_div_mul, Nat.pow_succ, Nat.mul_comm 256]

/-! ## Canonical form, operation by operation -/

variable {s : State}

/-- A fold of operations that keep the form keeps it. -/
theorem foldl_wf {α : Type} (f : State → α → State) (hf : ∀ s a, s.mem.wf = true → (f s a).mem.wf = true) (l : List α) :
    ∀ {s : State}, s.mem.wf = true → (l.foldl f s).mem.wf = true := by
  induction l with
  | nil => exact fun h => h
  | cons a l ih => exact fun h => ih (hf _ a h)

/-- The same for a fold that carries a value. -/
theorem foldl_pair_wf {α β : Type} (f : β × State → α → β × State)
    (hf : ∀ b a, b.2.mem.wf = true → (f b a).2.mem.wf = true) (l : List α) :
    ∀ {b : β × State}, b.2.mem.wf = true → (l.foldl f b).2.mem.wf = true := by
  induction l with
  | nil => exact fun h => h
  | cons a l ih => exact fun h => ih (hf _ a h)

theorem State.settleGranule_wf (pa k : Nat) (h : s.mem.wf = true) : (s.settleGranule pa k).mem.wf = true := by
  unfold State.settleGranule
  dsimp only
  split
  · exact h
  · refine foldl_wf _ (fun s a h => ?_) _ h
    split <;> exact putBytes_wf h _ _ _

theorem State.memRead_wf (pa k : Nat) (h : s.mem.wf = true) : (s.memRead pa k).2.mem.wf = true := by
  unfold State.memRead
  dsimp only
  split
  · exact h
  · split <;> exact h

theorem State.memWrite_wf (pa k m d : Nat) (h : s.mem.wf = true) : (s.memWrite pa k m d).mem.wf = true :=
  putBytes_wf (State.settleGranule_wf _ _ h) _ _ _

theorem State.enqueue_mem (s : State) (rid : Nat) (r : Req) : (s.enqueue rid r).mem = s.mem := by
  unfold State.enqueue
  split <;> rfl

theorem State.sendPlain_mem (s : State) (r : Req) : (s.sendPlain r).mem = s.mem := State.enqueue_mem _ _ _

theorem State.toStack_mem (s : State) (p sl pa c rid : Nat) (a : Ask) : (s.toStack p sl pa c rid a).mem = s.mem := by
  unfold State.toStack
  split
  · rfl
  · exact State.sendPlain_mem _ _

theorem State.cleanWord_wf (key : Nat) (h : s.mem.wf = true) : (s.cleanWord key).mem.wf = true := by
  unfold State.cleanWord
  split
  · exact h
  · dsimp only
    split
    · exact h
    · rw [State.toStack_mem]
      exact State.memWrite_wf _ _ _ _ h

theorem State.evict_wf (key : Nat) (h : s.mem.wf = true) : (s.evict key).mem.wf = true := by
  have k := State.cleanWord_wf (key / 2 * 2 + 1) (State.cleanWord_wf (key / 2 * 2) h)
  simp only [State.evict]
  split
  · split
    · exact k
    · split <;> exact k
  · split <;> exact k
  · split <;> exact k
  · exact k

theorem State.settle_wf (p ia pa : Nat) (h : s.mem.wf = true) : (s.settle p ia pa).mem.wf = true := by
  unfold State.settle
  split
  · split
    · exact h
    · exact State.evict_wf _ h
  · exact h

theorem State.allocWay_wf (v : Via) (key : Nat) (h : s.mem.wf = true) : (s.allocWay v key).2.mem.wf = true := by
  unfold State.allocWay
  dsimp only
  split
  · exact h
  · split
    · exact State.evict_wf _ h
    · exact h

theorem State.blockFor_wf (v : Via) (ia pa : Nat) (h : s.mem.wf = true) : (s.blockFor v ia pa).2.mem.wf = true := by
  unfold State.blockFor
  split
  · exact h
  · exact State.allocWay_wf _ _ (State.settle_wf _ _ _ h)

theorem State.wordAt_wf (v : Via) (ia pa m : Nat) (h : s.mem.wf = true) : (s.wordAt v ia pa m).2.mem.wf = true := by
  unfold State.wordAt
  split
  · exact State.memRead_wf _ _ (State.settle_wf _ _ _ h)
  · have k := State.blockFor_wf v ia pa h
    dsimp only
    split
    · exact k
    · exact State.memRead_wf _ _ k

theorem State.putWord_wf (v : Via) (ia pa m d : Nat) (h : s.mem.wf = true) : (s.putWord v ia pa m d).mem.wf = true := by
  unfold State.putWord
  split
  · exact State.memWrite_wf _ _ _ _ (State.settle_wf _ _ _ h)
  · exact State.blockFor_wf v ia pa h

theorem State.healSector_wf (p ia pa : Nat) (h : s.mem.wf = true) : (s.healSector p ia pa).mem.wf = true := by
  unfold State.healSector
  dsimp only
  split
  · exact State.evict_wf _ h
  · exact h

theorem State.putLine_wf (v : Via) (ia pa n d : Nat) (h : s.mem.wf = true) : (s.putLine v ia pa n d).mem.wf = true := by
  unfold State.putLine
  refine foldl_wf _ (fun s a h => ?_) _ (foldl_wf _ (fun s a h => ?_) _ h)
  · dsimp only
    split
    · exact State.healSector_wf _ _ _ h
    · exact h
  · exact State.putWord_wf _ _ _ _ _ h

theorem State.getLine_wf (v : Via) (ia pa n : Nat) (h : s.mem.wf = true) : (s.getLine v ia pa n).2.mem.wf = true := by
  exact foldl_pair_wf (β := Nat) (α := Nat × Nat)
    (fun acc e => (acc.1 + (acc.2.wordAt v e.1 (wordPa ia pa e.1) e.2).1 * 2 ^ (8 * (e.1 - ia / 16 * 16)),
      (acc.2.wordAt v e.1 (wordPa ia pa e.1) e.2).2))
    (fun b a h => State.wordAt_wf _ _ _ _ h) _ (b := (0, s)) h

theorem State.nextTag_wf (pa : Nat) (h : s.mem.wf = true) : (s.nextTag pa).2.mem.wf = true := h

theorem State.tlbFill_wf (sl : Nat) (e : TlbEntry) (h : s.mem.wf = true) : (s.tlbFill sl e).mem.wf = true := h

theorem State.tlbPull_wf (sl : Nat) (e : TlbEntry) (h : s.mem.wf = true) : (s.tlbPull sl e).mem.wf = true := by
  unfold State.tlbPull
  split <;> exact h

theorem State.tagLines_wf (r : Req) (pa : Nat) (h : s.mem.wf = true) : (s.tagLines r pa).2.mem.wf = true := by
  unfold State.tagLines
  split
  · exact h
  · exact foldl_pair_wf (β := Nat) (α := Nat × Nat × Nat) (fun acc q => acc.2.nextTag (pa + q.2.1))
      (fun _ _ h => h) _ (b := (0, s)) h

theorem State.discardAt_wf (p sl t : Nat) (h : s.mem.wf = true) : (s.discardAt p sl t).mem.wf = true := h

/-- Memory at reset is in canonical form. -/
theorem State.reset_wf : State.reset.mem.wf = true := rfl

end Sys2Proof.Machine
end

