-- ==== Sys2Proof/Laws/Words.lean ====
section
/-! SUPPORT. A word of each shape: from the value its operation computes to the statement of what the word leaves. -/

namespace Sys2Proof.Machine

theorem regNum_lt (o : Operand) : regNum o < 256 := by
  cases o <;> simp only [regNum] <;> omega

/-- A lane operand has 32 bits. -/
theorem Group.src_lt (g : Group) (c : Ctx) (j : Nat) (o : Operand) : g.src c j o < 2 ^ 32 := by
  cases o <;> simp only [Group.src]
  · exact (Sparse.get 0#32 g.rv _).isLt
  · omega
  · rename_i n
    cases g.getQ j n.toNat <;> decide
  · omega
  · exact BitVec.isLt _
  · decide

/-- A uniform operand has 64 bits. -/
theorem Group.srcU_lt (g : Group) (c : Ctx) (o : Operand) : g.srcU c o < 2 ^ 64 := by
  cases o <;> simp only [Group.srcU]
  · decide
  · exact (Sparse.get 0#64 g.rs _).isLt
  · decide
  · omega
  · exact BitVec.isLt _
  · decide

theorem Group.op32_toNat (g : Group) (c : Ctx) (j : Nat) (o : Operand) : (g.op32 c j o).toNat = g.src c j o :=
  Nat.mod_eq_of_lt (g.src_lt c j o)

theorem Group.op64_toNat (g : Group) (c : Ctx) (o : Operand) : (g.op64 c o).toNat = g.srcU c o :=
  Nat.mod_eq_of_lt (g.srcU_lt c o)

/-- A well-formed word passes the checks of its own bits. -/
theorem Instr.check_of_wf {i : Instr} (h : i.wf = true) : i.check = none := Option.isNone_iff_eq_none.1 h

variable {i : Instr} {x : FR}

/-- A lane word over vop. -/
theorem laneResult_of {f : Nat → Nat → Nat → Nat × BitVec 32} {val st : BitVec 32 → BitVec 32 → BitVec 32 → BitVec 32}
    (he : ∀ s, exec i s = runLocal i (x.spans 1 1 1) s (vop x f))
    (hv : ∀ a b c : BitVec 32, BitVec.ofNat 32 (f a.toNat b.toNat c.toNat).1 = val a b c)
    (hs : ∀ a b c : BitVec 32, (f a.toNat b.toNat c.toNat).2 = st a b c) : LaneResult i x val st := by
  intro s gid g ⟨⟨hc, hg⟩, hw, hsp⟩
  obtain ⟨h, h1, h2, h3, h4⟩ := vop_ok x f (s.ctx g) g (regNum_lt _)
  refine ⟨h.advance, ?_, ?_, ?_, ?_⟩
  · rw [Leaves, he, runLocal_ok hc hg (Instr.check_of_wf hw) hsp h1]
    rfl
  · rw [h2]
    rfl
  · simp only [← hv, Group.op32_toNat]
    exact h3
  · simp only [← hs, Group.op32_toNat]
    exact h4

/-- A half over vop that sets no status bit. -/
theorem halfWrite_of {f : Nat → Nat → Nat → Nat × BitVec 32} {val : BitVec 32 → BitVec 32 → BitVec 32 → BitVec 32}
    (he : ∀ s, exec i s = runHalf i (x.spans 1 1 1) s (vop x f))
    (hv : ∀ a b c : BitVec 32, BitVec.ofNat 32 (f a.toNat b.toNat c.toNat).1 = val a b c)
    (hs : ∀ a b c : BitVec 32, (f a.toNat b.toNat c.toNat).2 = 0#32) : HalfWrite i x val := by
  intro s gid g ⟨⟨hc, hg⟩, hw, hsp⟩
  obtain ⟨h, h1, h2, h3, h4⟩ := vop_ok x f (s.ctx g) g (regNum_lt _)
  refine ⟨h, ?_, h2, ?_, ?_⟩
  · rw [Leaves, he, runHalf_ok hc hg (Instr.check_of_wf hw) hsp h1]
    rfl
  · simp only [← hv, Group.op32_toNat]
    exact h3
  · rw [show (fun _ => 0#32) = fun j => (f (g.src (s.ctx g) j x.a) (g.src (s.ctx g) j x.b) (g.src (s.ctx g) j x.c)).2 from
      funext fun j => by rw [← g.op32_toNat, ← g.op32_toNat, ← g.op32_toNat, hs]]
    exact h4

/-- An immediate lane word over vopI. -/
theorem laneImm_of {y : FI} {n : Nat} {f : Nat → Nat → Nat → Nat × BitVec 32} {val : BitVec 32 → BitVec 32}
    (he : ∀ s, exec i s = runLocal i (fiSpans y) s (vopI y n f))
    (hv : ∀ a : BitVec 32, BitVec.ofNat 32 (f a.toNat n 0).1 = val a) : LaneImm i y val := by
  intro s gid g ⟨⟨hc, hg⟩, hw, hsp⟩
  obtain ⟨h, h1, h2, h3⟩ := vopI_ok y n f (s.ctx g) g (regNum_lt _)
  refine ⟨h.advance, ?_, ?_, ?_⟩
  · rw [Leaves, he, runLocal_ok hc hg (Instr.check_of_wf hw) hsp h1]
    rfl
  · rw [h2]
    rfl
  · simp only [← hv, Group.op32_toNat]
    exact h3

/-- A floating-point word over fop. -/
theorem floatResult_of {f : Nat → Nat → Nat → LaneF}
    (he : ∀ s, exec i s = runLocal i (x.spans 1 1 1) s (fop x f)) : FloatResult i x f := by
  intro s gid g ⟨⟨hc, hg⟩, hw, hsp⟩ r
  obtain ⟨h, h1, h2, h3, h4⟩ := fop_ok x f (s.ctx g) g (regNum_lt _)
  refine ⟨h.advance, ?_, ?_, h3, h4⟩
  · rw [he, runLocal_ok hc hg (Instr.check_of_wf hw) hsp h1]
  · rw [h2]
    rfl

theorem halfFloat_of {f : Nat → Nat → Nat → LaneF}
    (he : ∀ s, exec i s = runHalf i (x.spans 1 1 1) s (fop x f)) : HalfFloat i x f := by
  intro s gid g ⟨⟨hc, hg⟩, hw, hsp⟩ r
  obtain ⟨h, h1, h2, h3, h4⟩ := fop_ok x f (s.ctx g) g (regNum_lt _)
  refine ⟨h, ?_, h2, h3, h4⟩
  rw [he, runHalf_ok hc hg (Instr.check_of_wf hw) hsp h1]

end Sys2Proof.Machine
end

