-- ==== Sys2Proof/Tests/Slice0.lean ====
section
/-! SUPPORT. The model's own tests. Words are written out from the encoding tables of ch. 02; expected results come from
the spec's rules and examples. For every statement with hypotheses a theorem `witness_<statement>` shows a state and
operands that meet those of each clause. -/

open Sys2Proof Sys2Proof.Machine

namespace Sys2Proof.Tests

set_option Elab.async false

/-- A row of a list: the word, the instruction it stands for, and the vector registers its words name. -/
abbrev Row := Nat × Instr × List (Nat × Nat)

def row0 (i : Instr) (w : Nat) : Row := (w, i, [])
def rowR (f : FR → Instr) (x : FR) (w : Nat) : Row := (w, f x, x.spans 1 1 1)
def rowR3 (f : FR → Instr) (x : FR) (w : Nat) : Row := (w, f x, x.spans 3 1 1)
def rowX (f : FR → Instr) (x : FR) (w : Nat) : Row := (w, f x, x.spans (xputRegs x) 1 1)
def rowA (f : FR → Instr) (x : FR) (w : Nat) : Row := (w, f x, vadrSpans x)
def rowI (f : FI → Instr) (x : FI) (w : Nat) : Row := (w, f x, fiSpans x)
def rowM (n : Nat) (f : FM → Instr) (x : FM) (w : Nat) : Row := (w, f x, x.spans (szRegs x.sz.toNat) n)
def rowM1 (n : Nat) (f : FM → Instr) (x : FM) (w : Nat) : Row := (w, f x, x.spans 1 n)
def rowV (op : AOp) (x : FM) (w : Nat) : Row := (w, .vamo op x, x.spans (vamoRegs op x) 2)
def rowH (f : Half → Instr) (x : Half) (w : Nat) : Row := (w, f x, x.bin.spans 1 1 1)
def rowU (f : Half → Instr) (x : Half) (w : Nat) : Row := (w, f x, x.un.spans 1 1 1)

/-- The word decodes to the instruction, which is well formed and names registers of an allocation of 256. -/
def Row.good (r : Row) : Bool := decide (decodeTableWord 64 r.1 = some r.2.1) && r.2.1.wf && spansOk 256 r.2.2

/-- Words of CTL. -/
def ctlRows : List Row :=
  [row0 (.nop ⟨7, .v 0, .v 0, .v 0, .v 0, 0⟩) 0x0070000000000000,
   row0 (.endGroup ⟨7, .v 0, .v 0, .v 0, .v 0, 0⟩) 0x0070000000000100,
   row0 (.yield ⟨7, .v 0, .v 0, .v 0, .v 0, 0⟩) 0x0070000000000200,
   row0 (.trap ⟨7, .v 0, .s 4, .v 0, .v 0, 0⟩) 0x0070041000000300,
   row0 (.tret ⟨7, .v 0, .v 0, .v 0, .v 0, 0⟩) 0x0070000000000400,
   row0 (.srd ⟨7, .s 20, .imm 4, .v 0, .v 0, 0⟩) 0x0078A61000000500,
   row0 (.swr ⟨7, .v 0, .imm 2, .s 8, .v 0, 0⟩) 0x0070060A10000600,
   row0 (.grow ⟨7, .v 0, .s 4, .v 0, .v 0, 0⟩) 0x0070041000000700,
   row0 (.shrink ⟨7, .v 0, .imm 48, .v 0, .v 0, 0⟩) 0x007006C000000800,
   row0 (.emit ⟨3, .v 0, .imm 3, .v 8, .v 0, 0⟩) 0x0030060C10000900,
   row0 (.waitc ⟨7, .v 0, .imm 1, .s 8, .v 0, 0⟩) 0x0070060610000A00]

theorem test_decode_ctl : ctlRows.all Row.good = true := by decide +kernel

/-- Words of SALU. -/
def saluRows : List Row :=
  [row0 (.sadd ⟨7, .s 20, .s 4, .s 8, .v 0, 0⟩) 0x0178A41210000000,
   row0 (.ssub ⟨7, .s 20, .s 4, .s 8, .v 0, 0⟩) 0x0178A41210000100,
   row0 (.smul ⟨7, .s 20, .s 4, .s 8, .v 0, 0⟩) 0x0178A41210000200,
   row0 (.smulh ⟨7, .s 20, .s 4, .s 8, .v 0, 0⟩) 0x0178A41210000300,
   row0 (.sdiv ⟨7, .s 20, .s 4, .s 8, .v 0, 1⟩) 0x0178A41210000401,
   row0 (.srem ⟨7, .s 20, .s 4, .s 8, .v 0, 0⟩) 0x0178A41210000500,
   row0 (.sand ⟨7, .s 20, .s 4, .s 8, .v 0, 0⟩) 0x0178A41210000600,
   row0 (.sor ⟨7, .s 20, .s 4, .s 8, .v 0, 0⟩) 0x0178A41210000700,
   row0 (.sxor ⟨7, .s 20, .s 4, .s 8, .v 0, 0⟩) 0x0178A41210000800,
   row0 (.sandn ⟨7, .s 20, .s 4, .s 8, .v 0, 0⟩) 0x0178A41210000900,
   row0 (.sshl ⟨7, .s 20, .s 4, .s 8, .v 0, 0⟩) 0x0178A41210000A00,
   row0 (.sshr ⟨7, .s 20, .s 4, .s 8, .v 0, 0⟩) 0x0178A41210000B00,
   row0 (.ssra ⟨7, .s 20, .s 4, .s 8, .v 0, 0⟩) 0x0178A41210000C00,
   row0 (.srot ⟨7, .s 20, .s 4, .s 8, .v 0, 0⟩) 0x0178A41210000D00,
   row0 (.smin ⟨7, .s 20, .s 4, .s 8, .v 0, 0⟩) 0x0178A41210000E00,
   row0 (.smax ⟨7, .s 20, .s 4, .s 8, .v 0, 0⟩) 0x0178A41210000F00,
   row0 (.sclz ⟨7, .s 20, .s 4, .v 0, .v 0, 0⟩) 0x0178A41000001000,
   row0 (.spopc ⟨7, .s 20, .s 4, .v 0, .v 0, 0⟩) 0x0178A41000001100,
   row0 (.ssel ⟨7, .s 20, .s 4, .imm 125, .s 12, 0⟩) 0x0178A413FB0C1200,
   row0 (.scmp ⟨7, .s 20, .s 4, .sp .nact, .v 0, 9⟩) 0x0178A412D2001309,
   row0 (.sbfe ⟨7, .s 20, .s 4, .s 8, .v 0, 0⟩) 0x0178A41210001400,
   row0 (.sbfi ⟨7, .s 20, .s 4, .s 8, .s 12, 0⟩) 0x0178A412110C1500]

theorem test_decode_salu : saluRows.all Row.good = true := by decide +kernel

/-- Words of SALUI. -/
def saluiRows : List Row :=
  [row0 (.saddi ⟨7, .s 20, .s 4, 2, 0xFEDCBA⟩) 0x0278A41002FEDCBA,
   row0 (.sandi ⟨7, .s 20, .s 4, 2, 0xFEDCBA⟩) 0x0278A41006FEDCBA,
   row0 (.sori ⟨7, .s 20, .s 4, 2, 0xFEDCBA⟩) 0x0278A4100AFEDCBA,
   row0 (.sxori ⟨7, .s 20, .s 4, 2, 0xFEDCBA⟩) 0x0278A4100EFEDCBA,
   row0 (.sshli ⟨7, .s 20, .s 4, 0, 0x25⟩) 0x0278A41010000025,
   row0 (.sshri ⟨7, .s 20, .s 4, 0, 0x25⟩) 0x0278A41014000025,
   row0 (.ssrai ⟨7, .s 20, .s 4, 0, 0x25⟩) 0x0278A41018000025,
   row0 (.scmpi ⟨7, .s 20, .s 4, 0, 0x6FFFFF⟩) 0x0278A4101C6FFFFF,
   row0 (.smovi ⟨7, .s 20, .v 0, 2, 0xFEDCBA⟩) 0x0278A00022FEDCBA,
   row0 (.smovhi ⟨7, .s 20, .s 4, 0, 0xABCD⟩) 0x0278A4102400ABCD]

theorem test_decode_salui : saluiRows.all Row.good = true := by decide +kernel

/-- Words of MASK. -/
def maskRows : List Row :=
  [row0 (.msave ⟨7, .s 20, .v 0, .v 0, .v 0, 0⟩) 0x0378A00000000000,
   row0 (.mrest ⟨7, .v 0, .s 4, .v 0, .v 0, 0⟩) 0x0370041000000100,
   row0 (.mset ⟨7, .v 0, .q 4, .v 0, .v 0, 0⟩) 0x0370051000000200,
   row0 (.mand ⟨7, .v 0, .q 4, .v 0, .v 0, 0⟩) 0x0370051000000300,
   row0 (.mandn ⟨7, .v 0, .q 4, .v 0, .v 0, 0⟩) 0x0370051000000400,
   row0 (.mcnt ⟨7, .s 20, .q 4, .v 0, .v 0, 0⟩) 0x0378A51000000500,
   row0 (.mfirst ⟨7, .s 20, .q 7, .v 0, .v 0, 0⟩) 0x0378A51C00000600]

theorem test_decode_mask : maskRows.all Row.good = true := by decide +kernel

/-- Words of BR. -/
def brRows : List Row :=
  [row0 (.bra ⟨7, 0, 0, 0, 0xFFFFFFFE⟩) 0x04700000FFFFFFFE,
   row0 (.bcmp ⟨7, 20, 8, 5, 0xFFFFFFFE⟩) 0x047508A1FFFFFFFE,
   row0 (.bcmpi ⟨7, 20, 8, 5, 0xFFFFFFFE⟩) 0x047508A2FFFFFFFE,
   row0 (.call ⟨7, 20, 0, 0, 0xFFFFFFFE⟩) 0x04750003FFFFFFFE,
   row0 (.ret ⟨7, 20, 0, 0, 0x0⟩) 0x0475000400000000,
   row0 (.jmpr ⟨7, 20, 0, 0, 0x0⟩) 0x0475000500000000,
   row0 (.bany ⟨7, 0, 0, 5, 0xFFFFFFFE⟩) 0x047000A6FFFFFFFE,
   row0 (.ball ⟨7, 0, 0, 5, 0xFFFFFFFE⟩) 0x047000A7FFFFFFFE,
   row0 (.bnone ⟨7, 0, 0, 5, 0xFFFFFFFE⟩) 0x047000A8FFFFFFFE]

theorem test_decode_br : brRows.all Row.good = true := by decide +kernel

/-- Words of SMEM. -/
def smemRows : List Row :=
  [rowM1 1 .sld ⟨7, .s 20, .s 4, .imm 127, 2, 0, 0, 8184⟩ 0x0578A413FE801FF8,
   rowM1 1 .sst ⟨7, .s 20, .s 4, .s 8, 3, 1, 0, 16⟩ 0x0578A41210D02010,
   rowM1 1 .sldc ⟨7, .s 20, .s 4, .s 8, 2, 0, 0, 16⟩ 0x0578A41210804010]

theorem test_decode_smem : smemRows.all Row.good = true := by decide +kernel

/-- Words of VINT. -/
def vintRows : List Row :=
  [rowR .vadd ⟨3, .v 20, .v 4, .imm 127, .v 0, 2⟩ 0x0830A013FE000002,
   rowR .vsub ⟨3, .v 20, .v 4, .v 8, .v 0, 0⟩ 0x0830A01010000100,
   rowR .vmul ⟨3, .v 20, .v 4, .v 8, .v 0, 0⟩ 0x0830A01010000200,
   rowR .vmulh ⟨3, .v 20, .v 4, .v 8, .v 0, 0⟩ 0x0830A01010000300,
   rowR .vmad ⟨3, .v 20, .v 4, .v 8, .v 12, 0⟩ 0x0830A010100C0400,
   rowR .vaddc ⟨3, .v 20, .v 4, .v 8, .q 3, 1⟩ 0x0830A01011430501,
   rowR .vsubb ⟨3, .v 20, .v 4, .v 8, .q 3, 1⟩ 0x0830A01011430601,
   rowR .vdiv ⟨3, .v 20, .v 4, .v 8, .v 0, 3⟩ 0x0830A01010000703,
   rowR .vrem ⟨3, .v 20, .v 4, .v 8, .v 0, 0⟩ 0x0830A01010000800,
   rowR .vabs ⟨3, .v 20, .v 4, .v 0, .v 0, 0⟩ 0x0830A01000000900,
   rowR .vneg ⟨3, .v 20, .v 4, .v 0, .v 0, 0⟩ 0x0830A01000000A00,
   rowR .vmin ⟨3, .v 20, .v 4, .v 8, .v 0, 0⟩ 0x0830A01010000B00,
   rowR .vmax ⟨3, .v 20, .v 4, .v 8, .v 0, 0⟩ 0x0830A01010000C00,
   rowR .vand ⟨3, .v 20, .v 4, .v 8, .v 0, 0⟩ 0x0830A01010000D00,
   rowR .vor ⟨3, .v 20, .v 4, .v 8, .v 0, 0⟩ 0x0830A01010000E00,
   rowR .vxor ⟨3, .v 20, .v 4, .v 8, .v 0, 0⟩ 0x0830A01010000F00,
   rowR .vandn ⟨3, .v 20, .v 4, .v 8, .v 0, 0⟩ 0x0830A01010001000,
   rowR .vnot ⟨3, .v 20, .v 4, .v 0, .v 0, 0⟩ 0x0830A01000001100,
   rowR .vshl ⟨3, .v 20, .v 4, .v 8, .v 0, 0⟩ 0x0830A01010001200,
   rowR .vshr ⟨3, .v 20, .v 4, .v 8, .v 0, 0⟩ 0x0830A01010001300,
   rowR .vsra ⟨3, .v 20, .v 4, .v 8, .v 0, 0⟩ 0x0830A01010001400,
   rowR .vrot ⟨3, .v 20, .v 4, .v 8, .v 0, 0⟩ 0x0830A01010001500,
   rowR .vclz ⟨3, .v 20, .v 4, .v 0, .v 0, 0⟩ 0x0830A01000001600,
   rowR .vpopc ⟨3, .v 20, .v 4, .v 0, .v 0, 0⟩ 0x0830A01000001700,
   rowR .vbrev ⟨3, .v 20, .v 4, .v 0, .v 0, 0⟩ 0x0830A01000001800,
   rowR .vbfe ⟨3, .v 20, .v 4, .v 8, .v 0, 0⟩ 0x0830A01010001900,
   rowR .vbfi ⟨3, .v 20, .v 4, .v 8, .v 12, 0⟩ 0x0830A010100C1A00,
   rowR .vsel ⟨3, .v 20, .v 4, .v 8, .q 3, 0⟩ 0x0830A01011431B00,
   rowR .vcmp ⟨3, .q 5, .v 4, .v 8, .v 0, 21⟩ 0x083A281010001C15,
   rowR .vmov ⟨3, .v 20, .sp .lane, .v 0, .v 0, 0⟩ 0x0830A58000001D00,
   rowR .vadds ⟨3, .v 20, .v 4, .v 8, .v 0, 0⟩ 0x0830A01010001E00,
   rowR .vsubs ⟨3, .v 20, .v 4, .v 8, .v 0, 0⟩ 0x0830A01010001F00,
   rowR .vdot4 ⟨3, .v 20, .v 4, .v 8, .v 12, 0⟩ 0x0830A010100C2000,
   rowR .vdot2 ⟨3, .v 20, .v 4, .v 8, .v 12, 0⟩ 0x0830A010100C2100]

theorem test_decode_vint : vintRows.all Row.good = true := by decide +kernel

/-- Words of VINTI. -/
def vintiRows : List Row :=
  [rowI .vaddi ⟨3, .v 20, .v 4, 2, 0xFEDCBA⟩ 0x0930A01002FEDCBA,
   rowI .vandi ⟨3, .v 20, .v 4, 2, 0xFEDCBA⟩ 0x0930A01006FEDCBA,
   rowI .vori ⟨3, .v 20, .v 4, 2, 0xFEDCBA⟩ 0x0930A0100AFEDCBA,
   rowI .vxori ⟨3, .v 20, .v 4, 2, 0xFEDCBA⟩ 0x0930A0100EFEDCBA,
   rowI .vshli ⟨3, .v 20, .v 4, 0, 0x7⟩ 0x0930A01010000007,
   rowI .vshri ⟨3, .v 20, .v 4, 0, 0x7⟩ 0x0930A01014000007,
   rowI .vsrai ⟨3, .v 20, .v 4, 0, 0x7⟩ 0x0930A01018000007,
   rowI .vcmpi ⟨3, .q 5, .v 4, 0, 0x6FFFFF⟩ 0x093A28101C6FFFFF,
   rowI .vmovi ⟨3, .v 20, .v 0, 2, 0xFEDCBA⟩ 0x0930A00022FEDCBA]

theorem test_decode_vinti : vintiRows.all Row.good = true := by decide +kernel

/-- Words of VADR. -/
def vadrRows : List Row :=
  [rowA .vlea ⟨3, .v 20, .v 4, .s 8, .v 0, 13⟩ 0x0A30A0121000000D,
   rowA .vaddw ⟨3, .v 20, .v 4, .v 8, .v 0, 2⟩ 0x0A30A01010000102,
   rowA .vsubw ⟨3, .v 20, .v 4, .v 8, .v 0, 1⟩ 0x0A30A01010000201]

theorem test_decode_vadr : vadrRows.all Row.good = true := by decide +kernel

/-- Words of VFP. -/
def vfpRows : List Row :=
  [rowR .vfadd ⟨3, .v 20, .v 4, .v 8, .v 0, 3⟩ 0x1030A01010000003,
   rowR .vfsub ⟨3, .v 20, .v 4, .v 8, .v 0, 0⟩ 0x1030A01010000100,
   rowR .vfmul ⟨3, .v 20, .v 4, .v 8, .v 0, 0⟩ 0x1030A01010000200,
   rowR .vfma ⟨3, .v 20, .v 4, .v 8, .v 12, 0⟩ 0x1030A010100C0300,
   rowR .vfms ⟨3, .v 20, .v 4, .v 8, .v 12, 0⟩ 0x1030A010100C0400,
   rowR .vfnma ⟨3, .v 20, .v 4, .v 8, .v 12, 0⟩ 0x1030A010100C0500,
   rowR .vfmin ⟨3, .v 20, .v 4, .v 8, .v 0, 0⟩ 0x1030A01010000600,
   rowR .vfmax ⟨3, .v 20, .v 4, .v 8, .v 0, 0⟩ 0x1030A01010000700,
   rowR .vfabs ⟨3, .v 20, .v 4, .v 0, .v 0, 0⟩ 0x1030A01000000800,
   rowR .vfneg ⟨3, .v 20, .v 4, .v 0, .v 0, 0⟩ 0x1030A01000000900,
   rowR .vfcmp ⟨3, .q 5, .v 4, .v 8, .v 0, 36⟩ 0x103A281010000A24,
   rowR .vfclass ⟨3, .v 20, .v 4, .v 0, .v 0, 0⟩ 0x1030A01000000B00,
   rowR .vfdiv ⟨3, .v 20, .v 4, .v 8, .v 0, 0⟩ 0x1030A01010000C00,
   rowR .vfsqrt ⟨3, .v 20, .v 4, .v 0, .v 0, 0⟩ 0x1030A01000000D00,
   rowR .vfrcp ⟨3, .v 20, .v 4, .v 0, .v 0, 0⟩ 0x1030A01000000E00,
   rowR .vfrsq ⟨3, .v 20, .v 4, .v 0, .v 0, 0⟩ 0x1030A01000000F00,
   rowR .vfexp2 ⟨3, .v 20, .v 4, .v 0, .v 0, 0⟩ 0x1030A01000001000,
   rowR .vflog2 ⟨3, .v 20, .v 4, .v 0, .v 0, 0⟩ 0x1030A01000001100,
   rowR .vfsin ⟨3, .v 20, .v 4, .v 0, .v 0, 0⟩ 0x1030A01000001200,
   rowR .vfcos ⟨3, .v 20, .v 4, .v 0, .v 0, 0⟩ 0x1030A01000001300,
   rowR .vftanh ⟨3, .v 20, .v 4, .v 0, .v 0, 0⟩ 0x1030A01000001400,
   rowR .vfrnd ⟨3, .v 20, .v 4, .v 0, .v 0, 0⟩ 0x1030A01000001500]

theorem test_decode_vfp : vfpRows.all Row.good = true := by decide +kernel

/-- Words of VHFP. -/
def vhfpRows : List Row :=
  [rowR .vhadd ⟨3, .v 20, .v 4, .v 8, .v 0, 0⟩ 0x1130A01010000000,
   rowR .vhsub ⟨3, .v 20, .v 4, .v 8, .v 0, 0⟩ 0x1130A01010000100,
   rowR .vhmul ⟨3, .v 20, .v 4, .v 8, .v 0, 0⟩ 0x1130A01010000200,
   rowR .vhfma ⟨3, .v 20, .v 4, .v 8, .v 12, 16⟩ 0x1130A010100C0310,
   rowR .vhmin ⟨3, .v 20, .v 4, .v 8, .v 0, 0⟩ 0x1130A01010000400,
   rowR .vhmax ⟨3, .v 20, .v 4, .v 8, .v 0, 0⟩ 0x1130A01010000500,
   rowR .vhdot ⟨3, .v 20, .v 4, .v 8, .v 12, 0⟩ 0x1130A010100C0600,
   rowR .vhcmp ⟨3, .v 20, .v 4, .v 8, .v 0, 0⟩ 0x1130A01010000700]

theorem test_decode_vhfp : vhfpRows.all Row.good = true := by decide +kernel

/-- Words of VCVT. -/
def vcvtRows : List Row :=
  [rowR .vcvt ⟨3, .v 20, .v 4, .v 0, .v 0, 0⟩ 0x1230A01000000000,
   rowR .vpack ⟨3, .v 20, .v 4, .v 8, .v 0, 0⟩ 0x1230A01010000100,
   rowR .vunpk ⟨3, .v 20, .v 4, .v 0, .v 0, 0⟩ 0x1230A01000000200,
   rowR .vpk8 ⟨3, .v 20, .v 4, .v 8, .v 0, 0⟩ 0x1230A01010000300,
   rowR .vupk8 ⟨3, .v 20, .v 4, .v 0, .v 0, 0⟩ 0x1230A01000000400]

theorem test_decode_vcvt : vcvtRows.all Row.good = true := by decide +kernel

/-- Words of XLANE. -/
def xlaneRows : List Row :=
  [rowR .vshuf ⟨3, .v 20, .v 4, .v 8, .v 12, 0⟩ 0x1830A010100C0000,
   rowR .vshufup ⟨3, .v 20, .v 4, .v 8, .v 12, 0⟩ 0x1830A010100C0100,
   rowR .vshufdn ⟨3, .v 20, .v 4, .v 8, .v 12, 0⟩ 0x1830A010100C0200,
   rowR .vshufx ⟨3, .v 20, .v 4, .v 8, .v 12, 0⟩ 0x1830A010100C0300,
   rowR .vbcast ⟨3, .v 20, .v 4, .s 8, .v 12, 0⟩ 0x1830A012100C0400,
   rowR .qswap ⟨3, .v 20, .v 4, .s 8, .v 12, 0⟩ 0x1830A012100C0500,
   rowR .qbcast ⟨3, .v 20, .v 4, .imm 2, .v 12, 0⟩ 0x1830A013040C0600,
   rowR .vscan ⟨3, .v 20, .v 4, .v 0, .v 12, 0⟩ 0x1830A010000C0700,
   rowR .vred ⟨3, .v 20, .v 4, .v 0, .v 0, 0⟩ 0x1830A01000000800,
   rowR .vrds ⟨3, .s 20, .v 4, .v 0, .v 0, 0⟩ 0x1838A01000000900,
   rowR3 .vote ⟨3, .v 20, .q 4, .v 0, .v 0, 0⟩ 0x1830A51000000A00,
   rowR3 .vmatch ⟨3, .v 20, .v 4, .v 0, .v 0, 0⟩ 0x1830A01000000B00]

theorem test_decode_xlane : xlaneRows.all Row.good = true := by decide +kernel

/-- Words of VMEM. -/
def vmemRows : List Row :=
  [rowM 2 .vld ⟨3, .v 20, .v 4, .v 8, 2, 2, 0, 8184⟩ 0x1C30A01010A01FF8,
   rowM 2 .vst ⟨3, .v 20, .s 4, .v 8, 3, 1, 0, 16⟩ 0x1C30A41010D02010,
   rowM 1 .vlds ⟨3, .v 20, .v 4, .v 8, 2, 0, 0, 8⟩ 0x1C30A01010804008,
   rowM 1 .vsts ⟨3, .v 20, .v 4, .v 8, 2, 0, 0, 8⟩ 0x1C30A01010806008,
   rowM 1 .vldw ⟨3, .v 20, .v 4, .imm 127, 2, 0, 0, 8⟩ 0x1C30A013FE808008,
   rowM 1 .vstw ⟨3, .v 20, .v 4, .v 8, 2, 0, 0, 8⟩ 0x1C30A0101080A008,
   rowM1 2 .vpref ⟨3, .v 0, .s 4, .v 8, 0, 1, 0, 64⟩ 0x1C3004101010C040]

theorem test_decode_vmem : vmemRows.all Row.good = true := by decide +kernel

/-- Words of ENG. -/
def engRows : List Row :=
  [row0 (.cpy ⟨7, .s 20, .s 4, .s 8, .s 12, 0⟩) 0x2478A412110C0000,
   row0 (.cpyt ⟨7, .s 20, .s 4, .s 8, .s 12, 2⟩) 0x2478A412110C0102,
   row0 (.discard ⟨7, .s 20, .s 4, .v 0, .v 0, 0⟩) 0x2478A41000000200,
   row0 (.ttag ⟨7, .v 0, .s 4, .v 0, .v 0, 0⟩) 0x2470041000000300,
   rowX .xputSend ⟨3, .v 20, .s 4, .v 8, .v 0, 0⟩ 0x2430A41010000400,
   rowX .xputRead ⟨3, .v 20, .v 0, .v 8, .v 0, 4⟩ 0x2430A00010000404,
   row0 (.coll ⟨7, .s 20, .s 4, .s 8, .v 0, 0⟩) 0x2478A41210000500]

theorem test_decode_eng : engRows.all Row.good = true := by decide +kernel

/-- Words of SYNC. -/
def syncRows : List Row :=
  [row0 (.fence ⟨7, .v 0, .v 0, .v 0, .v 0, 33⟩) 0x2870000000000021,
   row0 (.tfence ⟨7, .v 0, .v 0, .v 0, .v 0, 64⟩) 0x2870000000000140,
   row0 (.binit ⟨7, .v 0, .s 4, .imm 8, .v 0, 0⟩) 0x2870041310000200,
   row0 (.barv ⟨7, .s 20, .s 4, .v 0, .v 0, 0⟩) 0x2878A41000000300,
   row0 (.bwait ⟨7, .v 0, .s 4, .s 8, .v 0, 0⟩) 0x2870041210000400,
   row0 (.bsync ⟨7, .v 0, .s 4, .v 0, .v 0, 0⟩) 0x2870041000000500,
   row0 (.cbar ⟨7, .v 0, .v 0, .v 0, .v 0, 0⟩) 0x2870000000000600,
   row0 (.cmt ⟨7, .v 0, .v 0, .v 0, .v 0, 0⟩) 0x2870000000000700]

theorem test_decode_sync : syncRows.all Row.good = true := by decide +kernel

/-- Words of MTX. -/
def mtxRows : List Row :=
  [row0 (.mres ⟨7, .s 20, .v 0, .v 0, .v 0, 0⟩) 0x2C78A00000000000,
   row0 (.mrel ⟨7, .v 0, .v 0, .v 0, .v 0, 0⟩) 0x2C70000000000100,
   row0 (.modeM ⟨7, .v 0, .v 0, .v 0, .v 0, 1⟩) 0x2C70000000000201,
   row0 (.modeV ⟨7, .v 0, .v 0, .v 0, .v 0, 0⟩) 0x2C70000000000200,
   row0 (.mzero ⟨7, .v 0, .v 0, .v 0, .v 0, 0⟩) 0x2C70000000000300,
   row0 (.ald ⟨7, .v 0, .s 4, .s 8, .v 0, 0⟩) 0x2C70041210000400,
   row0 (.ast ⟨7, .v 0, .s 4, .s 8, .v 0, 0⟩) 0x2C70041210000500,
   row0 (.aacc ⟨7, .v 0, .s 4, .s 8, .v 0, 1⟩) 0x2C70041210000601,
   row0 (.acpy ⟨7, .v 0, .s 4, .s 8, .s 12, 0⟩) 0x2C700412110C0700,
   rowR .ldsc ⟨7, .v 20, .s 4, .s 8, .s 12, 0⟩ 0x2C70A412110C0800]

theorem test_decode_mtx : mtxRows.all Row.good = true := by decide +kernel

/-- Words of VAMO. -/
def vamoRows : List Row :=
  [rowV .add ⟨3, .v 20, .v 4, .v 8, 2, 1, 2, 3076⟩ 0x2030A01010940C04,
   rowV .min ⟨3, .v 20, .v 4, .v 8, 2, 1, 2, 3076⟩ 0x2030A01010942C04,
   rowV .max ⟨3, .v 20, .v 4, .v 8, 2, 1, 2, 3076⟩ 0x2030A01010944C04,
   rowV .minn ⟨3, .v 20, .v 4, .v 8, 2, 1, 2, 3076⟩ 0x2030A01010946C04,
   rowV .maxn ⟨3, .v 20, .v 4, .v 8, 2, 1, 2, 3076⟩ 0x2030A01010948C04,
   rowV .and ⟨3, .v 20, .v 4, .v 8, 2, 1, 2, 3076⟩ 0x2030A0101094AC04,
   rowV .or ⟨3, .v 20, .v 4, .v 8, 2, 1, 2, 3076⟩ 0x2030A0101094CC04,
   rowV .xor ⟨3, .v 20, .v 4, .v 8, 2, 1, 2, 3076⟩ 0x2030A0101094EC04,
   rowV .xchg ⟨3, .v 20, .v 4, .v 8, 2, 1, 2, 3076⟩ 0x2030A01010950C04,
   rowV .cas ⟨3, .v 20, .v 4, .v 8, 2, 1, 2, 3076⟩ 0x2030A01010952C04,
   rowV .fadd32 ⟨3, .v 20, .v 4, .v 8, 2, 1, 2, 3076⟩ 0x2030A01010954C04,
   rowV .bf16x2add ⟨3, .v 20, .v 4, .v 8, 2, 1, 2, 3076⟩ 0x2030A01010956C04,
   rowV .fp16x2add ⟨3, .v 20, .v 4, .v 8, 2, 1, 2, 3076⟩ 0x2030A01010958C04,
   rowV .incw ⟨3, .v 20, .v 4, .v 8, 2, 1, 2, 3076⟩ 0x2030A0101095AC04]

theorem test_decode_vamo : vamoRows.all Row.good = true := by decide +kernel

/-- Words of SAMO. -/
def samoRows : List Row :=
  [rowM1 1 (.samo .add) ⟨7, .s 20, .s 4, .s 8, 2, 1, 2, 3076⟩ 0x2178A41210940C04,
   rowM1 1 (.samo .min) ⟨7, .s 20, .s 4, .s 8, 2, 1, 2, 3076⟩ 0x2178A41210942C04,
   rowM1 1 (.samo .max) ⟨7, .s 20, .s 4, .s 8, 2, 1, 2, 3076⟩ 0x2178A41210944C04,
   rowM1 1 (.samo .minn) ⟨7, .s 20, .s 4, .s 8, 2, 1, 2, 3076⟩ 0x2178A41210946C04,
   rowM1 1 (.samo .maxn) ⟨7, .s 20, .s 4, .s 8, 2, 1, 2, 3076⟩ 0x2178A41210948C04,
   rowM1 1 (.samo .and) ⟨7, .s 20, .s 4, .s 8, 2, 1, 2, 3076⟩ 0x2178A4121094AC04,
   rowM1 1 (.samo .or) ⟨7, .s 20, .s 4, .s 8, 2, 1, 2, 3076⟩ 0x2178A4121094CC04,
   rowM1 1 (.samo .xor) ⟨7, .s 20, .s 4, .s 8, 2, 1, 2, 3076⟩ 0x2178A4121094EC04,
   rowM1 1 (.samo .xchg) ⟨7, .s 20, .s 4, .s 8, 2, 1, 2, 3076⟩ 0x2178A41210950C04,
   rowM1 1 (.samo .cas) ⟨7, .s 20, .s 4, .s 8, 2, 1, 2, 3076⟩ 0x2178A41210952C04,
   rowM1 1 (.samo .fadd32) ⟨7, .s 20, .s 4, .s 8, 2, 1, 2, 3076⟩ 0x2178A41210954C04,
   rowM1 1 (.samo .bf16x2add) ⟨7, .s 20, .s 4, .s 8, 2, 1, 2, 3076⟩ 0x2178A41210956C04,
   rowM1 1 (.samo .fp16x2add) ⟨7, .s 20, .s 4, .s 8, 2, 1, 2, 3076⟩ 0x2178A41210958C04,
   rowM1 1 (.samo .incw) ⟨7, .s 20, .s 4, .s 8, 2, 1, 2, 3076⟩ 0x2178A4121095AC04]

theorem test_decode_samo : samoRows.all Row.good = true := by decide +kernel

/-- Words of MOPA. -/
def mopaRows : List Row :=
  [row0 (.mopa ⟨7, .s 4, .v 8, .v 12, .v 16, .v 17, 0, true, false, false, false⟩) 0x2D78202018100888]

theorem test_decode_mopa : mopaRows.all Row.good = true := by decide +kernel

/-- Words of the halves (Table 2.11). -/
def halvesRows : List Row :=
  [rowH .vaddHalf ⟨.v 20, .s 5, 3, 0⟩ 0x400A42B07F000000,
   rowH .vsubHalf ⟨.v 20, .s 5, 3, 0⟩ 0x408A42B07F000000,
   rowH .vmulHalf ⟨.v 20, .s 5, 3, 0⟩ 0x410A42B07F000000,
   rowH .vandHalf ⟨.v 20, .s 5, 3, 0⟩ 0x418A42B07F000000,
   rowH .vorHalf ⟨.v 20, .s 5, 3, 0⟩ 0x420A42B07F000000,
   rowH .vxorHalf ⟨.v 20, .s 5, 3, 0⟩ 0x428A42B07F000000,
   rowH .vandnHalf ⟨.v 20, .s 5, 3, 0⟩ 0x430A42B07F000000,
   rowH .vshlHalf ⟨.v 20, .s 5, 3, 0⟩ 0x438A42B07F000000,
   rowH .vshrHalf ⟨.v 20, .s 5, 3, 0⟩ 0x440A42B07F000000,
   rowH .vsraHalf ⟨.v 20, .s 5, 3, 0⟩ 0x448A42B07F000000,
   rowH .vminHalf ⟨.v 20, .s 5, 3, 0⟩ 0x450A42B07F000000,
   rowH .vmaxHalf ⟨.v 20, .s 5, 3, 0⟩ 0x458A42B07F000000,
   rowU .vmovHalf ⟨.v 20, .s 5, 3, 0⟩ 0x460A42B07F000000,
   rowU .vnegHalf ⟨.v 20, .s 5, 3, 0⟩ 0x468A42B07F000000,
   rowU .vnotHalf ⟨.v 20, .s 5, 3, 0⟩ 0x470A42B07F000000,
   rowU .vabsHalf ⟨.v 20, .s 5, 3, 0⟩ 0x478A42B07F000000,
   rowH .vfaddHalf ⟨.v 20, .s 5, 3, 0⟩ 0x480A42B07F000000,
   rowH .vfsubHalf ⟨.v 20, .s 5, 3, 0⟩ 0x488A42B07F000000,
   rowH .vfmulHalf ⟨.v 20, .s 5, 3, 0⟩ 0x490A42B07F000000,
   rowH .vfminHalf ⟨.v 20, .s 5, 3, 0⟩ 0x498A42B07F000000,
   rowH .vfmaxHalf ⟨.v 20, .s 5, 3, 0⟩ 0x4A0A42B07F000000,
   rowU .vfabsHalf ⟨.v 20, .s 5, 3, 0⟩ 0x4A8A42B07F000000,
   rowU .vfnegHalf ⟨.v 20, .s 5, 3, 0⟩ 0x4B0A42B07F000000,
   rowH .vhaddHalf ⟨.v 20, .s 5, 3, 0⟩ 0x4B8A42B07F000000,
   rowH .vhmulHalf ⟨.v 20, .s 5, 3, 0⟩ 0x4C0A42B07F000000,
   rowU .vcvtHalf ⟨.v 20, .s 5, 3, 0⟩ 0x4C8A42B07F000000,
   row0 (.saddHalf ⟨.s 20, .imm 21, 7, 0⟩) 0x4D4A6AF07F000000,
   row0 (.ssubHalf ⟨.s 20, .imm 21, 7, 0⟩) 0x4DCA6AF07F000000,
   row0 (.sandHalf ⟨.s 20, .imm 21, 7, 0⟩) 0x4E4A6AF07F000000,
   row0 (.sorHalf ⟨.s 20, .imm 21, 7, 0⟩) 0x4ECA6AF07F000000,
   row0 (.sxorHalf ⟨.s 20, .imm 21, 7, 0⟩) 0x4F4A6AF07F000000,
   row0 (.sshlHalf ⟨.s 20, .imm 21, 7, 0⟩) 0x4FCA6AF07F000000,
   row0 (.sshrHalf ⟨.s 20, .imm 21, 7, 0⟩) 0x504A6AF07F000000,
   row0 (.ssraHalf ⟨.s 20, .imm 21, 7, 0⟩) 0x50CA6AF07F000000,
   row0 (.smovHalf ⟨.s 20, .imm 21, 7, 0⟩) 0x514A6AF07F000000,
   row0 (.sminHalf ⟨.s 20, .imm 21, 7, 0⟩) 0x51CA6AF07F000000,
   row0 (.smaxHalf ⟨.s 20, .imm 21, 7, 0⟩) 0x524A6AF07F000000,
   row0 (.smulHalf ⟨.s 20, .imm 21, 7, 0⟩) 0x52CA6AF07F000000,
   row0 (.saddi8Half ⟨.s 20, 0xFB, 7, 0⟩) 0x534A7DF07F000000,
   row0 (.smovi8Half ⟨.s 20, 0xFB, 7, 0⟩) 0x53CA7DF07F000000,
   row0 (.nopHalf 0) 0x7F8000007F000000]

theorem test_decode_halves : halvesRows.all Row.good = true := by decide +kernel

/-! ## A small state: one group of one record lane and three helper lanes on core 0, about to issue -/

/-- The block, and its group: stamp 1 in lane 0, every register 0. -/
def b0 : Block := newBlock 0 placedBatch placedNode 0 0 1 [[placedRecord]] ((List.range 86).drop 48)
def g0 : Group := { State.reset.newGroup 0 2 0 placedNode 0 0 0 [placedRecord] (List.range 48) with inActive := true }

/-- The machine in which group 3 stands at `g` and issues. -/
def at_ (g : Group) : State := ({ State.reset.placeWord 0 with cur := some 3 }).setGroup 3 g

/-- Two lanes of two owners, both active. -/
def g2 : Group :=
  { g0 with
    lanes := [(0, { stamp := 1#16, hh := 0#8, help := false, lstat := 0#32, heldF := 0#5, parked := false }),
              (1, { stamp := 2#16, hh := 0#8, help := false, lstat := 0#32, heldF := 0#5, parked := false })],
    s := [(61, 3#64)] }

/-- Two lanes of one owner, both active. -/
def gS : Group := { g2 with lanes := g2.lanes.map (fun e => (e.1, { e.2 with stamp := 1#16 })) }

/-- No active lane. -/
def gN : Group := { g0 with s := [] }

theorem find_put {α : Type} (k : Nat) (x : α) (m : AMap α) : AMap.find k (AMap.put k x m) = some x := by
  induction m with
  | nil => simp [AMap.put, AMap.find]
  | cons e m ih =>
    simp only [AMap.put]
    split
    · simp [AMap.find]
    · split
      · simp [AMap.find]
      · simp [AMap.find, *]

theorem issues_at (g : Group) : Issues (at_ g) 3 g := ⟨rfl, find_put 3 g _⟩

theorem runs_at (g : Group) (i : Instr) (sp : List (Nat × Nat))
    (h : (i.wf && spansOk (16 * g.alloc) sp) = true) : Runs i sp (at_ g) 3 g := by
  have h := Bool.and_eq_true_iff.mp h
  exact ⟨issues_at g, h.1, h.2⟩

/-- Every row of a list runs at a group that holds all 256 registers. -/
theorem rows_run (l : List Row) (h : l.all Row.good = true) (g : Group) (hg : g.alloc = 16) :
    ∀ r ∈ l, Runs r.2.1 r.2.2 (at_ g) 3 g := by
  intro r hr
  have h1 := List.all_eq_true.mp h r hr
  simp only [Row.good, Bool.and_eq_true] at h1
  exact runs_at g r.2.1 r.2.2 (by rw [hg]; simp [h1])

/-- The blocks of the small states. -/
theorem block_at (g : Group) (h : g.block = 2) : (at_ g).blockOf g = some b0 := by
  have e : AMap.find 2 (State.reset.placeWord 0).blocks = some b0 := by decide +kernel
  simp only [State.blockOf, h]; exact e
abbrev AllRun (l : List Row) (g : Group) : Prop := ∀ r ∈ l, Runs r.2.1 r.2.2 (at_ g) 3 g

theorem allRun (l : List Row) (h : l.all Row.good = true) (g : Group) (hg : g.alloc = 16) : AllRun l g := rows_run l h g hg

/-! ## Witnesses: decoding, stepping, the machine -/

def answersNext (o : Host.Outcome State Fault Refusal) : Bool :=
  match o with
  | .next _ => true
  | _ => false

/-- A word NOP stands where core 0 fetches. -/
def sF : State := State.reset.withFetchWord 64 0x0070000000000000
def sF1 : State := (sF.prepare 0).passCounts 0 (some 3)
def gF : Group := ((AMap.find 3 sF1.groups).getD g0)
def sP : State := State.reset.withFetchWord 64 0x400800F00C0110E0
def sP1 : State := (sP.prepare 0).passCounts 0 (some 3)
def gP : Group := ((AMap.find 3 sP1.groups).getD g0)

/-- The hypotheses of a step that runs the word w, but for what the word decodes to. -/
def Fetches (s s1 : State) (g : Group) (w : Nat) : Prop :=
  s.agenda = [] ∧ (s.core s.turn).gated = false ∧ (s.prepare 0).chosen 0 = some 3
    ∧ AMap.find 3 s1.groups = some g ∧ s1.blockOf g = some b0 ∧ g.pc < b0.node.textSize
    ∧ s1.cachedWord g b0 = some w ∧ s1.accepts 0 g w = true
  deriving Decidable

theorem witness_StepRunsDecodedWord :
    Fetches sF sF1 gF 0x0070000000000000 ∧ (sF1.fetch 3 gF b0).reqs = sF1.reqs
    ∧ decodeBytes (leBytes 8 0x0070000000000000) = some (.full (.nop ⟨7, .v 0, .v 0, .v 0, .v 0, 0⟩))
    ∧ Fetches sP sP1 gP 0x400800F00C0110E0 ∧ (sP1.fetch 3 gP b0).reqs = sP1.reqs
    ∧ decodeBytes (leBytes 8 0x400800F00C0110E0)
      = some (.pair (some (.vaddHalf ⟨.v 16, .v 1, 7, 0⟩)) (some (.vmovHalf ⟨.v 1, .v 16, 7, 0⟩)))
    ∧ pairCheck 0x400800F00C0110E0 = none ∧ pairFits gP.alloc 0x400800F00C0110E0 = true
    ∧ ({ State.reset with agenda := [.event .powerUp] } : State).agenda = .event .powerUp :: []
    ∧ (Instr.nop ⟨7, .v 0, .v 0, .v 0, .v 0, 0⟩).form ≠ .event ∧ State.reset.cur = none :=
  ⟨by decide +kernel, rfl, rfl, by decide +kernel, rfl, rfl, by decide +kernel, by decide +kernel, rfl, by decide, rfl⟩

/-- Word w stands where core 0 fetches, its group as f changes it. -/
def sT (w : Nat) (f : Group → Group) : State := (State.reset.withFetchWord 64 w).adjGroup 3 f
def sT1 (w : Nat) (f : Group → Group) : State := ((sT w f).prepare 0).passCounts 0 (some 3)
def gT (w : Nat) (f : Group → Group) : Group := (AMap.find 3 (sT1 w f).groups).getD g0

/-- An unassigned MAJ, a pair of one destination, a pair past 16 registers; a PC past .text. -/
theorem witness_StepTrapsWords :
    (∀ w ∈ [0x0670000000000000, 0x400800F00C1010E0], Fetches (sT w id) (sT1 w id) (gT w id) w)
    ∧ decodeBody 0x0670000000000000 = .bad 0x01 ∧ bitAt 0x400800F00C1010E0 62 = true
    ∧ pairCheck 0x400800F00C1010E0 = some (0x02, 0x11)
    ∧ (let w := 0x400800F00C0110E0
       let f := fun g : Group => { g with alloc := 1 }
       Fetches (sT w f) (sT1 w f) (gT w f) w ∧ pairCheck w = none ∧ pairFits (gT w f).alloc w = false)
    ∧ (let f := fun g : Group => { g with pc := 4096 }
       let s := sT 0x0670000000000000 f
       let s1 := sT1 0x0670000000000000 f
       s.agenda = [] ∧ (s.core s.turn).gated = false ∧ (s.prepare 0).chosen 0 = some 3
         ∧ AMap.find 3 s1.groups = some (gT 0x0670000000000000 f) ∧ s1.blockOf (gT 0x0670000000000000 f) = some b0
         ∧ b0.node.textSize ≤ (gT 0x0670000000000000 f).pc) := by
  decide +kernel

theorem witness_EncodeDecode :
    (∀ r ∈ [ctlRows, saluRows, vintRows, vmemRows, mtxRows].flatten, r.2.1.wf = true ∧ r.2.1.form = .full)
    ∧ ∀ r ∈ halvesRows, r.2.1.wf = true ∧ r.2.1.form = .half := by
  decide +kernel

/-- One ill-formed term for each check of Table 2.12 that a word's own bits fail, with its reason. -/
def illFormed : List (Nat × Instr) :=
  [(0x03, .vadd ⟨15, .v 20, .v 4, .v 8, .v 0, 0⟩), (0x04, .sadd ⟨3, .s 20, .s 4, .s 8, .v 0, 0⟩),
   (0x04, .nop ⟨0, .v 0, .v 0, .v 0, .v 0, 0⟩), (0x05, .vadd ⟨3, .v 20, .reserved 0x148, .v 8, .v 0, 0⟩),
   (0x05, .nop ⟨7, .v 0, .v 0, .v 0, .reserved 0x16E, 0⟩),
   (0x06, .vadd ⟨3, .q 2, .v 4, .v 8, .v 0, 0⟩), (0x06, .vadd ⟨3, .v 20, .q 4, .v 8, .v 0, 0⟩),
   (0x06, .vcmp ⟨3, .q 7, .v 4, .v 8, .v 0, 0⟩), (0x06, .sadd ⟨7, .s 20, .v 4, .s 8, .v 0, 0⟩),
   (0x06, .nop ⟨7, .v 0, .v 1, .v 0, .v 0, 0⟩), (0x07, .vadd ⟨3, .v 20, .v 4, .v 8, .v 0, 0x80⟩),
   (0x07, .bra ⟨7, 1, 0, 0, 0⟩), (0x07, .ret ⟨7, 1, 0, 0, 1⟩), (0x07, .smovhi ⟨7, .s 20, .s 4, 0, 0x10000⟩),
   (0x07, .scmpi ⟨7, .s 20, .s 4, 0, 0xC00000⟩), (0x08, .vld ⟨3, .v 20, .v 4, .v 8, 5, 0, 0, 0⟩),
   (0x08, .vld ⟨3, .v 20, .v 4, .v 8, 2, 3, 0, 0⟩), (0x08, .vld ⟨3, .v 20, .v 4, .v 8, 2, 0, 6, 0⟩),
   (0x08, .vamo .add ⟨3, .v 20, .v 4, .v 8, 2, 0, 2, 0⟩), (0x09, .nopHalf 1), (0x0A, .vaddHalf ⟨.imm 3, .v 1, 7, 0⟩),
   (0x0A, .vaddHalf ⟨.v 1, .reserved 0xEE, 7, 0⟩), (0x0B, .vaddHalf ⟨.v 1, .v 2, 7, 0x1F⟩)]

theorem test_wf_refuses : ∀ e ∈ illFormed, e.2.wf = false ∧ e.2.check = some e.1 := by decide +kernel

/-- R51: the same register twice, D in one bank, S in one bank (the spec's example), a guarded scalar half. -/
theorem test_pair_rules :
    pairCheck (2 ^ 62 + 0x001001E0 * 2 ^ 31 + 0x0C1002E0) = some (0x02, 0x11)
    ∧ pairCheck (2 ^ 62 + 0x001001E0 * 2 ^ 31 + 0x0C1412E0) = some (0x02, 0x12)
    ∧ pairCheck (2 ^ 62 + 0x001001E0 * 2 ^ 31 + 0x0C0511E0) = some (0x02, 0x13)
    ∧ pairCheck (2 ^ 62 + 0x1A818260 * 2 ^ 31 + 0x7F000000) = some (0x02, 0x14)
    ∧ pairCheck (2 ^ 62 + 0x001001E0 * 2 ^ 31 + 0x0C0214E0) = none := by
  decide +kernel

/-- Sixteen registers only. -/
def gA : Group := { g0 with alloc := 1 }

def isFull : Body → Bool
  | .full _ => true
  | .pair _ _ | .bad _ => false

theorem witness_IllegalWords :
    (bitAt 0x0670000000000000 62 = false ∧ bits 0x0670000000000000 61 56 = 0x06
      ∧ bits 0x0170000000001600 15 8 = 22 ∧ bits 0x0170000000001500 15 8 = 21)
    ∧ (∀ w ∈ [0x0070000000000000, 0x097A10181CBFFFFB, 0x1C7044080A980040, 0x2070A413FE881440, 0x2D78400010140A8B, 0x0470000000000001],
        bitAt w 62 = false ∧ isFull (decodeBody w) = true)
    ∧ Issues (at_ g0) 3 g0
    ∧ Issues (at_ gA) 3 gA
    ∧ ∀ r ∈ [rowR .vadd ⟨3, .v 20, .v 4, .v 8, .v 0, 0⟩ 0, rowR .vdot4 ⟨3, .v 2, .v 4, .v 8, .v 16, 0⟩ 0,
          rowR .vcmp ⟨3, .q 5, .v 16, .v 8, .v 0, 0⟩ 0, rowR .vfma ⟨3, .v 2, .v 4, .v 255, .v 1, 0⟩ 0,
          rowR .vhdot ⟨3, .v 16, .v 4, .v 8, .v 12, 0⟩ 0, rowR .vpk8 ⟨3, .v 16, .v 4, .v 8, .v 0, 0⟩ 0,
          rowR .vshuf ⟨3, .v 16, .v 4, .v 8, .v 12, 0⟩ 0, rowR3 .vote ⟨3, .v 14, .q 4, .v 0, .v 0, 0⟩ 0,
          rowR3 .vmatch ⟨3, .v 14, .v 4, .v 0, .v 0, 0⟩ 0, rowA .vlea ⟨3, .v 2, .v 16, .v 8, .v 0, 0⟩ 0,
          rowA .vaddw ⟨3, .v 16, .v 4, .v 8, .v 0, 2⟩ 0, rowA .vsubw ⟨3, .v 2, .v 4, .v 16, .v 0, 2⟩ 0,
          rowX .xputSend ⟨3, .v 16, .s 4, .v 8, .v 0, 0⟩ 0, rowX .xputRead ⟨3, .v 16, .v 0, .v 8, .v 0, 4⟩ 0,
          rowR .ldsc ⟨7, .v 16, .s 4, .s 8, .s 12, 0⟩ 0, rowI .vaddi ⟨3, .v 16, .v 4, 0, 1⟩ 0,
          rowI .vcmpi ⟨3, .q 5, .v 16, 0, 1⟩ 0, rowI .vmovi ⟨3, .v 16, .v 0, 0, 1⟩ 0,
          rowM 2 .vld ⟨3, .v 14, .v 16, .v 8, 2, 0, 0, 0⟩ 0, rowM 2 .vst ⟨3, .v 14, .s 4, .v 16, 3, 0, 0, 0⟩ 0,
          rowM 1 .vlds ⟨3, .v 16, .v 4, .v 8, 2, 0, 0, 0⟩ 0, rowM 1 .vldw ⟨3, .v 16, .v 4, .v 8, 2, 0, 0, 0⟩ 0,
          rowM1 2 .vpref ⟨3, .v 0, .s 4, .v 16, 0, 0, 0, 0⟩ 0],
        r.2.1.wf = true ∧ ∃ e ∈ r.2.2, 16 * gA.alloc < e.1 + e.2 :=
  ⟨by decide +kernel, by decide +kernel, issues_at _, issues_at _, by decide +kernel⟩

theorem witness_MemoryStaysCanonical : sF.mem.wf = true ∧ answersNext (step sF) = true := by decide +kernel

theorem witness_WordsKeepTheRest :
    let s := (at_ g0).setGroup 4 g2
    answersNext (exec (.nop ⟨7, .v 0, .v 0, .v 0, .v 0, 0⟩) s) = true ∧ s.cur = some 3 ∧ AMap.find 4 s.groups = some g2 := by
  decide +kernel
/-! ## Witnesses: scalar, branch and control words -/

/-- Scalar registers as given, beside the mask word. -/
def gs (l : List (Nat × BitVec 64)) : Group := { g0 with s := l ++ [(61, 1#64)] }

theorem witness_ScalarResults :
    AllRun saluRows g0 ∧ AllRun saluiRows g0 ∧ AllRun (halvesRows.drop 26) g0 ∧ Issues (at_ g0) 3 g0 :=
  ⟨allRun _ test_decode_salu _ rfl, allRun _ test_decode_salui _ rfl,
    fun r h => allRun _ test_decode_halves g0 rfl r (List.mem_of_mem_drop h), issues_at _⟩

/-- A divisor of 0; −2^63 by −1; 7 by −2. -/
theorem witness_ScalarFieldsAndDivision :
    AllRun saluRows g0 ∧ Runs (.sdiv ⟨7, .s 20, .s 4, .s 8, .v 0, 0⟩) [] (at_ (gs [(4, 7#64)])) 3 (gs [(4, 7#64)])
    ∧ (∀ e ∈ [([(4, 7#64)], true, false), ([(4, BitVec.ofNat 64 (2 ^ 63)), (8, BitVec.allOnes 64)], false, true),
               ([(4, 7#64), (8, BitVec.ofInt 64 (-2))], false, false)],
        let g := gs e.1
        let c := (at_ g).ctx g
        decide (g.op64 c (.s 8) = 0#64) = e.2.1
        ∧ decide (g.op64 c (.s 4) = BitVec.ofNat 64 (2 ^ 63) ∧ g.op64 c (.s 8) = BitVec.allOnes 64) = e.2.2) :=
  ⟨allRun _ test_decode_salu _ rfl, runs_at _ _ _ (by decide +kernel), by decide +kernel⟩

theorem witness_ScalarWriteRule : 0 < 64 ∧ 60 < 61 ∧ 61 ≤ 61 ∧ 63 < 64 ∧ (0 : Nat) ≠ 63 := by decide

theorem witness_MaskResults : AllRun maskRows g0 := allRun _ test_decode_mask _ rfl

/-- Offsets −1 and 0 stay in .text, −2 and 1 leave it; each condition holds and fails somewhere; the registers name 8, 4
and 16. -/
theorem witness_Transfers :
    AllRun brRows g0 ∧ (at_ g0).textSize g0 = 16
    ∧ (∀ e ∈ [((0 : Nat), true), (2 ^ 32 - 1, true), (2 ^ 32 - 2, false), (1, false)],
        decide (0 ≤ (g0.pc : Int) + 8 + 8 * (BitVec.ofNat 32 e.1).toInt
          ∧ (g0.pc : Int) + 8 + 8 * (BitVec.ofNat 32 e.1).toInt < 16) = e.2)
    ∧ (∀ e ∈ [((5 : Nat), (5 : Nat)), (5, 6), (6, 5)],
        let g := gs [(8, BitVec.ofNat 64 e.2), (20, BitVec.ofNat 64 e.1)]
        g.getS 20 = e.1 ∧ g.getS 8 = e.2)
    ∧ (∃ j ∈ g0.active, g0.help j = false ∧ g0.getQ j 7 = true) ∧ (∃ j ∈ g0.active, g0.help j = false ∧ g0.getQ j 5 = false)
    ∧ (∀ e ∈ [(8#64, 0, true), (4#64, 4, true), (16#64, 0, false)],
        (gs [(20, e.1)]).getS 20 % 8 = e.2.1 ∧ decide ((gs [(20, e.1)]).getS 20 < 16) = e.2.2) :=
  ⟨allRun _ test_decode_br _ rfl, by decide +kernel, by decide +kernel, by decide +kernel, by decide +kernel,
    by decide +kernel, by decide +kernel⟩

/-- A second group of core 0, pending and ready, at the same block. -/
def gW : Group := { g0 with inActive := false, idx := 1 }

theorem witness_ControlWords :
    AllRun ctlRows g0 ∧ (at_ g0).blockOf g0 = some b0 ∧ (at_ g0).bestPending 0 = none
    ∧ (let s := (at_ g0).setGroup 4 gW
       s.cur = some 3 ∧ AMap.find 3 s.groups = some g0 ∧ g0.inActive = true ∧ s.bestPending 0 = some 4
         ∧ AMap.find 4 s.groups = some gW)
    ∧ (∀ e ∈ [(g0, 16, true), (g0, 256, true), (gA, 16, true), (gA, 32, false), (gA, 256, false)],
        e.2.1 % 16 = 0 ∧ 16 ≤ e.2.1 ∧ e.2.1 ≤ 256 ∧ decide (e.2.1 ≤ 16 * e.1.alloc) = e.2.2)
    ∧ (∀ n ∈ [0, 15, 17, 257, 272], ¬ (n % 16 = 0 ∧ 16 ≤ n ∧ n ≤ 256))
    ∧ (∀ n ∈ [16, 256, 257], let g := gs [(4, BitVec.ofNat 64 n)]; (g.op64 ((at_ g).ctx g) (.s 4)).toNat = n)
    ∧ ({ g0 with mtx := true }).mtx = true ∧ g0.mtx = false
    ∧ g0.count .st = 0 ∧ ({ g0 with ops := [Op.make .st .slotStore [] []] }).count .st = 1 :=
  ⟨allRun _ test_decode_ctl _ rfl, block_at _ rfl, by decide +kernel, by decide +kernel, by decide +kernel, by decide +kernel, by decide +kernel,
    rfl, rfl, by decide +kernel, by decide +kernel⟩

/-- A group in its handler; a kernel without one. -/
def gI : Group := { g0 with intrap := true, trappc := 8#64 }

theorem witness_Traps :
    Handles (at_ g0) g0 0 ∧ g0.intrap = false ∧ gI.intrap = true ∧ gI.trappc.toNat % 8 = 0
    ∧ gI.trappc.toNat < (at_ gI).textSize gI
    ∧ ({ gI with trappc := 4#64 }.trappc.toNat % 8 ≠ 0 ∧ (at_ gI).textSize gI ≤ { gI with trappc := 4096#64 }.trappc.toNat)
    ∧ ((at_ g0).setBlock 2 { b0 with node := { placedNode with trap := none } }).handler g0 = none
    ∧ AllRun ctlRows g0 ∧ AllRun ctlRows gI := by
  refine ⟨?_, rfl, rfl, by decide, ?_, ?_, ?_, allRun _ test_decode_ctl _ rfl, allRun _ test_decode_ctl _ rfl⟩
  · show (at_ g0).handler g0 = some 0
    decide +kernel
  · decide +kernel
  · decide +kernel
  · decide +kernel

theorem witness_SpecialRegisters :
    (∀ n : BitVec 7, n.toNat < 14 → (Instr.srd ⟨7, .s 20, .imm n, .v 0, .v 0, 0⟩).wf = true)
    ∧ (∀ n ∈ [2#7, 12#7], (Instr.swr ⟨7, .v 0, .imm n, .s 8, .v 0, 0⟩).wf = true) ∧ AllRun ctlRows g0 :=
  ⟨by decide +kernel, by decide +kernel, allRun _ test_decode_ctl _ rfl⟩

/-! ## Witnesses: lane integer, floating-point and exchange words -/

theorem witness_LaneIntegerResults : AllRun vintRows g0 ∧ AllRun (halvesRows.take 16) g0 :=
  ⟨allRun _ test_decode_vint _ rfl, fun r h => allRun _ test_decode_halves g0 rfl r (List.mem_of_mem_take h)⟩

theorem witness_LaneShiftsAndFields : AllRun vintRows g0 := allRun _ test_decode_vint _ rfl

theorem witness_LaneCarry : AllRun (vintRows.filter (fun r => r.1 / 256 % 256 == 5 || r.1 / 256 % 256 == 6)) g0 :=
  fun r h => allRun _ test_decode_vint g0 rfl r (List.mem_filter.mp h).1

theorem witness_LaneCompareSelect : AllRun vintRows g0 ∧ AllRun vintiRows g0 :=
  ⟨allRun _ test_decode_vint _ rfl, allRun _ test_decode_vinti _ rfl⟩

theorem witness_LaneImmediatesAndAddresses : AllRun vintiRows g0 ∧ AllRun vadrRows g0 :=
  ⟨allRun _ test_decode_vinti _ rfl, allRun _ test_decode_vadr _ rfl⟩

theorem witness_FloatArithmetic : AllRun vfpRows g0 ∧ AllRun vhfpRows g0 ∧ AllRun ((halvesRows.take 26).drop 16) g0 :=
  ⟨allRun _ test_decode_vfp _ rfl, allRun _ test_decode_vhfp _ rfl,
    fun r h => allRun _ test_decode_halves g0 rfl r (List.mem_of_mem_take (List.mem_of_mem_drop h))⟩

/-- E2M1 stands for every format: 1/4 below its least normal, 8 past its grid; 11/2 above and 5 at the midpoint of 4 and 6,
whose codes are 6 and 7. -/
theorem witness_FloatArithmetic_values :
    (1 : Rat) * pow2 (-2) < pow2 Fmt.e2m1.emin ∧ pow2 Fmt.e2m1.emin ≤ (11 : Rat) * pow2 (-1) ∧ Fmt.e2m1.past ≤ (1 : Rat) * pow2 3
    ∧ ¬ Fmt.e2m1.past ≤ (11 : Rat) * pow2 (-1) ∧ (Fmt.e2m1.round .rz false false (.fin false 11 (-1))).1 = 6
    ∧ Fmt.e2m1.maxCode ≠ 6 ∧ Fmt.e2m1.mag 6 + Fmt.e2m1.above 6 < 2 * ((11 : Rat) * pow2 (-1))
    ∧ ¬ Fmt.e2m1.mag 6 + Fmt.e2m1.above 6 < 2 * ((5 : Rat) * pow2 0) ∧ 6 % 2 = 0
    ∧ (FVal.fin true 3 0).finite = true ∧ (FVal.fin true 3 0).rat ≠ 0 ∧ FOp.add ≠ .div ∧ FOp.fma ≠ .sqrt := by
  decide +kernel

/-- Operands of each clause: 1 and 3, zeros, infinities, NaNs, 2, −2, and ones of FP16 that do and do not cancel. -/
theorem witness_FloatArithmetic_quotients :
    (let v := fun k => Fmt.fp32.value k
     (v 0x3F800000).finite = true ∧ (v 0x40400000).rat ≠ 0 ∧ (v 0).rat = 0 ∧ (v 0).finite = true ∧ (v 0x7F800000).isInf = true
       ∧ (v 0x7F800001).isSig = true ∧ (v 0x7FC00000).isNaN = true ∧ 0 < (v 0x40000000).rat ∧ (v 0xC0000000).rat < 0
       ∧ v 0xFF800000 = .inf true ∧ v 0x7F800000 = .inf false)
    ∧ (let h := fun k => Fmt.fp16.value k
       (h 0x3C00).finite = true ∧ (h 0x3C00).rat * (h 0x3C00).rat + (h 0xBC00).rat * (h 0x3C00).rat = 0
         ∧ (h 0x3C00).rat * (h 0x3C00).rat + (h 0x3C00).rat * (h 0x3C00).rat ≠ 0 ∧ (h 0x7E00).isNaN = true) := by
  decide +kernel

/-- A quiet NaN, a signalling one, and numbers. -/
theorem witness_FloatMinMax :
    AllRun vfpRows g0 ∧ AllRun vhfpRows g0
    ∧ (Fmt.fp32.value 0x7FC00000).isNaN = true ∧ (Fmt.fp32.value 0x7F800001).isSig = true
    ∧ (Fmt.fp32.value 0x80000000).isNaN = false ∧ (Fmt.fp32.value 0).isNaN = false :=
  ⟨allRun _ test_decode_vfp _ rfl, allRun _ test_decode_vhfp _ rfl, by decide +kernel, by decide +kernel, by decide +kernel,
    by decide +kernel⟩

theorem witness_FloatCompare :
    AllRun vfpRows g0 ∧ AllRun vhfpRows g0 ∧ (FVal.nan false).isNaN = true ∧ (FVal.nan false).isSig = false
    ∧ (FVal.nan true).isSig = true ∧ (FVal.inf true).isNaN = false :=
  ⟨allRun _ test_decode_vfp _ rfl, allRun _ test_decode_vhfp _ rfl, by decide, by decide, by decide, by decide⟩

theorem witness_FloatSignAndClass : AllRun vfpRows g0 := allRun _ test_decode_vfp _ rfl

/-- Twice a quarter is no integer, and three is no power of two. -/
theorem half_odd (k : Int) : 2 * (FVal.fin false 1 (-2)).rat ≠ (k : Rat) := by
  intro h
  have h := congrArg Rat.den h
  rw [show (2 * (FVal.fin false 1 (-2)).rat).den = 2 by decide +kernel] at h
  exact absurd h (by simp)

theorem three_no_pow (n : Nat) : (3 : Nat) ≠ 2 ^ n := by
  cases n with
  | zero => decide
  | succ n => rw [Nat.pow_succ]; omega

theorem witness_FloatRoundAndApproximate :
    AllRun vfpRows g0
    ∧ (Fmt.fp32.value 0x7FC00000 = .nan false ∧ Fmt.fp32.value 0x7F800001 = .nan true ∧ Fmt.fp32.value 0xFF800000 = .inf true)
    ∧ ((Fmt.fp32.value 0x80000000).isZero = true ∧ (Fmt.fp32.value 0x80000000).finite = true)
    ∧ (Fmt.fp32.value 0xC0000000).rat < 0 ∧ (Fmt.fp32.value 0xC0000000).rat = -pow2 1 ∧ (Fmt.fp32.value 0x40800000).rat = pow2 (2 * 1)
    ∧ (Fmt.fp32.value 0x43000000).rat = ((128 : Int) : Rat) ∧ (127 : Int) < 128 ∧ (-126 : Int) ≤ -2 ∧ (-2 : Int) ≤ 127
    ∧ 2 * (Fmt.fp32.value 0x3FC00000).rat = 2 * ((1 : Int) : Rat) + 1
    ∧ ((Fmt.fp32.value 0x3E800000).rat = (FVal.fin false 1 (-2)).rat ∧ (Fmt.fp32.value 0x3E800000).rat ≠ 0)
    ∧ (∀ k : Int, 2 * (FVal.fin false 1 (-2)).rat ≠ (k : Rat))
    ∧ ((Fmt.fp32.value 0xFF000000).rat = -pow2 127 ∧ (-127 : Int) < -126 ∧ (Fmt.fp32.value 1).rat = pow2 (-149)
        ∧ (Fmt.fp32.value 0xC3150000).rat = ((-149 : Int) : Rat)
        ∧ ((frcp 0 true (Fmt.fp32.value 0x7F000000)).flags &&& flagNX = flagNX ∧ (frcp 0 true (Fmt.fp32.value 0x7F000000)).val % 2 ^ 31 < 2 ^ 23))
    ∧ (Fmt.fp32.value 0x40400000).rat = 3 ∧ ∀ n : Nat, (3 : Nat) ≠ 2 ^ n :=
  ⟨allRun _ test_decode_vfp _ rfl, by decide +kernel, by decide +kernel, by decide +kernel, by decide +kernel, by decide +kernel,
    by decide +kernel, by decide, by decide, by decide, by decide +kernel, by decide +kernel, half_odd, by decide +kernel,
    by decide +kernel, three_no_pow⟩

/-- Every path has a modifier byte, and every element format; each kind of value stands in FP16, BF16, E4M3 and E5M2. -/
theorem witness_FloatConversions :
    AllRun vcvtRows g0 ∧ AllRun ((halvesRows.take 26).drop 25) g0
    ∧ (∀ cv, cv < 20 → cv < 256 ∧ bits cv 4 0 = cv) ∧ (∀ ef, ef < 10 → 16 * ef < 256 ∧ bits (16 * ef) 7 4 = ef)
    ∧ (∀ e ∈ [(Fmt.fp16, 0x7C00), (.bf16, 0x7F80), (.e5m2, 0x7C)], e.1.value e.2 = .inf false)
    ∧ (∀ e ∈ [(Fmt.fp16, 0xFE00), (.bf16, 0x7FC0), (.e4m3, 0x7F), (.e5m2, 0x7E)], (e.1.value e.2).isNaN = true)
    ∧ (∀ e ∈ [(Fmt.fp16, 0x8001), (.bf16, 0x3F80), (.e4m3, 1), (.e5m2, 0xFB)], (e.1.value e.2).finite = true)
    ∧ (255 % 256 = 255 ∧ 254 % 256 ≠ 255) :=
  ⟨allRun _ test_decode_vcvt _ rfl,
    fun r h => allRun _ test_decode_halves g0 rfl r (List.mem_of_mem_take (List.mem_of_mem_drop h)),
    by decide +kernel, by decide +kernel, by decide +kernel, by decide +kernel, by decide +kernel, by decide⟩

theorem witness_FloatValues :
    Fmt.fp32.hasNaN = true
    ∧ (([0x7FC00000, 0, 0].take (FOp.arity .add)).map Fmt.fp32.value).any FVal.isNaN = true
    ∧ (([0x7F800001, 0, 0].take (FOp.arity .add)).map Fmt.fp32.value).any FVal.isSig = true
    ∧ ([FVal.nan false].any FVal.isNaN = true)
    ∧ ([FVal.inf false, FVal.fin false 1 0].any FVal.isNaN = false) ∧ FVal.inf true ∉ [FVal.inf false, FVal.fin false 1 0]
    ∧ [FVal.fin true 0 0, FVal.fin false 0 0].all FVal.isZero = true
    ∧ [FVal.fin true 1 0, FVal.fin false 1 0].all FVal.isZero = false
    ∧ sumUnits (minExp [FVal.fin true 1 0, FVal.fin false 1 0] 0) [FVal.fin true 1 0, FVal.fin false 1 0] = 0
    ∧ (-128 : Int) ≤ 0 ∧ (0 : Int) ≤ 127 ∧ (FVal.nan true).isNaN = true ∧ (roundInt .rz true 129 0).1 < -128 ∧ 127 < (roundInt .rz false 128 0).1 ∧ (roundInt .rz false 127 0).1 = 127 := by
  decide +kernel

theorem witness_LaneMoves :
    AllRun xlaneRows g0 ∧ kVec (.v 20) = true ∧ AMap.find 5 g2.lanes = none ∧ (AMap.find 1 g2.lanes).isSome = true
    ∧ g2.shares 0 1 = false ∧ g2.shares 0 0 = true :=
  ⟨allRun _ test_decode_xlane _ rfl, by decide, by decide +kernel, by decide +kernel, by decide +kernel, by decide +kernel⟩

theorem witness_LaneFolds :
    AllRun xlaneRows gS ∧ (∀ x ∈ [0, 2 ^ 31, 2 ^ 32 - 1], x < 2 ^ 32) ∧ ∀ opr, opr < 8 → opr ≠ 8 ∧ opr ≠ 9 ∧ opr ≠ 10 :=
  ⟨allRun _ test_decode_xlane _ rfl, by decide, by omega⟩

/-- One owner, two owners, no active lane; a guard that no lane passes; a lane outside the roster. -/
theorem witness_ScalarExchange :
    AllRun xlaneRows gS ∧ AllRun xlaneRows g2 ∧ AllRun xlaneRows gN
    ∧ (Instr.vbcast ⟨7, .s 20, .s 4, .s 8, .v 0, 0⟩).wf = true ∧ kScal (.s 20) = true
    ∧ gS.ownerCheck = none ∧ gS.leading = some 0 ∧ g2.ownerCheck = some (0x41 + 256) ∧ gN.ownerCheck = some 0x42
    ∧ gS.parts 7 = [0, 1] ∧ gS.parts 3 = [] ∧ AMap.find 96 gS.lanes = none ∧ gS.shares 0 1 = true :=
  ⟨allRun _ test_decode_xlane _ rfl, allRun _ test_decode_xlane _ rfl, allRun _ test_decode_xlane _ rfl, by decide +kernel,
    by decide, by decide +kernel, by decide +kernel, by decide +kernel, by decide +kernel, by decide +kernel, by decide +kernel,
    by decide +kernel, by decide +kernel⟩

theorem witness_Ballots :
    AllRun xlaneRows gS ∧ (∀ r ∈ [rowR3 .vote ⟨7, .v 253, .q 4, .v 0, .v 0, 0⟩ 0, rowR3 .vote ⟨7, .s 20, .q 4, .v 0, .v 0, 0⟩ 0,
        rowR3 .vote ⟨3, .s 20, .q 4, .v 0, .v 0, 0⟩ 0,
        rowR3 .vote ⟨7, .q 5, .q 4, .v 0, .v 0, 8⟩ 0, rowR3 .vote ⟨7, .q 5, .q 4, .v 0, .v 0, 16⟩ 0,
        rowR3 .vmatch ⟨7, .v 253, .v 4, .v 0, .v 0, 0⟩ 0], r.2.1.wf = true ∧ spansOk 256 r.2.2 = true)
    ∧ gS.ownerCheck = none ∧ gS.parts 7 ≠ [] ∧ gS.parts 3 = [] ∧ g2.ownerCheck = some (0x41 + 256) :=
  ⟨allRun _ test_decode_xlane _ rfl, by decide +kernel, by decide +kernel, by decide +kernel, by decide +kernel, by decide +kernel⟩
/-! ## Witnesses: memory words -/

/-- Vector registers as given, keyed 256 × lane + register. -/
def gv (l : List (Nat × BitVec 32)) : Group := { g0 with v := l }

theorem witness_LaneAccesses :
    AllRun vmemRows g0 ∧ (Instr.vld ⟨7, .v 20, .v 4, .imm 127, 2, 0, 0, 0⟩).wf = true
    ∧ (Instr.vst ⟨7, .v 20, .v 4, .imm 127, 2, 0, 0, 0⟩).wf = true
    ∧ (∀ e ∈ [(0, true), (4, true), (1, false), (6, false)],
        let g := gv [(4, BitVec.ofNat 32 e.1)]
        g.working 7#4 = [] ++ 0 :: [] ∧ decide (g.vaddr ((at_ g).ctx g) ⟨7, .v 20, .v 4, .imm 127, 2, 0, 0, 0⟩ 0 0 % 4 = 0) = e.2)
    ∧ (let g : Group := { gS with v := [(256 + 4, 1#32)] }
       g.working 7#4 = [0] ++ 1 :: [] ∧ g.vaddr ((at_ g).ctx g) ⟨7, .v 20, .v 4, .imm 127, 2, 0, 0, 0⟩ 0 0 % 4 = 0
         ∧ g.vaddr ((at_ g).ctx g) ⟨7, .v 20, .v 4, .imm 127, 2, 0, 0, 0⟩ 0 1 % 4 ≠ 0) :=
  ⟨allRun _ test_decode_vmem _ rfl, by decide +kernel, by decide +kernel, by decide +kernel, by decide +kernel⟩

/-- Offsets inside, at the end of, below and past a window of 4,096 bytes; inside and past 1,024 bytes of slots. -/
theorem witness_WindowAccesses :
    AllRun vmemRows g0 ∧ (at_ g0).scratchOf g0 = 4096
    ∧ ∀ e ∈ [(0, 0, true, true), (1020, 0, true, true), (1024, 0, true, false), (4092, 0, true, false), (4096, 0, false, false),
             (2 ^ 32 - 4, 0, false, false), (2, 2, true, true)],
        let g := gv [(4, BitVec.ofNat 32 e.1)]
        let o := g.woff ((at_ g).ctx g) ⟨7, .v 20, .v 4, .imm 127, 2, 0, 0, 0⟩ 0
        g.working 7#4 = [0] ∧ g.parts 7 = [0, 1, 2, 3] ∧ o % 4 = e.2.1 ∧ decide (0 ≤ o ∧ o + 4 ≤ 4096) = e.2.2.1
          ∧ decide (0 ≤ o ∧ o + 4 ≤ 64 * g.alloc) = e.2.2.2 :=
  ⟨allRun _ test_decode_vmem _ rfl, by decide +kernel, by decide +kernel⟩

/-- The block with a data section of 16 bytes. -/
def bD : Block := { b0 with node := { placedNode with dataSize := 16 } }

theorem witness_ScalarAccesses :
    AllRun smemRows g0 ∧ AllRun smemRows g2 ∧ g0.ownerCheck = none ∧ g2.ownerCheck = some (0x41 + 256)
    ∧ (Instr.sldc ⟨7, .s 20, .s 4, .imm 127, 2, 0, 0, 0⟩).wf = true
    ∧ Issues ((at_ g0).setBlock 2 bD) 3 g0 ∧ ((at_ g0).setBlock 2 bD).blockOf g0 = some bD
    ∧ (∀ e ∈ [(0, 0, true), (12, 0, true), (2, 2, true), (16, 0, false)],
        let g := gs [(4, BitVec.ofNat 64 e.1)]
        let a := g.saddr ((at_ g).ctx g) ⟨7, .s 20, .s 4, .imm 127, 2, 0, 0, 0⟩ 0
        a % 4 = e.2.1 ∧ decide (a + 4 ≤ bD.node.dataSize) = e.2.2) :=
  ⟨allRun _ test_decode_smem _ rfl, allRun _ test_decode_smem _ rfl, by decide +kernel, by decide +kernel, by decide +kernel,
    ⟨rfl, find_put 3 g0 _⟩, by decide +kernel, by decide +kernel⟩

theorem witness_Atomics :
    AllRun vamoRows g0 ∧ AllRun samoRows g0 ∧ AllRun samoRows g2 ∧ g0.ownerCheck = none ∧ g2.ownerCheck = some (0x41 + 256)
    ∧ (∀ e ∈ [(0, 0), (1, 1)],
        let g := gv [(4, BitVec.ofNat 32 e.1)]
        g.working 3#4 = [] ∧ g.working 7#4 = [] ++ 0 :: []
          ∧ g.vaddr ((at_ g).ctx g) ⟨7, .v 20, .v 4, .imm 127, 2, 0, 0, 0⟩ 0 0 % 4 = e.2)
    ∧ (∀ e ∈ [(0, 0), (1, 1)],
        let g := gs [(4, BitVec.ofNat 64 e.1)]
        g.saddr ((at_ g).ctx g) ⟨7, .s 20, .s 4, .imm 127, 2, 0, 0, 0⟩ 0 % 4 = e.2) :=
  ⟨allRun _ test_decode_vamo _ rfl, allRun _ test_decode_samo _ rfl, allRun _ test_decode_samo _ rfl, by decide +kernel,
    by decide +kernel, by decide +kernel, by decide +kernel⟩

/-! ## Witnesses: engines, cohorts, fences, emission -/

theorem witness_EngineCommands :
    AllRun engRows g0 ∧ AllRun engRows g2 ∧ g0.ownerCode = 0 ∧ g2.ownerCode = 1 ∧ gN.ownerCode = 2 :=
  ⟨allRun _ test_decode_eng _ rfl, allRun _ test_decode_eng _ rfl, by decide +kernel, by decide +kernel, by decide +kernel⟩

theorem witness_CohortWords :
    AllRun engRows g0 ∧ AllRun engRows g2 ∧ AllRun syncRows g0 ∧ (at_ g0).blockOf g0 = some b0 ∧ 0 < b0.node.xbank
    ∧ (at_ g2).blockOf g2 = some b0 ∧ b0.bufUsed + 4 * (g0.working 7#4).length ≤ 65536
    ∧ { b0 with node := { placedNode with xbank := 0 } }.node.xbank = 0
    ∧ 65536 < { b0 with bufUsed := 65536 }.bufUsed + 4 * (g0.working 7#4).length
    ∧ { b0 with bufUsed := 65532 }.bufUsed + 4 * (g0.working 7#4).length ≤ 65536 ∧ g0.ownerCode = 0 ∧ g2.ownerCode ≠ 0 :=
  ⟨allRun _ test_decode_eng _ rfl, allRun _ test_decode_eng _ rfl, allRun _ test_decode_sync _ rfl, block_at _ rfl,
    by decide +kernel, block_at _ rfl, by decide +kernel, rfl, by decide +kernel, by decide +kernel, by decide +kernel, by decide +kernel⟩

/-- Every order of a fence; a point whose count is below, and at, the new expectation; tokens of an earlier and of the
present phase. -/
theorem witness_SynchronisationWords :
    AllRun syncRows g0 ∧ (at_ g0).blockOf g0 = some b0
    ∧ (Instr.fence ⟨7, .v 0, .v 0, .v 0, .v 0, 0x4F⟩).wf = true ∧ (0x4F#8).getLsbD 3 = true
    ∧ 2 ≤ ((0x4F#8).extractLsb' 4 3).toNat
    ∧ (b0.point 4).count < 1 ∧ 1 ≤ ({ b0 with points := [(4, ⟨0, 2, 1⟩)] }.point 4).count
    ∧ (∀ e ∈ [(2 ^ 32 - 1, true), (0, false), (1, false), (2 ^ 31, true)],
        let d := ((b0.point 4).phase + 2 ^ 32 - e.1 % 2 ^ 32) % 2 ^ 32
        decide (1 ≤ d ∧ d ≤ 2 ^ 31) = e.2) :=
  ⟨allRun _ test_decode_sync _ rfl, block_at _ rfl, by decide +kernel, by decide, by decide, by decide +kernel, by decide +kernel,
    by decide +kernel⟩

/-- A graph of one node whose port 3 has an edge to itself. -/
def grE : Graph :=
  { nodes := [{ placedNode with ports := 4 }], edges := [⟨0, 3, 0⟩], firstSlot := 0, placed := [], unloading := false, sacks := [] }
def sE : State := (at_ g0).setPart 0 { (at_ g0).part 0 with graphs := [(0, grE)] }

theorem witness_Emission :
    Issues sE 3 g0 ∧ (Instr.emit ⟨7, .v 0, .imm 3, .v 240, .v 0, 0⟩).wf = true ∧ sE.edgesOf g0 3 ≠ [] ∧ sE.emitWords g0 3 = 16
    ∧ sE.edgesOf g0 2 = [] ∧ sE.slotOf g0 = some (0, 0) ∧ (g0.parts 7).filter (fun j => !g0.help j) = [0]
    ∧ 240 + 16 - 1 ≤ 255 ∧ 255 < 241 + 16 - 1 ∧ AllRun ctlRows g0 ∧ AllRun ctlRows gN :=
  ⟨⟨rfl, find_put 3 g0 _⟩, by decide +kernel, by decide +kernel, by decide +kernel, by decide +kernel, by decide +kernel,
    by decide +kernel, by decide, by decide, allRun _ test_decode_ctl _ rfl, allRun _ test_decode_ctl _ rfl⟩

/-! ## Witnesses: matrix mode -/

def gG : Group := { g0 with grid := true }
def gM : Group := { g0 with grid := true, mtx := true, s := [(4, 1056#64), (8, 1056#64), (61, 1#64)] }

theorem witness_GridAndMode :
    AllRun mtxRows g0 ∧ AllRun mtxRows gG ∧ AllRun mtxRows gM ∧ (at_ g0).blockOf g0 = some b0
    ∧ (at_ gM).blockOf gM = some b0 ∧ g0.rosterCheck = none ∧ gN.rosterCheck = some 0x42 ∧ g2.rosterCheck = some (0x44 + 256)
    ∧ ((at_ g0).core 0).holder = none ∧ b0.node.grid = true
    ∧ (((at_ g0).setCore 0 { (at_ g0).core 0 with holder := some 9 }).core 0).holder ≠ none
    ∧ gG.grid = true ∧ gG.mtx = false ∧ gM.mtx = true ∧ 16 ≤ gG.alloc ∧ { gG with alloc := 15 }.alloc < 16
    ∧ Runs (.modeM ⟨7, .v 0, .v 0, .v 0, .v 0, 1⟩) [] (at_ { gG with alloc := 15 }) 3 { gG with alloc := 15 }
    ∧ Runs (.modeM ⟨7, .v 0, .v 0, .v 0, .v 0, 1⟩) [] (at_ { g2 with grid := true }) 3 { g2 with grid := true } :=
  ⟨allRun _ test_decode_mtx _ rfl, allRun _ test_decode_mtx _ rfl, allRun _ test_decode_mtx _ rfl, block_at _ rfl, block_at _ rfl,
    by decide +kernel, by decide +kernel, by decide +kernel, by decide +kernel, by decide +kernel, by decide +kernel, rfl, rfl, rfl,
    by decide +kernel, by decide, runs_at _ _ _ (by decide +kernel), runs_at _ _ _ (by decide +kernel)⟩

theorem witness_AccumulatorMoves :
    AllRun mtxRows gM ∧ AllRun mtxRows g0 ∧ (at_ gM).blockOf gM = some b0 ∧ g0.mtx = false
    ∧ (∀ e ∈ [(0, true), (1056, true), (1088, false), (16, false)],
        let g := gs [(4, BitVec.ofNat 64 e.1)]
        let r := g.srcU ((at_ g).ctx g) (.s 4)
        decide (r % 32 = 0 ∧ r ≤ 1056) = e.2) :=
  ⟨allRun _ test_decode_mtx _ rfl, allRun _ test_decode_mtx _ rfl, block_at _ rfl, rfl, by decide +kernel⟩

/-- Format words of an integer pair, an MX pair and an AQ pair. -/
theorem witness_OuterProduct :
    ∀ e ∈ [(0xA5000D4A, PairClass.int, ({ g := 7, f := .s 4, a := .v 8, b := .v 12, sa := .v 0, sb := .v 0, rsv := 0, acc := true, np := false, ge := false, gs := false } : FX)),
           (0xA5000C84, .mx, { g := 7, f := .s 4, a := .v 8, b := .v 12, sa := .v 16, sb := .v 17, rsv := 0, acc := true, np := false, ge := false, gs := false }),
           (0xA500014B, .aq, { g := 7, f := .s 4, a := .v 8, b := .v 12, sa := .v 16, sb := .v 17, rsv := 0, acc := true, np := false, ge := false, gs := true })],
      let g : Group := { gM with s := [(4, BitVec.ofNat 64 e.1), (61, 1#64)] }
      g.vote e.2.2.f = .inr e.1 ∧ fwCheck e.1 = none ∧ pairClass (fwA e.1) (fwB e.1) = some e.2.1
        ∧ (Instr.mopa e.2.2).wf = true
        ∧ spansOk (16 * g.alloc) (mopaSpans e.2.2 (fwRegs e.1 (fwA e.1)) (fwRegs e.1 (fwB e.1))) = true
        ∧ 12 + max (fwRegs e.1 (fwA e.1)) (fwRegs e.1 (fwB e.1)) ≤ 160
        ∧ groupFlags e.2.2 e.1 e.2.1 ((at_ g).core 0).aq = true
        ∧ groupFlags { e.2.2 with ge := !e.2.2.ge } e.1 e.2.1 ((at_ g).core 0).aq = false
        ∧ (Instr.mopa { e.2.2 with ge := !e.2.2.ge }).wf = true ∧ g.mtx = true ∧ g0.mtx = false := by
  decide +kernel

/-- Table 11.5 check by check: the format word, the operands, the flags, and the group's state, each as its check finds it. -/
theorem witness_OuterProduct_checks :
    (let x : FX := { g := 7, f := .s 4, a := .v 8, b := .v 12, sa := .v 0, sb := .v 0, rsv := 0, acc := true, np := false, ge := false, gs := false }
     (∀ e ∈ [(0xA4000D4A, some 0x52), (0xA5004D4A, some 0x52), (0xA5000C0E, some 0x53), (0xA500094A, some 0x54), (0xA5000D4A, none)],
        fwCheck e.1 = e.2)
     ∧ (∀ a ∈ [1, 16], spansOk (16 * a) (mopaSpans x 4 4) = true)
     ∧ spansOk 16 (mopaSpans { x with b := .v 13 } 4 4) = false
     ∧ inCells (.v 160) 1 = true ∧ inCells (.v 157) 4 = true ∧ inCells (.v 156) 4 = false)
    ∧ (let g : Group := { gS with v := [(4, 7), (256 + 4, 8)] }
       g.active = [0, 1] ∧ g.getV 1 4 ≠ g.getV 0 4 ∧ g.vote (.v 4) = .inl 1 ∧ g.vote (.v 5) = .inr 0 ∧ gN.vote (.v 4) = .inl 0) := by
  decide +kernel

/-- The cells: sums that are and are not zero, a NaN scale; an open AQ group under the word's format, closed by its GE word. -/
theorem witness_OuterProduct_cells :
    (let v := fun k => Fmt.e4m3.value k
     (v 0x38).finite = true ∧ (v 0x38).rat * (v 0x38).rat ≠ 0 ∧ (v 0).rat = 0 ∧ (e8m0Value 255).isNaN = true ∧ (e8m0Value 127).finite = true)
    ∧ (let x : FX := { g := 7, f := .s 4, a := .v 8, b := .v 12, sa := .v 16, sb := .v 17, rsv := 0, acc := true, np := false, ge := true, gs := false }
       let s := (at_ gM).setCore 0 { (at_ gM).core 0 with aq := { aqClosed with isOpen := true, fw := 0xA500014B } }
       (s.core 0).aq.fw = 0xA500014B ∧ x.gs = false ∧ (Fmt.fp16.value 0x3C00).finite = true ∧ (Fmt.fp16.value 0x7E00).isNaN = true) := by
  decide +kernel

theorem witness_ScaleAndAccumulatorCopies :
    AllRun mtxRows g0 ∧ AllRun mtxRows gM ∧ AllRun mtxRows g2 ∧ (at_ gM).blockOf gM = some b0
    ∧ g0.ownerCheck = none ∧ g2.ownerCheck = some (0x41 + 256)
    ∧ (Instr.ldsc ⟨7, .v 160, .s 4, .s 8, .s 12, 0⟩).wf = true
    ∧ (∀ e ∈ [(0, 4, 0), (128, 0, 0), (0, 3, 1535), (0, 3, 1536)],
        let g := gs [(4, BitVec.ofNat 64 e.1), (8, BitVec.ofNat 64 e.2.1), (12, BitVec.ofNat 64 e.2.2)]
        let c := (at_ g).ctx g
        g.srcU c (.s 4) = e.1 ∧ g.srcU c (.s 8) = e.2.1 ∧ g.srcU c (.s 12) = e.2.2)
    ∧ g0.acpyCheck ⟨7, .v 0, .s 4, .s 8, .s 12, 0⟩ 0 0 0 0 4 4096 = some (0x07, 0x71)
    ∧ gG.acpyCheck ⟨7, .v 0, .s 4, .s 8, .s 12, 0⟩ 0 1056 1056 0 4 4096 = none
    ∧ gG.acpyCheck ⟨7, .v 0, .s 4, .s 8, .s 12, 0⟩ 0 1088 0 0 4 4096 = some (0x08, 0x36) :=
  ⟨allRun _ test_decode_mtx _ rfl, allRun _ test_decode_mtx _ rfl, allRun _ test_decode_mtx _ rfl, block_at _ rfl,
    by decide +kernel, by decide +kernel, by decide +kernel, by decide +kernel, by decide +kernel, by decide +kernel,
    by decide +kernel⟩
/-! ## Witnesses: events at a core -/

/-- A registered stamp whose one range maps 4 KiB of virtual addresses from 0 to IA 0, readable and writable. -/
def st1 : StampReg :=
  { table := 0, cls := 0, hh := 0, prot := false, context := 0, ring := 0, logSize := 4, serial := 0,
    descs := [7, 4096, 2, 1] ++ List.replicate 124 0, oldTable := none }

/-- The map entry of a partition with cluster 0, slice 0, engine 0, every way and slot, no quota, and memory range 0. -/
def map0 : List (BitVec 64) :=
  [0x8000FFFFFFFF0000#64, 0xFFFFFFFF#64, 0#64, 0#64, 1#64, 0#64, 1#64] ++ List.replicate 9 0#64 ++ [1#64, 0#64, 1#64]
    ++ List.replicate 109 0#64

/-- A partition that exists and runs. -/
def q0 : Partition := { Partition.reset with map := map0, tdiRun := true, stamps := [(1, st1)], graphs := [(0, { grE with nodes := [placedNode] })] }

/-- IA granule 0 stands in the quadrant's TLB. -/
def tl : TlbEntry :=
  { quad := 0, slice := none, part := 0, gran := 0, pa := 0, r := true, w := true, x := true, keyid := 0, d := true, guests := [] }

/-- The group of a partition that runs. -/
def run_ (g : Group) : State := { (at_ g).setPart 0 q0 with tlb := [tl] }

theorem stands_at (g : Group) (h : g.block = 2) : Stands (at_ g) 3 g b0 := by
  refine ⟨find_put 3 g _, ?_, by decide +kernel⟩
  exact block_at g h

/-- A block with a reserve of 48 granules. -/
def bS : Block := { b0 with spare := List.range 48, node := { placedNode with regs := 32 } }

/-- One waiting state for each event that ends a wait. -/
theorem witness_WaitsEnd :
    (∀ w, Stands (at_ { g0 with wait := w }) 3 { g0 with wait := w } b0)
    ∧ ({ g0 with sealDue := true }.sealDue = true ∧ g0.ops = [])
    ∧ (g0.ops.filter (fun o => o.path = .ld)).length ≤ 0
    ∧ (let e := ((b0.point 4).phase + 2 ^ 32 - (2 ^ 32 - 1) % 2 ^ 32) % 2 ^ 32; 1 ≤ e ∧ e ≤ 2 ^ 31)
    ∧ (∀ e ∈ (at_ g0).reqs, e.1 < 7 → e.2.block = g0.block → e.2.outTo 4 = false)
    ∧ (bitAt 0x4F 0 = true ∧ bitAt 0x4F 2 = true ∧ 3 ≤ 0x4F / 16 % 8 ∧ g0.clearOf [.ld, .at] 7 = true
        ∧ g0.clearOf [.st, .at] 7 = true ∧ (at_ g0).storesOut g0 4 7 = false)
    ∧ ((growDraw b0 3 g0 256).2 = 0)
    ∧ ((growDraw b0 3 { gA with grans := [] } 256).2 ≠ 0)
    ∧ (let g : Group := { gA with wait := .grow 256, grans := [] }
       (at_ g).charged 0 + (growDraw b0 3 g 256).2 ≤ 960 ∧ (at_ g).olderGrower b0 3 g = false)
    ∧ (bS.serves 3 256 = true ∧ (growDraw bS 3 gA 256).1 ≤ bS.spare.length)
    ∧ (∀ o ∈ g0.ops, o.topReg ≤ 16) ∧ (∀ o ∈ g0.ops, o.kind = .grid → o.complete = true)
    ∧ { g0 with grid := true }.grid = true
    ∧ (let g : Group := { g0 with arrivals := [(4, 0, 7)] }
       g.arrivals.find? (fun a => a.1 == 4) = some (4, 0, 7) ∧ (b0.point 4).phase = 0 ∧ g.clearOf [.ld, .st, .at] 7 = true)
    ∧ (b0.point 4).expect ≤ (b0.point 4).count + 1
    ∧ ({ b0 with points := [(4, ⟨0, 2, 0⟩)] }.point 4).count + 1 < ({ b0 with points := [(4, ⟨0, 2, 0⟩)] }.point 4).expect := by
  refine ⟨fun w => stands_at _ rfl, ?_⟩
  decide +kernel

/-- Group 4 is pending and has been ready since clock 0. -/
def sW (clk : Nat) : State := ((at_ g0).setGroup 4 gW).setCore 0 { (at_ g0).core 0 with clk := clk }

theorem witness_ActiveSet :
    ((sW 512).groupsOn 0).find? (fun e => e.2.inActive && e.2.slot == 0) = some (3, g0)
    ∧ AMap.find 3 (sW 512).groups = some g0 ∧ (sW 512).bestPending 0 = some 4 ∧ AMap.find 4 (sW 512).groups = some gW ∧ 4 ≠ 3
    ∧ g0.since + 512 ≤ ((sW 512).core 0).clk
    ∧ (sW 4096).blockOf gW = some b0 ∧ b0.mode ≠ .saved ∧ gW.inActive = false ∧ (sW 4096).waits gW = false
    ∧ gW.since + 4096 ≤ ((sW 4096).core 0).clk := by
  decide +kernel

/-- An operation of kind k on path p of lane 0, its lane at `st`. -/
def op1 (p : Path) (k : OpKind) (st : LaneSt) : Op := { Op.make p k [{ LaneReq.make 0 0 with st := st }] [0] with id := 7, size := 4 }
def gOp (o : Op) : Group := { g0 with ops := [o] }

theorem standsOp_at (o : Op) : StandsOp (at_ (gOp o)) 3 (gOp o) b0 o := by
  refine ⟨stands_at _ rfl, ?_⟩
  simp [Group.findOp, gOp]

/-- Every kind of operation whose answers land, answered in its one lane. -/
theorem witness_AnswersLand :
    ∀ k ∈ [(Path.ld, OpKind.load false 20), (.ld, .slotLoad 252), (.ld, .scratchLoad 20), (.ld, .load true 20), (.ld, .constLoad 20),
           (.st, .store false 20 false), (.st, .store true 20 false), (.st, .store false 20 true), (.st, .store true 20 true),
           (.st, .scratchStore), (.st, .slotStore), (.at, .atomic false 20 .add none), (.at, .atomic false 20 .add (some 21)),
           (.at, .atomic true 20 .add none), (.at, .atomic true 20 .add (some 21))],
      let o := op1 k.1 k.2 .answered
      (o.lanes.map LaneReq.lane).Nodup ∧ o.unfinished = false ∧ o.lanes.filter (fun r => r.st == .answered) = o.lanes
        ∧ (gOp o).acquireBefore o.id = false ∧ (gOp o).scratchBehind o = false
        ∧ (setBits 96 0 (1#96).toNat).contains 0 = true ∧ 252 + (o.size + 3) / 4 ≤ 256 ∧ (gOp o).findOp o.id = some o := by
  decide +kernel

/-- The constant of an SLDC has come. -/
theorem witness_AnswersLand_const :
    let o := op1 .ld (.constLoad 20) .answered
    let r : Req := { ((gOp o).actor b0 3 7 1 0 0).req 0 0 (.readBytes 4) with st := .unitData 9 }
    let s := { run_ (gOp o) with reqs := [(5, r)] }
    s.unitRead 3 7 0 4 = some r ∧ r.laid = (0, 0) ∧ 9 < 2 ^ (8 * o.size) ∧ (gOp o).acquireBefore 7 = false := by
  decide +kernel

def isInr {α β γ : Type} (x : Sum α β × γ) : Bool :=
  match x.1 with
  | .inr _ => true
  | .inl _ => false

/-- The copy of 32 bytes from address 0 to address 64, whose bytes have come to the engine. -/
def oCp : Op := { op1 .cp (.copy 20 64 0 32 1 0 0 0) .waiting with stamp := 1 }
def uCp : Actor := (run_ (gOp oCp)).engineActor (gOp oCp) b0 3 oCp
def sCp : State := { run_ (gOp oCp) with reqs := [(5, { uCp.req 0 0 (.readBytes 32) with st := .unitData 7 })], nextId := 9 }
def isGot (x : Gathered) : Bool :=
  match x with
  | .got _ => true
  | .waits | .fails _ _ => false
def isSome' {α β : Type} (x : Sum α (Option β)) : Bool :=
  match x with
  | .inr y => y.isSome
  | .inl _ => false
/-- A scale column whose 24 rows have come. -/
def oSc : Op := { op1 .mx (.ldsc 20) .waiting with stamp := 1 }
def uSc : Actor := (gOp oSc).actor b0 3 7 1 0 0
def sSc : State :=
  { run_ (gOp oSc) with reqs := (List.range 24).map (fun i => (10 + i, { uSc.req (16 * i) 0 (.readBytes 16) with st := .unitData i })) }

/-- A copy of accumulators to scratch. -/
def oAc : Op := { op1 .mx (.acpy false 0 0 0 4 0 true (List.replicate 9216 0)) .waiting with stamp := 1 }
def jAc : AcpyJob := { base := 0, row := 0, col := 0, pitch := 4, cv := 0 }

/-- Commands that wait at an engine: refused; a copy done in full, with no command before it; a DISCARD, and one whose
packets are performed; words of the grid, scales read
from memory, tiles and messages. -/
theorem witness_CommandsEnd :
    (∀ o : Op, StandsOp (at_ (gOp o)) 3 (gOp o) b0 o) ∧ (∃ r ∈ oCp.lanes, r.st = .waiting)
    ∧ (run_ (gOp oCp)).unperformedBefore (gOp oCp).block 7 = false ∧ (run_ (gOp oCp)).engineTurn 0 0 7 = true
    ∧ sCp.writesDone 3 7 = true ∧ (0 : Nat) < 1 * (32 / 16)
    ∧ (let x := State.gatherParts uCp (sideParts 0 32 0 0 2) sCp
       isGot x.1 = true ∧ isInr (State.reachAll uCp true (sideParts 64 32 0 0 2) x.2) = true)
    ∧ (∀ m, m < 2 → inSource 0 32 1 0 (copyAddr 64 32 0 (0 + m)) = false)
    ∧ (∀ p ∈ [0, 1], let o := { op1 .cp (.discard 20 5 0) .waiting with progress := p }
       (run_ (gOp o)).engineTurn 0 0 7 = true ∧ (run_ (gOp o)).writesDone 3 7 = true ∧ ∃ r ∈ o.lanes, r.st = .waiting)
    ∧ (gOp oAc).acquireBefore 7 = false ∧ (gOp oAc).scratchBefore oAc false jAc = false
    ∧ isGot (State.loadParts uSc (gOp oSc) b0 (partsWithin 16 0 384) sSc).1 = true
    ∧ ((op1 .xc (.xput true 20) .answered).lanes.map LaneReq.lane).Nodup
    ∧ 20 + ((op1 .xc (.xput true 20) .answered).size + 3) / 4 ≤ 256 := by
  refine ⟨fun o => standsOp_at o, ?_⟩
  decide +kernel

/-- A release, a full buffer, a fault, a parked course, a split's copy, a cohort arrival. -/
theorem witness_ReleasesAndParking :
    (∀ k ∈ [OpKind.store false 20 true, .atomic false 20 .add none, .emit],
      let o : Op := { op1 .st k .waiting with rel := 4 }
      (gOp o).findOp o.id = some o ∧ o.rel ≠ 0 ∧ (∃ r ∈ o.lanes, r.st = .waiting) ∧ (gOp o).mayStart o = true
        ∧ (at_ (gOp o)).behindUnit 3 (gOp o) o = false ∧ (gOp o).releaseReady o.id = true ∧ b0.buffer = [] ∧ (at_ (gOp o)).unperformed 0 o.rel = false)
    ∧ (let o := op1 .st (.store false 20 true) .waiting
       b0.buffer = [] ∧ b0.bufUsed + o.size * (o.lanes.filter (fun r => r.st == .waiting)).length ≤ 65536
         ∧ { gOp o with wait := .bufferFull 7 }.findOp 7 = some o)
    ∧ (let o := op1 .ld (.load false 20) (.faulted 2)
       o.kind.whole = false ∧ (∃ r ∈ o.lanes, r.st = .faulted 2 ∧ r.lane ∈ (gOp o).roster) ∧ (AMap.find 0 (gOp o).lanes).isSome = true)
    ∧ (let g : Group := { g0 with courses := [[5], [1]] }
       g.atBoundary = true ∧ g.roster.filter (fun j => [5].contains (g.xs j)) = [])
    ∧ (g0.roster.filter (fun j => [1].contains (g0.xs j))).length = g0.roster.length
    ∧ (let g : Group := { g2 with courses := [[1]] }
       g.atBoundary = true ∧ g.roster.filter (fun j => [1].contains (g.xs j)) = [0] ∧ g.split = false ∧ g.grid = false
         ∧ (at_ g).freePlace 0 = some 1 ∧ (at_ g).charged 0 + (splitDraw b0 g.alloc).2 ≤ 960)
    ∧ { g0 with copying := some 4 }.copying = some 4
    ∧ (let o := op1 .xc (.cbar 0) .done
       let g := gOp o
       ∃ c, AMap.find b0.cohort (at_ g).cohorts = some c ∧ g.split = false ∧ c.phase = 0 ∧ g.clearOf [.st, .at, .xc] 7 = true ∧ (∀ x ∈ c.sends, x.1 = b0.idx → 7 ≤ x.2.2.2.2.2)
         ∧ (at_ g).storesOut g 3 7 = false ∧ o.complete = false ∧ o.progress = 0) := by
  refine ⟨?_, ?_, ?_, ?_, ?_, ?_, rfl, ?_⟩
  · decide +kernel
  · decide +kernel
  · decide +kernel
  · decide +kernel
  · decide +kernel
  · decide +kernel
  · exact ⟨{ part := 0, cluster := 0, blocks := [2], phase := 0, expect := 1, count := 0, sends := [] }, by decide +kernel⟩
/-! ## Witnesses: the host, peers, the slices -/

/-- Firmware ready and partition 0 at `q`. -/
def hostAt (q : Partition) : State := { State.reset with fwstat := 5#64, parts := [(0, q)], tlb := [tl] }

theorem open_at (q : Partition) (h : (q.valid && q.tdiRun) = true) : Open (hostAt q) 0 := by
  have h := Bool.and_eq_true_iff.mp h
  exact ⟨rfl, by decide, h.1, h.2⟩

def parg (l : List (BitVec 64)) : Partition := { q0 with parg := l ++ List.replicate 6 0#64 }

/-- The device's reads of 1 KiB from IA 0, for a table and for data, as they have come. -/
def came (st : ReqSt) : State :=
  let s := hostAt q0
  let asks : DevUse → Nat → List (Nat × Req) := fun use from_ =>
    (List.range 32).map (fun i => (from_ + i, { s.deviceReq use 0 (32 * i) (.readBytes 32) with st := st }))
  { s with reqs := asks .table 10 ++ asks .data 50, nextId := 90 }

/-- A table read whole; one that cannot be read; one that has still to come. -/
def tableRead (s : State) : Option Bool := (State.readTable 0 0 s).1.map Sum.isRight
def bytesRead (n : Nat) (s : State) : Option Nat := (State.deviceBytes 0 n 0 s).1.map List.length

/-- A binary of a header alone. -/
def noNodes : List Byte := leBytes 4 0x31424743 ++ leBytes 2 1 ++ leBytes 10 0 ++ leBytes 8 64 ++ leBytes 8 64 ++ leBytes 32 0

theorem witness_CommandsStart :
    Open (hostAt q0) 0 ∧ (hostAt q0).part 0 = q0 ∧ q0.cmd = none
    ∧ (AMap.find 1 q0.stamps).isSome = true ∧ AMap.find 2 q0.stamps = none
    ∧ (∀ e ∈ [(0, true), (1024, true), (2 ^ 56, false), (512, false)], decide (e.1 % 1024 = 0 ∧ e.1 < 2 ^ 56) = e.2)
    ∧ (AMap.find 0 q0.graphs).isSome = true ∧ AMap.find 1 q0.graphs = none :=
  ⟨open_at _ (by decide +kernel), rfl, rfl, rfl, rfl, by decide, rfl, rfl⟩

def cmdAt (code result : Nat) (args : List (BitVec 64)) (ended : Option (Nat × Nat)) : Cmd :=
  { code := code, result := result, value := 0, args := args, ended := ended }

theorem witness_CommandsFinish :
    (∀ code result ended, ∃ c, { q0 with cmd := some (cmdAt code result [] ended) }.cmd = some c ∧ c.code = code ∧ c.result = result
      ∧ c.ended = ended ∧ c.graph = none)
    ∧ tableRead (came (.unitData 0)) = some true ∧ tableRead (came (.back (.fault 1 0))) = some false ∧ tableRead (came .arrived) = none
    ∧ bytesRead 32 (came (.unitData 0)) = some 32 ∧ bytesRead 32 (came .arrived) = none
    ∧ ((hostAt q0).loadCheck 0 noNodes).isRight = true ∧ ((hostAt q0).loadCheck 0 []).isRight = false
    ∧ (hostAt q0).deviceBusy 0 .image = false
    ∧ (hostAt q0).stampBusy 0 1 = false ∧ (hostAt q0).translating 0 1 = false ∧ (hostAt q0).graphDone 0 0 = true
    ∧ memberIndex [0, 1] (hostAt q0).station.toNat = some 0 ∧ memberIndex [1, 2] (hostAt q0).station.toNat = none
    ∧ { q0 with attest := some 0 }.attest = some 0
    ∧ 0 + 500 * (hostAt q0).ftmo.toNat ≤ { hostAt q0 with netClock := 100000 }.netClock := by
  refine ⟨fun code result ended => ⟨_, rfl, rfl, rfl, rfl, rfl⟩, ?_⟩
  decide +kernel

/-- A request of partition 0. -/
def rq (src : Source) (ask : Ask) (st : ReqSt) : Req :=
  { ask := ask, src := src, part := 0, ppm := 0#8, ia := 0, home := 0, cls := 0, stamp := 1, tensor := 0, block := 2,
    postmark := 0#8, seq := 0#16, core := 0, hops := [], st := st, since := 0, arrival := 4 }

/-- A posted write of the host is under way. -/
def postedAt (q : Partition) : State := { hostAt q with reqs := [(4, rq (.host 9) (.write 4 0 false) .arrived)], nextId := 9 }

theorem witness_RegisterWrites :
    Open (hostAt q0) 0 ∧ q0.behind = [] ∧ (hostAt q0).postedBefore 0 (hostAt q0).nextId = false
    ∧ (hostAt q0).splittingIn 0 = false ∧ Open (postedAt q0) 0 ∧ (postedAt q0).postedBefore 0 (postedAt q0).nextId = true
    ∧ (∀ v ∈ [0, 1, 2], (BitVec.ofNat 64 v).toNat % 4 = v)
    ∧ { q0 with invals := [⟨none, 0, [], []⟩, ⟨some 1#32, 0, [], [(4, 0)]⟩] }.invals = [⟨none, 0, [], []⟩] ++ ⟨some 1#32, 0, [], [(4, 0)]⟩ :: [] ∧ AMap.find 4 (hostAt q0).walks = none
    ∧ (∀ e ∈ [(true, 0), (false, 3)], (if e.1 = true then (List.range 640).filter (fun k => (hostAt q0).hasSlice 0 k)
        else (List.range 384).filter (fun k => (hostAt q0).hasCore 0 k))[e.2]? = some e.2)
    ∧ (0 : Nat) < 6 ∧ 15 < 16 ∧ 30 < 31 ∧ 7 < 8 ∧ 1023 < 1024 :=
  ⟨open_at _ (by decide +kernel), rfl, by decide +kernel, by decide +kernel, ⟨rfl, by decide, by decide +kernel, rfl⟩, by decide +kernel,
    by decide, rfl, rfl, by decide +kernel, by decide⟩

/-- A channel 5 of stamp 1, with its key slot. -/
def ch5 : Channel := { owner := 1, key := 3, last := 6, cmds := [] }

def ported (l : List Byte) : Partition := { q0 with channels := [(5, ch5)], ports := [(32 + 31, { bytes := l, status := 0 })] }

/-- The first command of channel 5, which has no text. -/
def chanOp5 (closing : Option Nat) : ChanOp := { id := 4, host := 0, dst := 0, len := 0, counter := 7, text := [], closing := closing }

/-- The bytes of a command of channel 5: host address, destination, length and counter. -/
def chanBytes (dst len counter : Nat) : List Byte := leBytes 8 0 ++ leBytes 8 dst ++ leBytes 4 len ++ leBytes 4 5 ++ leBytes 8 counter

/-- A key of partition 0, and a sealed message of no text: its tag alone. -/
def k5 : KeySlot := { part := 0, context := none, revoked := false, value := 0 }
def iv5 : List Byte := leBytes 4 5 ++ leBytes 8 7
def sealed5 : List Byte := gcmTag 0 iv5 (leBytes 4 5 ++ leBytes 4 0 ++ leBytes 8 0) []
def tagFits (l : List Byte) : Bool := gcmTag 0 iv5 (leBytes 4 5 ++ leBytes 4 0 ++ leBytes 8 0) (l.take 0) == (l.drop 0).take 16

theorem witness_PortsAndChannels :
    { q0 with tdiRun := false }.tdiRun = false ∧ AMap.find 2 q0.stamps = none ∧ AMap.find 1 q0.stamps = some st1
    ∧ q0.tdiRun = true ∧ q0.target 1 0 = none ∧ q0.target 0 1 = none ∧ q0.target 0 0 = some placedNode
    ∧ ((AMap.find 0 ({ grE with sacks := [(0, List.replicate 4096 placedRecord)] } : Graph).sacks).getD []).length = 4096
    ∧ ((AMap.find 0 grE.sacks).getD []).length < 4096
    ∧ Open (hostAt (ported [])) 0
    ∧ (∀ e ∈ [(0, 16, 6, true, false, true), (0, 16, 7, true, true, true), (4096, 16, 7, false, true, true), (0, 8, 7, true, true, false)],
        let q := ported (chanBytes e.1 e.2.1 e.2.2.1)
        let c := (q.slot 1 31).command
        AMap.find c.chan q.channels = some ch5 ∧ ch5.owner = 1 ∧ decide (ch5.last < c.counter) = e.2.2.2.2.1
          ∧ (hostAt q).writable 0 1 c.dst c.len = e.2.2.2.1
          ∧ decide (c.len % 16 = 0 ∧ c.host % 16 = 0 ∧ c.dst % 16 = 0 ∧ c.len ≤ 2 ^ 24) = e.2.2.2.2.2)
    ∧ (∀ x : Option Nat, (chanOp5 x).closing = x ∧ { ch5 with cmds := [chanOp5 x] }.cmds = chanOp5 x :: [])
    ∧ (let s := hostAt { ported [] with channels := [(5, { ch5 with cmds := [chanOp5 none] })] }
       s.turnAt 0 (s.hostEngine 0) 4 = true ∧ s.deviceBusy 0 (.channel 5) = false)
    ∧ (postedAt q0).postedBefore 0 (postedAt q0).nextId = true ∧ q0.behind = []
    ∧ AMap.find 3 { hostAt (ported []) with keys := [(3, k5)] }.keys = some k5 ∧ tagFits sealed5 = true
    ∧ tagFits (sealed5.map (· + 1#8)) = false := by
  refine ⟨rfl, rfl, rfl, rfl, ?_, ?_, ?_, ?_, ?_, open_at _ (by decide +kernel), ?_, fun x => ⟨rfl, rfl⟩, ?_, ?_, rfl, rfl, ?_, ?_⟩
  all_goals decide +kernel

/-- Requests of the host and of a peer that have waited 8 µs. -/
def lateReqs : List (Source × Ask) :=
  [(.peer 3 9, .readBytes 64), (.host 9, .readBytes 64), (.host 9, .write 4 0 false)]

theorem witness_OutsideAccesses :
    Open (hostAt q0) 0 ∧ 4 % 4 = 0 ∧ 2 ^ 37 - 1 < 2 ^ 37 ∧ 0 + 64 ≤ ((hostAt q0).part 0).bar4 ∧ ¬ 2 ^ 36 + 1 ≤ ((hostAt q0).part 0).bar4
    ∧ peerAsk 0 (.read 64 1) = some (.readBytes 64) ∧ peerAsk 32 (.read 64 0) = none ∧ peerAsk 0 (.read 48 0) = none
    ∧ peerMark 3 (.read 64 1) = none ∧ peerCls (.read 64 0) = 0 ∧ peerCls (.read 64 1) = 1
    ∧ q0.valid = true ∧ ((hostAt q0).part 1).valid = false ∧ q0.lets 3 = false ∧ { q0 with peerin := [8#64] }.lets 3 = true
    ∧ q0.epoch 9 = 0#8 ∧ (1#8) ≠ q0.epoch 9
    ∧ (let r := rq (.group 3 7 [0]) .read (.atPeer 9 0 0#8 (some 0))
       let s := { hostAt q0 with reqs := [(4, r)], netClock := 50000 }
       AMap.find 4 s.reqs = some r ∧ r.part = 0 ∧ (∃ e ∈ s.toDest 0 9, s.overdue e.2 = true))
    ∧ (∀ x ∈ lateReqs,
        let r := rq x.1 x.2 .arrived
        let s := { hostAt q0 with reqs := [(4, r)], netClock := 20000 }
        AMap.find 4 s.reqs = some r ∧ r.unserved = true ∧ r.since + 20000 ≤ s.netClock)
    ∧ (rq (.host 9) (.readBytes 64) .arrived).posted = false ∧ (rq (.host 9) (.write 4 0 false) .arrived).posted = true
    ∧ (let w : Walk := { quad := 0, slice := 0, part := 0, ia := 0, gen := 0, started := 0, restarts := 0, cls := 0, st := .found (.host tl) }
       let s := { hostAt q0 with walks := [(6, w)] }
       AMap.find 6 s.walks = some w ∧ Sparse.get 0 s.gens w.quad = w.gen) := by
  refine ⟨open_at _ (by decide +kernel), ?_⟩
  decide +kernel

/-- Member 0 of a set of two runs a collective under tag 5, or has its data at peers. -/
def oC (k : Nat) : Op := { op1 .xc (.coll 20 0 5 0) .waiting with progress := k }
def sC (k : Nat) (ready : List (Nat × Nat)) : State :=
  { at_ (gOp (oC k)) with netClock := 50000 }.setPart 0 { q0 with
    sets := [(1, ([0, 1], 0))], colls := [(2 ^ 32 + 5, { gid := 3, op := 7, started := 0, desc := 0 })], readies := ready }

theorem witness_Collectives :
    AMap.find 1 ((sC 0 []).part 0).sets = some ([0, 1], 0)
    ∧ (∀ e ∈ [(0, true), (0, false), (2, false)],
        let s := sC e.1 (if e.2 = true then [] else [(2 ^ 32 + 5, 1)])
        (s.running 0 1 5).isSome = true
        ∧ (s.running 0 1 5).all (fun r => !s.isSaved r.g && r.stations.length == 2 && r.m == 0
            && r.o.lanes.any (fun x => x.st == .waiting) && !s.unperformedBefore r.g.block r.o.id
            && (r.o.progress == 2) == (e.1 == 2) && s.writesDone r.gid r.o.id) = true)
    ∧ (AMap.find (2 ^ 32 * 1 + 5) ((sC 0 []).part 0).colls).isSome = true
    ∧ ((sC 0 []).part 0).allReady (2 ^ 32 * 1 + 5) 2 0 = false ∧ ((sC 0 [(2 ^ 32 + 5, 1)]).part 0).allReady (2 ^ 32 * 1 + 5) 2 0 = true
    ∧ 0 + 250 * (sC 0 []).ftmo.toNat ≤ (sC 0 []).netClock
    ∧ (∀ e ∈ [(0, 2, 5, 0), (2, 1, 3, 0), (3, 0, 4, 1)],
        let c : CollDesc := { src := 0, dst := 0, cnt := e.2.2.1, op := e.1, ty := e.2.1, set_ := 0, root := e.2.2.2, zero := true }
        0 < 2 ∧ c.op = e.1 ∧ 0 < c.cnt) := by
  decide +kernel

/-- A walk of granule 0 of partition 0. -/
def wk (res : WalkRes) : Walk := { quad := 0, slice := 0, part := 0, ia := 0, gen := 0, started := 0, restarts := 0, cls := 0, st := .found res }

theorem witness_SliceRequests :
    (let r := rq (.group 3 7 [0]) .read .arrived
     let s := { hostAt q0 with reqs := [(4, r)] }
     AMap.find 4 s.reqs = some r ∧ s.inSlot (.slice r.home) r.part = true ∧ r.ppm = (s.part r.part).ppm ∧ s.mustWait 4 r = false
       ∧ { s with parts := [] }.inSlot (.slice r.home) r.part = false ∧ { r with ppm := 1#8 }.ppm ≠ (s.part r.part).ppm
       ∧ s.tlbHit r.part r.home r.ia r.stamp r.need = some tl
       ∧ { s with tlb := [] }.tlbHit r.part r.home r.ia r.stamp r.need = none)
    ∧ (let r := rq (.group 3 7 [0]) .read .arrived
       let s := { hostAt q0 with reqs := [(3, { rq .commit (.write 16 0 false) (.walking 6) with arrival := 2 }), (4, r)] }
       ∃ e ∈ s.reqs, e.1 ≠ 4 ∧ e.2.part = r.part ∧ e.2.queued = true ∧ e.2.arrival < r.arrival ∧ e.2.linesMeet r = true)
    ∧ (let a := rq (.group 3 7 [0]) (.atomic .add 4 [(1, 0)] true) .arrived
       ∀ e ∈ [(rq .commit (.write 16 0 false) .transit, rq (.group 3 7 [0]) .read .arrived), (a, { a with ia := 128 })],
         let s := { hostAt q0 with reqs := [(3, e.1), (4, e.2)] }
         s.mustWait 4 e.2 = true ∧ ((e.1.ofCore = true ∧ e.2.ofCore = true ∧ e.1.linesMeet e.2 = true)
           ∨ (e.1.atomicOf = some 3 ∧ e.2.atomicOf = some 3 ∧ e.1.home = e.2.home)))
    ∧ (∀ x ∈ [(Source.engine 3 7, Ask.discard 5), (.device .data, .readBytes 32)],
         let r := rq x.1 x.2 .arrived
         { hostAt q0 with reqs := [(4, r)] }.mustWait 4 r = false ∧ r.ia = 0)
    ∧ (rq (.peer 3 9) .read .arrived).ppm = ((hostAt q0).part 0).ppm
    ∧ (let s := { hostAt q0 with reqs := [(4, rq (.group 3 7 [0]) .read (.walking 6))], walks := [(6, wk (.leaf tl 0x1F []))] }
       AMap.find 6 s.walks = some (wk (.leaf tl 0x1F [])) ∧ Sparse.get 0 s.gens 0 = (wk (.leaf tl 0x1F [])).gen ∧ s.walkers 6 ≠ []
         ∧ (∀ x ∈ s.walkers 6, s.verdict tl 0x1F x.2.stamp x.2.need = none) ∧ ofHostMem tl.pa = false)
    ∧ (∀ e ∈ [(64, true), (2 ^ 36, false)], ((hostAt q0).part 0).paOk e.1 true = e.2)
    ∧ (let s := { hostAt q0 with walks := [(6, wk (.fault 3))], gens := [(0, 1)] }
       Sparse.get 0 s.gens 0 ≠ (wk (.fault 3)).gen ∧ (wk (.fault 3)).restarts < 4) := by
  decide +kernel
/-! ## Witnesses: memory at its home slice -/

def blk (i : Nat) : L2Block :=
  { data := 0, valid := 2 ^ 16 - 1, dirty := 0, tensor := 0, keyid := 0, pa := 16 * i, way := 0, slice := 0, poison := false }

/-- Request 4 stands at slice 0, which holds line 0. -/
def sM (r : Req) : State := { hostAt q0 with l2 := (List.range 8).map (fun i => (i, blk i)), reqs := [(4, r)], nextId := 9 }

theorem holds_sM (r : Req) (n : Nat) (h : n ≤ 128) : (sM r).Holds 0 0 0 n := by
  have clean : ∀ e ∈ (List.range 8).map (fun i => (i, blk i)), e.2.poison = false ∧ e.2.data < 2 ^ 128 := by decide
  refine ⟨fun a _ h2 => ?_, fun k _ _ => rfl, fun e he => ⟨(clean e he).2, fun _ _ => (clean e he).1⟩⟩
  have all : ∀ a, a < 128 → (({ hostAt q0 with l2 := (List.range 8).map (fun i => (i, blk i)) } : State).l2At 0 a a).isSome = true
      ∧ (({ hostAt q0 with l2 := (List.range 8).map (fun i => (i, blk i)) } : State).cachedByte 0 a).isSome = true := by decide +kernel
  rw [Nat.sub_zero, Nat.zero_add]
  exact all a (by omega)

/-- Each kind of request; a word that is not there, before and after its stack has given it; a word with dirty bytes. -/
theorem witness_MemoryAtItsHome :
    (∀ ask ∈ [Ask.write 4 7 false, .read, .readBytes 4, .atomic .add 4 [(1, 0), (2, 0)] true, .atomic .bf16x2add 4 [(5, 0)] false],
      let r := rq (.group 3 7 [0]) ask .arrived
      AMap.find 4 (sM r).reqs = some r ∧ ofPeerMem 0 = false ∧ r.ia = 0 ∧ 0 < r.ask.covers ∧ r.ia + r.ask.covers ≤ 2 ^ 56 ∧ r.ofDevice = false
        ∧ (sM r).meetsPoison r 0 = [] ∧ r.ia % 128 + r.ask.covers ≤ 128 ∧ r.atomicOf.bind ((sM r).duplicate r) = none)
    ∧ (∀ r n, n ≤ 128 → (sM r).Holds 0 0 0 n)
    ∧ pairFmt .add = none ∧ pairFmt .bf16x2add = some .bf16 ∧ (rq .commit .read (.half true 3 0 0)).st = .half true 3 0 0
    ∧ (let r := rq (.group 3 7 [0]) (.readBytes 4) .arrived
       let s := { hostAt q0 with reqs := [(4, r)], nextId := 9 }
       AMap.find (l1Key r.part r.ia) s.l2 = none ∧ bitAt 0 51 = false ∧ r.fed.contains 0 = false ∧ { r with fed := [0] }.fed.contains 0 = true
         ∧ (∀ e ∈ s.reqs, e.2.src ≠ .stack 4) ∧ Sparse.get 0 s.keyTags 0 = 0 ∧ s.poison = [] ∧ s.l2 = [] ∧ (s.part 0).ways ≠ 0)
    ∧ (let b := { blk 0 with dirty := 3, data := 0x201 }
       AMap.find 0 { hostAt q0 with l2 := [(0, b)] }.l2 = some b ∧ b.keyid = 0 ∧ b.pa % 16 = 0 ∧ b.dirty < 2 ^ 16)
    ∧ isGot (State.gatherParts uCp [(0, 0, 32)] sCp).1 = true ∧ 0 < 32 ∧ 32 % 16 = 0 := by
  refine ⟨by decide +kernel, fun r n h => holds_sM r n h, ?_⟩
  decide +kernel

/-! ## Witnesses: launch, pre-emption, links, the postmaster -/

/-- A node of one-record batches, and one that waits 4 ticks. -/
def nd0 : Node := { placedNode with threshold := 2, window := 4 }

def grQ (sack : List Rec) : Graph := { nodes := [nd0], edges := [], firstSlot := 0, placed := [], unloading := false, sacks := [(0, sack)] }

/-- A batch of one record, open or closed. -/
def bt (closed : Bool) : Batch := { placedBatch with slots := [[placedRecord]], closed := closed, opened := 0, readyAt := 0 }

/-- An open batch of another class. -/
def fullBatch : Batch := { bt false with cls := 1 }

/-- Partition 0 with cluster 0, a graph with one record in its sack, and some batches. -/
def launchAt (sack : List Rec) (bs : List (Nat × Batch)) : State :=
  { hostAt { q0 with graphs := [(0, grQ sack)], batches := bs } with netClock := 4, nextId := 9 }

/-- The block of a kernel that declares a million cycles. -/
def bL : Block := { b0 with node := { placedNode with cycles := 1000000 } }

/-- The saved state of the small block, and of the block itself. -/
def savedAt : State := { (at_ g0).setBlock 2 { b0 with mode := .saved } with cur := none, parts := [(0, q0)] }

theorem witness_LaunchAndPreemption :
    (let s := { launchAt [placedRecord] [] with netClock := 3 }
     (AMap.find 0 (s.part 0).graphs).isSome = true
       ∧ s.offerAll 0 0 0 nd0 placedRecord ((s.part 0).expired s.netClock).batches = (false, []))
    ∧ (let s := { launchAt [placedRecord] [(5, bt false)] with netClock := 3 }
       (s.offerAll 0 0 0 nd0 placedRecord ((s.part 0).expired s.netClock).batches).1 = true)
    ∧ (let s := launchAt [placedRecord] [(5, bt false), (6, { bt false with opened := 4 })]
       (s.offerAll 0 0 0 nd0 placedRecord ((s.part 0).expired s.netClock).batches).1 = true ∧ (bt false).opened + nd0.window ≤ s.netClock)
    ∧ (let s := { launchAt [placedRecord] ((List.range 8).map (fun i => (5 + i, fullBatch))) with netClock := 3 }
       let x := s.offerAll 0 0 0 nd0 placedRecord ((s.part 0).expired s.netClock).batches
       x.1 = false ∧ (x.2.filter (fun e => e.2.graph == 0 && e.2.node == 0 && !e.2.closed)).map Prod.fst = 5 :: [6, 7, 8, 9, 10, 11, 12])
    ∧ (let s := launchAt [] [(5, bt false)]
       AMap.find 5 (s.part 0).batches = some (bt false) ∧ nd0.window ≠ 0 ∧ (bt false).opened + nd0.window ≤ s.netClock)
    ∧ (let s := launchAt [] [(5, bt true)]
       let t := s.setPart 0 ((s.part 0).expired s.netClock)
       (t.part 0).ready = (5, bt true) :: [] ∧ t.batchNode 0 (bt true) = some nd0 ∧ t.placeFor 0 nd0 (bt true) = some (0, [0]))
    ∧ (packLanes false [placedRecord]).length ≤ 96 ∧ (packLanes false [placedRecord])[0]? = some (some placedRecord)
    ∧ (let g : Group := { g0 with wait := .ending }
       g.ended = none ∧ g.ops = [] ∧ g.copying = none ∧ g.courses = []
         ∧ g.arrivalDue b0 = false ∧ (at_ g).sendsOut b0 (at_ g).nextId = false ∧ (at_ g).sendsOut b0 g.commitTo = false ∧ b0.mode ≠ .saving ∧ { g with ended := some 3 }.ended = some 3)
    ∧ (let r := (at_ g0).reportOf 7 g0 b0 0 1
       let s := { at_ g0 with reports := [r] }
       AMap.find 7 s.groups = none ∧ s.reports = [r] ∧ r.gid = 7 ∧ (∀ e ∈ s.reqs, e.2.block = r.block → e.2.outTo 5 = false)
         ∧ ∃ e ∈ [(1, rq .commit (.write 4 0 false) .arrived)], e.1 < r.upto ∧ e.2.block = r.block ∧ e.2.outTo 5 = true)
    ∧ (let modes : List (Mode × Estimate) := [(.drain, { t := 50000, q := 50000 }), (.save, { t := 45096, q := 90192 })]
       chooseMode modes 50000 = some .drain ∧ chooseMode modes 46000 = some .save ∧ chooseMode modes 20000 = some .save)
    ∧ (AMap.find 2 (at_ g0).blocks = some b0 ∧ b0.mode = .running ∧ b0.asked = [] ∧ (at_ g0).splitDue ((at_ g0).cohortBlocks b0) = false
        ∧ (at_ { g0 with copying := some 4 }).splitDue [2] = true)
    ∧ (let modeOf := fun (g : Group) (b : Block) =>
         let s := (at_ g).setBlock 2 b
         chooseMode (s.modesOf (s.blockList (s.cohortBlocks b))) 0
       modeOf g0 b0 = some .drain ∧ modeOf g0 bL = some .flush ∧ modeOf g0 { bL with committed := true } = some .save)
    ∧ (let b := { b0 with mode := BlockMode.saving }
       let s := (at_ g0).setBlock 2 b
       AMap.find 2 s.blocks = some b ∧ (∀ e ∈ s.reqs, ¬ (e.2.block ∈ s.cohortBlocks b ∧ e.2.ask.isWrite = true))
         ∧ s.seenOut (s.cohortBlocks b) = false ∧ (∀ e ∈ s.groups, e.2.block ∈ s.cohortBlocks b → e.2.copying = none ∧ e.2.latch = none)
         ∧ (AMap.find b.cohort s.cohorts).all (fun c => c.sends.isEmpty) = true)
    ∧ (let b := { b0 with mode := BlockMode.saved }
       AMap.find 2 savedAt.blocks = some b ∧ savedAt.cohortBlocks b = [2] ∧ savedAt.blockList [2] = [(2, b)]
         ∧ b.node.blocks ≤ (savedAt.usableCores 0 0).length
         ∧ savedAt.clusterAdmits 0 0 ((b.records.flatten.head?).bind (savedAt.protOf 0)) = true ∧ savedAt.canResume 0 1 2 b = true
         ∧ (AMap.find b.cohort (savedAt.restore 2 1 b).cohorts).isSome = true)
    ∧ (let s := hostAt { q0 with map := q0.map.set 1 0x0001000000000000#64 }
       (s.cluster 0).changing = none ∧ (s.part 0).holds 4 0 = true ∧ (s.part 0).tshare = 1 ∧ (s.cluster 0).turn = none
         ∧ 0 + 25000 * (s.part 0).tshare ≤ { s with netClock := 25000 }.netClock)
    ∧ (∀ c ∈ [Change.tenure none, .turn 0],
        let s := State.reset.setCluster 0 { Cluster.reset with changing := some c }
        (s.cluster 0).changing = some c ∧ s.residentIn 0 = [] ∧ s.requestsFrom 0 = false)
    ∧ (hostAt q0).leastBusy 0 [0, 1] = some 0
    ∧ (∀ e ∈ (at_ g0).blocks, e.2.core = 5 → e.2.mode = .saved) := by
  refine ⟨?_, ?_, ?_, ?_, ?_, ?_, ?_, ?_, ?_, ?_, ?_, ?_, ?_, ?_, ?_, ?_, ?_, ?_, ?_⟩
  all_goals decide +kernel

/-- A flit of request 4 on a link of partition 0. -/
def fl (first last : Bool) (seq ppm : BitVec 8) : Flit :=
  { rid := 4, seq := seq, part := 0, cls := 0, ppm := ppm, first := first, last := last, crc := 0 }

/-- Request 4 on its way out, or with its answer on its way back. -/
def onWay (hops : List LinkId) (st : ReqSt) : Req := { rq (.group 3 7 [0]) .read st with hops := hops }

theorem witness_LinkEvents :
    (State.reset.slotOwner 0 = none ∧ (hostAt q0).slotOwner 0 = some 0)
    ∧ ((List.replicate 16 (true, true, false)).length = 16 ∧ ∀ r ∈ List.replicate 16 (true, true, false), r.1 = true)
    ∧ (Link.reset.retraining = false ∧ Link.reset.resend = none ∧ Link.reset.expect = 0#8
        ∧ ∀ f ∈ [fl true false 0 0, fl false true 0 0, fl true false 1 0, fl true false 0 1], { Link.reset with wire := [f] }.wire = f :: [])
    ∧ ((fl true false 0 0).seq = 0#8 ∧ (fl true false 1 0).seq ≠ 0#8 ∧ (fl true false 0 0).ppm = ((hostAt q0).part 0).ppm
        ∧ (fl true false 0 1).ppm ≠ ((hostAt q0).part 0).ppm ∧ (fl false true 0 0).last = true)
    ∧ (∀ r ∈ [onWay [.ring 0 0 0 true 0] .transit, onWay [.ring 0 0 0 true 0, .ring 0 0 0 true 1] .transit,
          onWay [.ring 0 0 0 true 0] (.back (.line 0)), { onWay [.stack 0] .transit with src := .stack 3 },
          { onWay [.stack 0] .transit with src := .stack 0 }, { onWay [.stackUp 0] (.back (.line 0)) with src := .stack 3 },
          { onWay [.ring 0 0 0 true 0] (.back (.line 0)) with src := .engine 3 7 }],
        let s := { hostAt q0 with reqs := [(4, r)], nextId := 9 }
        AMap.find 4 s.reqs = some r ∧ r.hops ≠ [] ∧ s.outOfTurn 4 r = false ∧ 4 < s.nextId)
    ∧ (let r := onWay [.ring 0 0 0 true 0] .transit
       { hostAt q0 with reqs := [(3, { rq .commit (.write 16 0 false) .transit with hops := [.ring 0 0 0 true 0] }), (4, r)] }.outOfTurn 4 r = true)
    ∧ (let s := { run_ (gOp oCp) with reqs := [(3, rq (.group 3 7 [0]) .read .arrived)] }
       s.unitRuns (uCp.req 0 0 (.readBytes 32)) 3 7 = true ∧ (AMap.find 3 s.reqs).isSome = true ∧ (3 : Nat) ≠ 4)
    ∧ ({ Link.reset with resend := some 0#8 }.resend = some 0#8 ∧ Link.reset.fails < 8)
    ∧ ((1#8 - 1#8 - 0#8).toNat < 64 ∧ ∃ f ∈ [fl true true 0 0], f.seq = 0#8)
    ∧ (8 ≤ { Link.reset with fails := 8 }.fails ∧ { Link.reset with retraining := true }.retraining = true)
    ∧ ((onWay [.stack 0] .transit).hops ≠ [] ∧ (onWay [.stack 0] .transit).way ≠ [] ∧ (onWay [] (.back (.line 0))).wayBack ≠ [] ∧ (∀ e ∈ (hostAt q0).links, e.2.holdsPacket 4 = false))
    ∧ (∀ e ∈ (hostAt q0).links, e.2.rekeying = true → stackDie e.1 ≠ stackDie (.stack 3))
    ∧ ({ Link.reset with rekeying := true }.rekeying = true ∧ Link.reset.progress = [] ∧ Link.reset.wire = [] ∧ Link.reset.again = []
        ∧ Link.reset.retry = [])
    ∧ (let q := { q0 with map := q0.map.set 1 0x00050005#64 }
       q.quotaC ≠ 0xFFFF ∧ q.quotaC < Sparse.get 0 q.quota 2 + 9 ∧ q.quotaE ≠ 0xFFFF ∧ q.quotaE < Sparse.get 0 q.quota 1 + 9) := by
  refine ⟨?_, ?_, ?_, ?_, ?_, ?_, ?_, ?_, ?_, ?_, ?_, ?_, ?_, ?_⟩
  all_goals decide +kernel

theorem witness_PostmasterEvents :
    (State.reset.fwstat = 0#64 ∧ { State.reset with fwstat := 1#64 }.fwstat = 1#64 ∧ { State.reset with fwstat := 3#64 }.fwstat = 3#64 ∧ ([] : List Byte).length ≤ 2 ^ 23)
    ∧ (∀ image, firmwareGood image = false ∨ firmwareGood image = true)
    ∧ (∀ k, Config.trainingMask k = 0#32 ∨ Config.trainingMask k ≠ 0#32)
    ∧ ((hostAt q0).fwstat.toNat % 256 = 5 ∧ map0.length = 128 ∧ (hostAt { q0 with graphs := [] }).idle 0 = true
        ∧ (hostAt { q0 with graphs := [] }).mapFits 0 { q0 with graphs := [], map := mapEntry q0 map0 } = true)
    ∧ (let q := { q0 with sweeping := 3#16 }
       q.sweeping ≠ 0#16 ∧ q.sweepTo = 0 ∧ { q with sweepTo := 5 }.sweepTo ≠ 0 ∧ (hostAt q).l2 = [] ∧ (hostAt q).reqs = []
         ∧ ∃ e ∈ [(4, { rq (.stack 0) (.write 16 0 false) .transit with part := 0 })], e.1 < 5 ∧ e.2.part = 0 ∧ e.2.src = .stack 0)
    ∧ (let q := { q0 with map := (map0.set 0 0x0000FFFFFFFF0000#64).set 3 8000#64 }
       q.valid = false ∧ q.saveOk = true ∧ (hostAt q).fwstat.toNat % 256 = 5)
    ∧ (q0.valid = true ∧ (∀ e ∈ (hostAt q0).blocks, e.2.part ≠ 0) ∧ (∀ e ∈ (hostAt q0).reqs, e.2.part ≠ 0))
    ∧ ((hostAt q0).sweepingKey 255 = false ∧ (insertUp 7 (hostAt q0).contextIds).length ≤ 96)
    ∧ (let k : KeySlot := { part := 0, context := none, revoked := false, value := 0 }
       AMap.find 255 { hostAt q0 with keys := [(255, k)] }.keys = some k
         ∧ ∀ r ∈ [(9, { rq (.stack 0) (.write 16 0 false) .transit with part := 0 })], r.2.src = .stack 0 → r.2.part = k.part →
           ∀ e ∈ [(255, 7)], e.1 = 255 → e.2 ≤ r.1)
    ∧ ({ hostAt q0 with revoking := [(255, 7)] }.sweepingKey 255 = true ∧ ∀ e ∈ (hostAt q0).l2, e.2.keyid ≠ 255)
    ∧ (bits (2 ^ 46 - 2 ^ 41 + 2 ^ 36 - 1) 50 46 = 0 ∧ bits (2 ^ 46 - 2 ^ 41 + 2 ^ 36 - 1) 40 36 = 0) := by
  refine ⟨by decide, fun image => ?_, fun k => ?_, by decide +kernel, by decide +kernel, by decide +kernel, by decide +kernel,
    by decide +kernel, by decide +kernel, by decide +kernel, by decide⟩
  · cases firmwareGood image
    · exact .inl rfl
    · exact .inr rfl
  · exact Decidable.em _
/-! ## The spec's own words, and single steps -/

/-- The words the spec assembles: ch. 04, 05, 06, 11, 14. -/
theorem test_decode_examples :
    decodeTableWord 64 0x087A08120E001C09 = some (.vcmp ⟨7, .q 1, .v 4, .s 7, .v 0, 9⟩)
    ∧ decodeTableWord 64 0x097A10181CBFFFFB = some (.vcmpi ⟨7, .q 2, .v 6, 0, 0xBFFFFB⟩)
    ∧ decodeTableWord 64 0x1270502000000013 = some (.vcvt ⟨7, .v 10, .v 8, .v 0, .v 0, 0x13⟩)
    ∧ decodeTableWord 64 0x127070180E0E0308 = some (.vpk8 ⟨7, .v 14, .v 6, .v 7, .v 14, 8⟩)
    ∧ decodeTableWord 64 0x2D78400010140A8B = some (.mopa ⟨7, .s 8, .v 0, .v 8, .v 20, .v 21, 0, true, false, true, true⟩)
    ∧ decodeTableWord 64 0x2070A413FE881440 = some (.vamo .add ⟨7, .v 20, .s 4, .imm 127, 2, 0, 4, 0x1440⟩)
    ∧ decodeTableWord 64 0x2470180004000404 = some (.xputRead ⟨7, .v 3, .v 0, .v 2, .v 0, 4⟩)
    ∧ decodeTableWord 64 0x2870000000000600 = some (.cbar ⟨7, .v 0, .v 0, .v 0, .v 0, 0⟩) := by
  decide +kernel

/-- Group 3 after the first step that runs the word, from lane 0 and the scalars as `f` sets them. -/
def after (w : Nat) (f : Group → Group) : Option Group :=
  match step ((State.reset.withFetchWord 64 w).adjGroup 3 f) with
  | .next t => AMap.find 3 t.groups
  | _ => none

/-- The values of lane 0's registers. -/
def lane0 (l : List (Nat × Nat)) (g : Group) : Group := l.foldl (fun g e => g.setV 0 e.1 e.2) g

/-- The spec's pair (ch. 02): v16 = 5 and v1 = 3 become 8 and 5. -/
theorem test_pair_reads_first :
    (after 0x400800F00C0110E0 (lane0 [(16, 5), (1, 3)])).map (fun g => (g.getV 0 16, g.getV 0 1, g.pc)) = some (8, 5, 8) := by
  decide +kernel

/-- R56: a word of zeros traps with reason 0x04, a word of ones with 0x09; the handler stands at 0. -/
theorem test_zero_and_ones_trap :
    (after 0 id).map (fun g => (g.trapkind, g.trapinfo, g.trappc, g.intrap, g.pc)) = some (1#8, 4#64, 0#64, true, 0)
    ∧ (after (2 ^ 64 - 1) id).map (fun g => (g.trapkind, g.trapinfo)) = some (1#8, 9#64) := by
  decide +kernel

/-- R94: a count of the width or more. -/
theorem test_shift_past_width :
    (after 0x0870A01010001400 (lane0 [(4, 0x80000000), (8, 40)])).map (fun g => g.getV 0 20) = some 0xFFFFFFFF
    ∧ (after 0x0870A01010001300 (lane0 [(4, 0x80000000), (8, 32)])).map (fun g => g.getV 0 20) = some 0 := by
  decide +kernel

/-- Table 4.8: the low words' sum carries out. -/
theorem test_vaddc :
    (after 0x0870500809430501 (fun g => lane0 [(4, 0x20), (2, 0xFFFFFFF0)] g)).map (fun g => (g.getV 0 10, g.getQ 0 3)) = some (0x10, true) := by
  decide +kernel

/-- R93: −2^31 by −1, and DOV, bit 2 of lane status; by 0, and DZ, bit 1. -/
theorem test_vdiv_corners :
    (after 0x0870A01010000700 (lane0 [(4, 0x80000000), (8, 0xFFFFFFFF)])).map (fun g =>
        (g.getV 0 20, (AMap.find 0 g.lanes).map Lane.lstat)) = some (0x80000000, some 4#32)
    ∧ (after 0x0870A01010000700 (lane0 [(4, 7)])).map (fun g => (g.getV 0 20, (AMap.find 0 g.lanes).map Lane.lstat))
      = some (0xFFFFFFFF, some 2#32) := by
  decide +kernel

/-- Table 3.6: FP32 values to BF16, FP16, E4M3 and E2M1 in rn. -/
theorem test_round_examples :
    (Fmt.bf16.round .rn false false (Fmt.fp32.value 0x3F808000)).1 = 0x3F80
    ∧ (Fmt.e4m3.round .rn false false (Fmt.fp32.value 0x43960000)).1 = 0x79
    ∧ (Fmt.e4m3.round .rn false false (Fmt.fp32.value 0x43FA0000)).1 = 0x7F
    ∧ (Fmt.e4m3.round .rn false true (Fmt.fp32.value 0x43FA0000)).1 = 0x7E
    ∧ (Fmt.fp16.round .rn false false (Fmt.fp32.value 0x477FF000)).1 = 0x7C00
    ∧ (Fmt.e4m3.round .rn false false (Fmt.fp32.value 0x3A800000)).1 = 0
    ∧ (Fmt.e2m1.round .rn false false (Fmt.fp32.value 0x40A00000)).1 = 6
    ∧ (Fmt.e2m1.round .rn false false (Fmt.fp32.value 0x40E00000)).1 = 7 := by
  decide +kernel

/-- Ch. 05: the last VPK8 of the worked block, codes 0x15 and 0x7E above 0xB45A. -/
theorem test_vpk8_example :
    (after 0x127070180E0E0308 (lane0 [(6, 0x3D4CCCCD), (7, 0x43FA0000), (14, 0xB45A0000)])).map (fun g => g.getV 0 14)
      = some 0x7E15B45A := by
  decide +kernel

/-- The fused example of ch. 02 under q2: 2 × 3 + 1; a lane without q2 keeps v20. -/
theorem test_vfma_guarded :
    (after 0x1020A01011030301 (fun g => ((lane0 [(4, 0x40000000), (8, 0x40400000)] g).setS 3 0x3F800000).setQ 0 2 true)).map
        (fun g => (g.getV 0 20, g.getV 1 20)) = some (0x40E00000, 0) := by
  decide +kernel

/-- R164: a divisor of 0. -/
theorem test_sdiv_zero :
    (after 0x0178A41210000400 (fun g => g.setS 4 7)).map (fun g => (g.getS 20, g.sdz, g.sdov)) = some (2 ^ 64 - 1, true, false) := by
  decide +kernel

/-- R40: a branch to PC + 8 + 8 × OFF32; R170: one that leaves .text traps. -/
theorem test_bra :
    (after 0x04700000FFFFFFFF id).map (fun g => g.pc) = some 0
    ∧ (after 0x0470000000000001 id).map (fun g => (g.trapkind, g.trapinfo)) = some (8#8, 0x35#64) := by
  decide +kernel

/-- R169: MFIRST of no lane is 96. -/
theorem test_mfirst : (after 0x0378A50000000600 id).map (fun g => g.getS 20) = some 96 := by decide +kernel

/-- R129: a misaligned lane access. -/
theorem test_vld_misaligned :
    (after 0x1C70A011FE800000 (lane0 [(4, 2)])).map (fun g => (g.trapkind, g.trapinfo)) = some (8#8, 0x31#64) := by
  decide +kernel

/-- R211: a count that is no multiple of 16; R257: outside matrix mode. -/
theorem test_grow_and_mzero_trap :
    (after 0x0070061C00000700 id).map (fun g => (g.trapkind, g.trapinfo)) = some (9#8, 0x23#64)
    ∧ (after 0x2C70000000000300 id).map (fun g => (g.trapkind, g.trapinfo)) = some (7#8, 0x72#64) := by
  decide +kernel

/-- R189: the register of a shuffle past its segment is C, and FILT stays 0. -/
theorem test_vshuf_past_segment :
    (after 0x1870A010100C0001 (lane0 [(4, 9), (8, 32), (12, 77)])).map (fun g =>
        (g.getV 0 20, (AMap.find 0 g.lanes).map Lane.lstat)) = some (77, some 0#32) := by
  decide +kernel

/-- R385, R414: the first test vector of RFC 8032's Ed448, an empty message: its signature holds, and another message's does not. -/
theorem test_ed448_verify :
    let key := (leBytes 57 0x5fd7449b59b461fd2ce787ec616ad46a1da1342485a70e1f8a0ea75d80e96778edf124769b46c7061bd6783df1e50f6cd1fa1abeafe8256180).reverse
    let sig := (leBytes 114 0x533a37f6bbe457251f023c0d88f976ae2dfb504a843e34d2074fd823d41a591f2b233f034f628281f2fd7a22ddd47d7828c59bd0a21bfd3980ff0d2028d4b18a9df63e006c5d1c2d345b925d8dc00b4104852db99ac5c7cdda8530a113a0f4dbb61149f05a7363268c71d95808ff2e652600).reverse
    ed448Verify key sig [] = true ∧ ed448Verify key sig [1#8] = false := by
  decide +kernel
end Sys2Proof.Tests
end

section
/-! ## The decoder undoes the encoder (R32–R55) -/

namespace Sys2Proof.Laws.RoundTrip

open Sys2Proof Machine

/-- Every word and every half meets the round trip of its own row. -/
theorem statement_of_word (i : Instr) (h : i.form ≠ .event) : Statement i := by
  cases i with
  | nop x => exact nop x
  | endGroup x => exact endGroup x
  | yield x => exact yield x
  | trap x => exact trap x
  | tret x => exact tret x
  | srd x => exact srd x
  | swr x => exact swr x
  | grow x => exact grow x
  | shrink x => exact shrink x
  | emit x => exact emit x
  | waitc x => exact waitc x
  | sadd x => exact sadd x
  | ssub x => exact ssub x
  | smul x => exact smul x
  | smulh x => exact smulh x
  | sdiv x => exact sdiv x
  | srem x => exact srem x
  | sand x => exact sand x
  | sor x => exact sor x
  | sxor x => exact sxor x
  | sandn x => exact sandn x
  | sshl x => exact sshl x
  | sshr x => exact sshr x
  | ssra x => exact ssra x
  | srot x => exact srot x
  | smin x => exact smin x
  | smax x => exact smax x
  | sclz x => exact sclz x
  | spopc x => exact spopc x
  | ssel x => exact ssel x
  | scmp x => exact scmp x
  | sbfe x => exact sbfe x
  | sbfi x => exact sbfi x
  | saddi x => exact saddi x
  | sandi x => exact sandi x
  | sori x => exact sori x
  | sxori x => exact sxori x
  | sshli x => exact sshli x
  | sshri x => exact sshri x
  | ssrai x => exact ssrai x
  | scmpi x => exact scmpi x
  | smovi x => exact smovi x
  | smovhi x => exact smovhi x
  | msave x => exact msave x
  | mrest x => exact mrest x
  | mset x => exact mset x
  | mand x => exact mand x
  | mandn x => exact mandn x
  | mcnt x => exact mcnt x
  | mfirst x => exact mfirst x
  | bra x => exact bra x
  | bcmp x => exact bcmp x
  | bcmpi x => exact bcmpi x
  | call x => exact call x
  | ret x => exact ret x
  | jmpr x => exact jmpr x
  | bany x => exact bany x
  | ball x => exact ball x
  | bnone x => exact bnone x
  | sld x => exact sld x
  | sst x => exact sst x
  | sldc x => exact sldc x
  | vadd x => exact vadd x
  | vsub x => exact vsub x
  | vmul x => exact vmul x
  | vmulh x => exact vmulh x
  | vmad x => exact vmad x
  | vaddc x => exact vaddc x
  | vsubb x => exact vsubb x
  | vdiv x => exact vdiv x
  | vrem x => exact vrem x
  | vabs x => exact vabs x
  | vneg x => exact vneg x
  | vmin x => exact vmin x
  | vmax x => exact vmax x
  | vand x => exact vand x
  | vor x => exact vor x
  | vxor x => exact vxor x
  | vandn x => exact vandn x
  | vnot x => exact vnot x
  | vshl x => exact vshl x
  | vshr x => exact vshr x
  | vsra x => exact vsra x
  | vrot x => exact vrot x
  | vclz x => exact vclz x
  | vpopc x => exact vpopc x
  | vbrev x => exact vbrev x
  | vbfe x => exact vbfe x
  | vbfi x => exact vbfi x
  | vsel x => exact vsel x
  | vcmp x => exact vcmp x
  | vmov x => exact vmov x
  | vadds x => exact vadds x
  | vsubs x => exact vsubs x
  | vdot4 x => exact vdot4 x
  | vdot2 x => exact vdot2 x
  | vaddi x => exact vaddi x
  | vandi x => exact vandi x
  | vori x => exact vori x
  | vxori x => exact vxori x
  | vshli x => exact vshli x
  | vshri x => exact vshri x
  | vsrai x => exact vsrai x
  | vcmpi x => exact vcmpi x
  | vmovi x => exact vmovi x
  | vlea x => exact vlea x
  | vaddw x => exact vaddw x
  | vsubw x => exact vsubw x
  | vfadd x => exact vfadd x
  | vfsub x => exact vfsub x
  | vfmul x => exact vfmul x
  | vfma x => exact vfma x
  | vfms x => exact vfms x
  | vfnma x => exact vfnma x
  | vfmin x => exact vfmin x
  | vfmax x => exact vfmax x
  | vfabs x => exact vfabs x
  | vfneg x => exact vfneg x
  | vfcmp x => exact vfcmp x
  | vfclass x => exact vfclass x
  | vfdiv x => exact vfdiv x
  | vfsqrt x => exact vfsqrt x
  | vfrcp x => exact vfrcp x
  | vfrsq x => exact vfrsq x
  | vfexp2 x => exact vfexp2 x
  | vflog2 x => exact vflog2 x
  | vfsin x => exact vfsin x
  | vfcos x => exact vfcos x
  | vftanh x => exact vftanh x
  | vfrnd x => exact vfrnd x
  | vhadd x => exact vhadd x
  | vhsub x => exact vhsub x
  | vhmul x => exact vhmul x
  | vhfma x => exact vhfma x
  | vhmin x => exact vhmin x
  | vhmax x => exact vhmax x
  | vhdot x => exact vhdot x
  | vhcmp x => exact vhcmp x
  | vcvt x => exact vcvt x
  | vpack x => exact vpack x
  | vunpk x => exact vunpk x
  | vpk8 x => exact vpk8 x
  | vupk8 x => exact vupk8 x
  | vshuf x => exact vshuf x
  | vshufup x => exact vshufup x
  | vshufdn x => exact vshufdn x
  | vshufx x => exact vshufx x
  | vbcast x => exact vbcast x
  | qswap x => exact qswap x
  | qbcast x => exact qbcast x
  | vscan x => exact vscan x
  | vred x => exact vred x
  | vrds x => exact vrds x
  | vote x => exact vote x
  | vmatch x => exact vmatch x
  | vld x => exact vld x
  | vst x => exact vst x
  | vlds x => exact vlds x
  | vsts x => exact vsts x
  | vldw x => exact vldw x
  | vstw x => exact vstw x
  | vpref x => exact vpref x
  | vamo op x => exact vamo op x
  | samo op x => exact samo op x
  | cpy x => exact cpy x
  | cpyt x => exact cpyt x
  | discard x => exact discard x
  | ttag x => exact ttag x
  | xputSend x => exact xputSend x
  | xputRead x => exact xputRead x
  | coll x => exact coll x
  | fence x => exact fence x
  | tfence x => exact tfence x
  | binit x => exact binit x
  | barv x => exact barv x
  | bwait x => exact bwait x
  | bsync x => exact bsync x
  | cbar x => exact cbar x
  | cmt x => exact cmt x
  | mres x => exact mres x
  | mrel x => exact mrel x
  | modeM x => exact modeM x
  | modeV x => exact modeV x
  | mzero x => exact mzero x
  | ald x => exact ald x
  | ast x => exact ast x
  | aacc x => exact aacc x
  | acpy x => exact acpy x
  | ldsc x => exact ldsc x
  | mopa x => exact mopa x
  | vaddHalf x => exact vaddHalf x
  | vsubHalf x => exact vsubHalf x
  | vmulHalf x => exact vmulHalf x
  | vandHalf x => exact vandHalf x
  | vorHalf x => exact vorHalf x
  | vxorHalf x => exact vxorHalf x
  | vandnHalf x => exact vandnHalf x
  | vshlHalf x => exact vshlHalf x
  | vshrHalf x => exact vshrHalf x
  | vsraHalf x => exact vsraHalf x
  | vminHalf x => exact vminHalf x
  | vmaxHalf x => exact vmaxHalf x
  | vmovHalf x => exact vmovHalf x
  | vnegHalf x => exact vnegHalf x
  | vnotHalf x => exact vnotHalf x
  | vabsHalf x => exact vabsHalf x
  | vfaddHalf x => exact vfaddHalf x
  | vfsubHalf x => exact vfsubHalf x
  | vfmulHalf x => exact vfmulHalf x
  | vfminHalf x => exact vfminHalf x
  | vfmaxHalf x => exact vfmaxHalf x
  | vfabsHalf x => exact vfabsHalf x
  | vfnegHalf x => exact vfnegHalf x
  | vhaddHalf x => exact vhaddHalf x
  | vhmulHalf x => exact vhmulHalf x
  | vcvtHalf x => exact vcvtHalf x
  | saddHalf x => exact saddHalf x
  | ssubHalf x => exact ssubHalf x
  | sandHalf x => exact sandHalf x
  | sorHalf x => exact sorHalf x
  | sxorHalf x => exact sxorHalf x
  | sshlHalf x => exact sshlHalf x
  | sshrHalf x => exact sshrHalf x
  | ssraHalf x => exact ssraHalf x
  | smovHalf x => exact smovHalf x
  | sminHalf x => exact sminHalf x
  | smaxHalf x => exact smaxHalf x
  | smulHalf x => exact smulHalf x
  | saddi8Half x => exact saddi8Half x
  | smovi8Half x => exact smovi8Half x
  | nopHalf rest => exact nopHalf rest
  | _ => exact absurd rfl h

end Sys2Proof.Laws.RoundTrip

namespace Sys2Proof

open Machine

/-! ### Bits and bytes of a word -/

theorem bits_add_high (x y : Nat) {n h l : Nat} (hn : h < n) (hl : l ≤ h) : bits (x + y * 2 ^ n) h l = bits x h l := by
  obtain ⟨d, rfl⟩ : ∃ d, n = h + 1 - l + d + l := ⟨n - (h + 1), by omega⟩
  unfold bits
  rw [Nat.pow_add, ← Nat.mul_assoc, Nat.add_mul_div_right _ _ (Nat.two_pow_pos l), Nat.pow_add,
    Nat.mul_comm (2 ^ (h + 1 - l)), ← Nat.mul_assoc, Nat.add_mul_mod_self_right]

theorem bitAt_add_high (x y : Nat) {n i : Nat} (hn : i < n) : bitAt (x + y * 2 ^ n) i = bitAt x i := by
  have h := bits_add_high x y hn (Nat.le_refl i)
  simp only [bits, Nat.add_sub_cancel_left, Nat.pow_one] at h
  simp only [bitAt, h]

theorem length_leBytes (n x : Nat) : (leBytes n x).length = n := by
  induction n generalizing x with
  | zero => rfl
  | succ n ih => simp [leBytes, ih]

theorem leVal_leBytes {n x : Nat} (h : x < 256 ^ n) : leVal (leBytes n x) = x := by
  induction n generalizing x with
  | zero => simp at h; simp [leBytes, leVal, h]
  | succ n ih =>
    have hx : x / 256 < 256 ^ n := Nat.div_lt_of_lt_mul (by rw [Nat.pow_succ] at h; omega)
    simp only [leBytes, leVal, ih hx, BitVec.toNat_ofNat]
    omega

/-- The bytes of a 64-bit word decode as the word does (R32). -/
theorem decodeBytes_leBytes {w : Nat} (h : w < 2 ^ 64) : decodeBytes (leBytes 8 w) = some (decodeBody w) := by
  have hl := length_leBytes 8 w
  rw [decodeBytes, if_neg (by omega), List.take_of_length_le (by omega), leVal_leBytes (by simpa using h)]

/-! ### The seal is no part of what a word decodes to (R34) -/

theorem decodeFull_add_seal (w n : Nat) : decodeFull (w + n * 2 ^ 63) = decodeFull w := by
  simp (disch := decide) only [decodeFull, FR.ofWord, FI.ofWord, FM.ofWord, FB.ofWord, FX.ofWord, bits_add_high,
    bitAt_add_high]

theorem decodeBody_full {w : Nat} (h : w < 2 ^ 62) (n : Nat) : decodeBody (w + n * 2 ^ 63) = decodeFull w := by
  have h62 : bitAt (w + n * 2 ^ 63) 62 = false := by
    rw [bitAt_add_high _ _ (by decide)]
    simp only [bitAt, beq_eq_false_iff_ne]
    omega
  rw [decodeBody, h62, if_neg (by decide), decodeFull_add_seal]

theorem sealBit_add {w : Nat} (h : w < 2 ^ 63) (b : Bool) : sealBit (w + b.toNat * 2 ^ 63) = b := by
  simp only [sealBit, bitAt]
  cases b <;> simp <;> omega

/-- The two halves of a pair word, whatever its seal (R48, R49). -/
theorem decodeBody_pair {a b : Nat} (ha : a < 2 ^ 31) (hb : b < 2 ^ 31) (n : Nat) :
    decodeBody (n * 2 ^ 63 + 2 ^ 62 + a * 2 ^ 31 + b) = .pair (decodeHalf a) (decodeHalf b) := by
  have h62 : bitAt (n * 2 ^ 63 + 2 ^ 62 + a * 2 ^ 31 + b) 62 = true := by
    simp only [bitAt, beq_iff_eq]
    omega
  have h0 : bits (n * 2 ^ 63 + 2 ^ 62 + a * 2 ^ 31 + b) 61 31 = a := by
    simp only [bits]
    omega
  have h1 : bits (n * 2 ^ 63 + 2 ^ 62 + a * 2 ^ 31 + b) 30 0 = b := by
    simp only [bits]
    omega
  rw [decodeBody, if_pos h62, h0, h1]

/-! ### Words and pair words -/

/-- A well-formed full form: its word decodes to it, with the seal that was asked for. -/
theorem decode_wordOf {i : Instr} (hw : i.wf = true) (hf : i.form = .full) (sealed : Bool) :
    decodeBytes (leBytes 8 (wordOf sealed i)) = some (.full i) ∧ sealBit (wordOf sealed i) = sealed
      ∧ wordOf sealed i < 2 ^ 64 := by
  have hs := Laws.RoundTrip.statement_of_word i (by rw [hf]; decide) hw
  rw [hf] at hs
  obtain ⟨w, he, hlt, hd⟩ := hs
  have hword : wordOf sealed i = w + sealed.toNat * 2 ^ 63 := by rw [wordOf, he, Option.getD_some]
  have hb := Bool.toNat_lt sealed
  have h64 : w + sealed.toNat * 2 ^ 63 < 2 ^ 64 := by omega
  rw [hword]
  exact ⟨by rw [decodeBytes_leBytes h64, decodeBody_full hlt, hd], sealBit_add (by omega) _, h64⟩

/-- A well-formed half has 31 bits that decode to it. -/
theorem decodeHalf_encode {i : Instr} (hw : i.wf = true) (hf : i.form = .half) :
    (encode i).getD 0 < 2 ^ 31 ∧ decodeHalf ((encode i).getD 0) = some i := by
  have hs := Laws.RoundTrip.statement_of_word i (by rw [hf]; decide) hw
  rw [hf] at hs
  obtain ⟨w, he, hlt, hd⟩ := hs
  rw [he, Option.getD_some]
  exact ⟨hlt, hd⟩

/-- Two well-formed halves: their pair word decodes to both. -/
theorem decode_pairWord {h0 h1 : Instr} (w0 : h0.wf = true) (w1 : h1.wf = true) (f0 : h0.form = .half)
    (f1 : h1.form = .half) (sealed : Bool) :
    decodeBytes (leBytes 8 (pairWord sealed h0 h1)) = some (.pair (some h0) (some h1))
      ∧ sealBit (pairWord sealed h0 h1) = sealed ∧ pairWord sealed h0 h1 < 2 ^ 64 := by
  obtain ⟨l0, d0⟩ := decodeHalf_encode w0 f0
  obtain ⟨l1, d1⟩ := decodeHalf_encode w1 f1
  have hb := Bool.toNat_lt sealed
  have h64 : pairWord sealed h0 h1 < 2 ^ 64 := by
    unfold pairWord
    omega
  refine ⟨?_, ?_, h64⟩
  · rw [decodeBytes_leBytes h64, pairWord, decodeBody_pair l0 l1, d0, d1]
  · have hsum : pairWord sealed h0 h1
        = 2 ^ 62 + (encode h0).getD 0 * 2 ^ 31 + (encode h1).getD 0 + sealed.toNat * 2 ^ 63 := by
      unfold pairWord
      omega
    rw [hsum, sealBit_add (by omega)]

/-- Settles O3: each row's own round trip, joined over all words and halves, with the seal bit and the place of a half
in its pair word beside it. -/
theorem encodeDecode : Obligations.EncodeDecode := by
  unfold Obligations.EncodeDecode
  exact ⟨fun sealed _ hw hf => decode_wordOf hw hf sealed,
    fun sealed _ _ w0 w1 f0 f1 => decode_pairWord w0 w1 f0 f1 sealed⟩

/-! ### Words written out -/

/-- Settles O2: the decoder evaluated at the four words. -/
theorem decodeWords : Obligations.DecodeWords := by
  unfold Obligations.DecodeWords
  decide +kernel

end Sys2Proof
end

section
/-! ## Every word and every half runs through the wrapper of Table 2.12 -/

namespace Sys2Proof.Machine

/-- A word is the wrapper with some registers to check and some effect. The rows: words with an effect of their own,
words of the grid, branches, words that touch their group alone, halves. -/
theorem exec_eq_runWord {i : Instr} (h : i.form ≠ .event) (s : State) : ∃ sp f, exec i s = runWord i sp s f := by
  cases i with
  | endGroup | yield | trap | tret | emit | call | ret | jmpr | sld | sst | sldc | vld | vst | vlds | vsts | vldw
  | vstw | vpref | vamo | samo | cpy | cpyt | discard | xputSend | xputRead | coll | fence | tfence | binit | barv
  | bwait | bsync | cbar | cmt | mres | mrel | modeM | modeV | acpy | ldsc | mopa => exact ⟨_, _, rfl⟩
  | mzero | ald | ast | aacc => exact ⟨_, _, rfl⟩
  | bra | bcmp | bcmpi | bany | ball | bnone => exact ⟨_, _, rfl⟩
  | nop | srd | swr | grow | shrink | waitc | sadd | ssub | smul | smulh | sdiv | srem | sand | sor | sxor | sandn
  | sshl | sshr | ssra | srot | smin | smax | sclz | spopc | ssel | scmp | sbfe | sbfi | saddi | sandi | sori
  | sxori | sshli | sshri | ssrai | scmpi | smovi | smovhi | msave | mrest | mset | mand | mandn | mcnt | mfirst
  | vadd | vsub | vmul | vmulh | vmad | vaddc | vsubb | vdiv | vrem | vabs | vneg | vmin | vmax | vand | vor
  | vxor | vandn | vnot | vshl | vshr | vsra | vrot | vclz | vpopc | vbrev | vbfe | vbfi | vsel | vcmp | vmov
  | vadds | vsubs | vdot4 | vdot2 | vaddi | vandi | vori | vxori | vshli | vshri | vsrai | vcmpi | vmovi | vlea
  | vaddw | vsubw | vfadd | vfsub | vfmul | vfma | vfms | vfnma | vfmin | vfmax | vfabs | vfneg | vfcmp | vfclass
  | vfdiv | vfsqrt | vfrcp | vfrsq | vfexp2 | vflog2 | vfsin | vfcos | vftanh | vfrnd | vhadd | vhsub | vhmul
  | vhfma | vhmin | vhmax | vhdot | vhcmp | vcvt | vpack | vunpk | vpk8 | vupk8 | vshuf | vshufup | vshufdn
  | vshufx | vbcast | qswap | qbcast | vscan | vred | vrds | vote | vmatch | ttag => exact ⟨_, _, rfl⟩
  | vaddHalf | vsubHalf | vmulHalf | vandHalf | vorHalf | vxorHalf | vandnHalf | vshlHalf | vshrHalf | vsraHalf
  | vminHalf | vmaxHalf | vmovHalf | vnegHalf | vnotHalf | vabsHalf | vfaddHalf | vfsubHalf | vfmulHalf
  | vfminHalf | vfmaxHalf | vfabsHalf | vfnegHalf | vhaddHalf | vhmulHalf | vcvtHalf | saddHalf | ssubHalf
  | sandHalf | sorHalf | sxorHalf | sshlHalf | sshrHalf | ssraHalf | smovHalf | sminHalf | smaxHalf | smulHalf
  | saddi8Half | smovi8Half | nopHalf => exact ⟨_, _, rfl⟩
  | _ => exact absurd rfl h

end Sys2Proof.Machine
end

section
namespace Sys2Proof.Machine

/-- Without an issuing group a word has no meaning. -/
theorem exec_noGroup {i : Instr} {s : State} (h : i.form ≠ .event) (hc : s.cur = none) : exec i s = .fault .noGroup := by
  obtain ⟨sp, f, he⟩ := exec_eq_runWord h s
  rw [he, runWord, onCur_none hc]

/-! ## A clock of the core whose turn it is (R215, R216) -/

theorem thenDo_next (s : State) (f : State → Res) : thenDo (.next s) f = f s := rfl

theorem thenDo_assoc (r : Res) (f g : State → Res) : thenDo (thenDo r f) g = thenDo r (fun t => thenDo (f t) g) := by
  cases r <;> rfl

/-- With no move pending the chosen group of the core whose turn it is issues. -/
theorem step_chosen {s : State} {gid : Nat} (ha : s.agenda = []) (hg : (s.core s.turn).gated = false)
    (hc : (s.prepare s.turn).chosen s.turn = some gid) :
    step s = thenDo (issueNext s.turn gid ((s.prepare s.turn).passCounts s.turn (some gid)))
      (fun t => .next (t.tickCore s.turn).fitL1s) := by
  simp only [step, ha, clockCore, hg, Bool.false_eq_true, if_false, hc, thenDo_assoc, thenDo_next]

/-- An offset past the end of .text takes its trap (R170). -/
theorem issueNext_outside {k gid : Nat} {s : State} {g : Group} {b : Block} (hf : AMap.find gid s.groups = some g)
    (hb : s.blockOf g = some b) (hp : b.node.textSize ≤ g.pc) :
    issueNext k gid s = .next (s.enterTrap gid g 0x08 0x35 g.pc) := by
  simp only [issueNext, hf, hb, if_pos hp]

/-- The word that the fetch gives issues. -/
theorem issueNext_word {k gid w : Nat} {s : State} {g : Group} {b : Block} (hf : AMap.find gid s.groups = some g)
    (hb : s.blockOf g = some b) (hp : g.pc < b.node.textSize) (hw : s.cachedWord g b = some w) :
    issueNext k gid s = issueWord k gid g w s := by
  simp only [issueNext, hf, hb, if_neg (Nat.not_le.2 hp), hw]

/-- A step in which a word issues: its body runs with the group issuing, then the seal, the pipes, the clock and L1. -/
theorem step_issues {s : State} {gid w : Nat} {g : Group} {b : Block} (ha : s.agenda = [])
    (hg : (s.core s.turn).gated = false) (hc : (s.prepare s.turn).chosen s.turn = some gid)
    (hf : AMap.find gid ((s.prepare s.turn).passCounts s.turn (some gid)).groups = some g)
    (hb : ((s.prepare s.turn).passCounts s.turn (some gid)).blockOf g = some b) (hp : g.pc < b.node.textSize)
    (hw : ((s.prepare s.turn).passCounts s.turn (some gid)).cachedWord g b = some w) :
    step s = thenDo (runBody gid g w { (s.prepare s.turn).passCounts s.turn (some gid) with cur := some gid })
      (fun t => .next (({ (t.sealAfter gid g w).issued s.turn gid g w with cur := none }.tickCore s.turn).fitL1s)) := by
  rw [step_chosen ha hg hc, issueNext_word hf hb hp hw, issueWord, thenDo_assoc]
  rfl

/-! ## What runs for a word (R51, R55) -/

variable {gid w : Nat} {g : Group} {s : State}

theorem runBody_full {i : Instr} (h : decodeBody w = .full i) : runBody gid g w s = exec i s := by
  rw [runBody, h]

theorem runBody_bad {r : Nat} (h : decodeBody w = .bad r) : runBody gid g w s = .next (s.enterTrap gid g 0x01 r g.pc) := by
  rw [runBody, h]

theorem runBody_pair {h0 h1 : Instr} (h : decodeBody w = .pair (some h0) (some h1)) (hc : pairCheck w = none)
    (hs : pairFits g.alloc w = true) : runBody gid g w s = runPair gid g h0 h1 s := by
  simp only [runBody, h, hc, hs, Bool.not_true, Bool.false_eq_true, if_false]

theorem decodeBody_of_bit {w : Nat} (h : bitAt w 62 = true) :
    decodeBody w = .pair (decodeHalf (bits w 61 31)) (decodeHalf (bits w 30 0)) := by
  rw [decodeBody, if_pos h]

/-- A pair word that fails a check of 9 to 15 takes its trap (R55). -/
theorem runBody_pairCheck {kind info : Nat} (h : bitAt w 62 = true) (hc : pairCheck w = some (kind, info)) :
    runBody gid g w s = .next (s.enterTrap gid g kind info g.pc) := by
  rw [runBody, decodeBody_of_bit h]
  cases decodeHalf (bits w 61 31) with
  | none => simp only [hc]
  | some a =>
    cases decodeHalf (bits w 30 0) with
    | none => simp only [hc]
    | some b => simp only [hc]

/-- H0's own checks come before all others of a pair word (R55). -/
theorem pairCheck_first {r : Nat} (h : halfCheck 0 (decodeHalf (bits w 61 31)) = some r) : pairCheck w = some (0x01, r) := by
  simp only [pairCheck, h]

/-- H1's own checks come next. -/
theorem pairCheck_second {r : Nat} (h0 : halfCheck 0 (decodeHalf (bits w 61 31)) = none)
    (h1 : halfCheck 1 (decodeHalf (bits w 30 0)) = some r) : pairCheck w = some (0x01, r) := by
  simp only [pairCheck, h0, h1]

/-- A pair word that passes checks 9 to 15 has two assigned halves (check 9). -/
theorem decodeBody_of_pairCheck (h : bitAt w 62 = true) (hc : pairCheck w = none) :
    ∃ h0 h1, decodeBody w = .pair (some h0) (some h1) := by
  have p0 : halfCheck 0 (decodeHalf (bits w 61 31)) = none :=
    Option.eq_none_iff_forall_ne_some.2 fun r hr => by simp [pairCheck_first hr] at hc
  have p1 : halfCheck 1 (decodeHalf (bits w 30 0)) = none :=
    Option.eq_none_iff_forall_ne_some.2 fun r hr => by simp [pairCheck_second p0 hr] at hc
  rw [decodeBody_of_bit h]
  cases d0 : decodeHalf (bits w 61 31) with
  | none => simp [d0, halfCheck] at p0
  | some a =>
    cases d1 : decodeHalf (bits w 30 0) with
    | none => simp [d1, halfCheck] at p1
    | some b => exact ⟨a, b, rfl⟩

/-- A pair word that names a register past the allocation takes the trap of check 16. -/
theorem runBody_pairRange (h : bitAt w 62 = true) (hc : pairCheck w = none) (hs : pairFits g.alloc w = false) :
    runBody gid g w s = .next (s.enterTrap gid g 0x09 0x21 g.pc) := by
  obtain ⟨h0, h1, hd⟩ := decodeBody_of_pairCheck h hc
  simp only [runBody, hd, hc, hs, Bool.not_false, if_true]

/-! ## The group chosen (R215, R216) -/

theorem firstBy_mem {before : Nat × Group → Nat × Group → Bool} {l : List (Nat × Group)} {e : Nat × Group}
    (h : firstBy before l = some e) : e ∈ l := by
  induction l generalizing e with
  | nil => simp [firstBy] at h
  | cons a l ih =>
    simp only [firstBy] at h
    cases hr : firstBy before l with
    | none => simp_all
    | some f =>
      have hf := ih hr
      rw [hr] at h
      dsimp only at h
      split at h <;> simp_all

/-- The group chosen is one of the core's that may issue. -/
theorem chosen_ready {k : Nat} (h : s.chosen k = some gid) :
    ∃ g, (gid, g) ∈ s.groups ∧ s.readyToIssue k g = true := by
  obtain ⟨⟨n, g⟩, hf, rfl⟩ := Option.map_eq_some_iff.1 h
  obtain ⟨hon, hr⟩ := List.mem_filter.1 (firstBy_mem hf)
  exact ⟨g, (List.mem_filter.1 hon).1, hr⟩

/-- A group that may issue: active, waiting for nothing, its next word taken by the units unless its offset is past
.text. -/
theorem readyToIssue_cases {k : Nat} (h : s.readyToIssue k g = true) :
    ∃ b, s.blockOf g = some b ∧ g.inActive = true ∧ s.waits g = false
      ∧ (g.pc < b.node.textSize → ∃ w, s.cachedWord g b = some w ∧ s.accepts k g w = true) := by
  simp only [State.readyToIssue, State.atIssue, Bool.and_eq_true, Bool.not_eq_true'] at h
  obtain ⟨⟨⟨⟨hact, hwait⟩, _⟩, _⟩, hnext⟩ := h
  cases hb : s.blockOf g with
  | none => simp [hb] at hnext
  | some b =>
    refine ⟨b, rfl, hact, hwait, fun hp => ?_⟩
    simp only [hb, if_neg (Nat.not_le.2 hp)] at hnext
    cases hw : s.cachedWord g b with
    | none => simp [hw] at hnext
    | some w => exact ⟨w, rfl, by simpa [hw] using hnext⟩

theorem fetch_cached {b : Block} (h : s.cachedWord g b = some w) : s.fetch gid g b = s := by
  simp only [State.fetch, h]

/-! ## What L1 gives up (R208) -/

/-- From s to t only free values were drawn and lines of L1s given up. -/
def OnlyL1Shrinks (s t : State) : Prop :=
  t = { s with cores := t.cores, freeTick := t.freeTick }
  ∧ ∀ k, t.core k = { s.core k with l1 := (t.core k).l1 } ∧ ∀ e ∈ (t.core k).l1, e ∈ (s.core k).l1

theorem OnlyL1Shrinks.refl (s : State) : OnlyL1Shrinks s s := ⟨rfl, fun _ => ⟨rfl, fun _ h => h⟩⟩

theorem OnlyL1Shrinks.trans {s t u : State} (h : OnlyL1Shrinks s t) (k : OnlyL1Shrinks t u) : OnlyL1Shrinks s u := by
  obtain ⟨h1, h2⟩ := h
  obtain ⟨k1, k2⟩ := k
  refine ⟨by rw [k1, h1], fun n => ⟨by rw [(k2 n).1, (h2 n).1], fun e he => (h2 n).2 e ((k2 n).2 e he)⟩⟩

theorem State.core_setCore (s : State) (k n : Nat) (c : Core) : (s.setCore n c).core k = if k = n then c else s.core k := by
  unfold State.core
  rw [State.setCore_cores, AMap.find_put]
  split <;> rfl

/-- A core keeps some of its lines. -/
theorem onlyL1Shrinks_filter (s : State) (n : Nat) (p : Nat × Nat × Nat → Bool) :
    OnlyL1Shrinks s (s.setCore n { s.core n with l1 := (s.core n).l1.filter p }) := by
  refine ⟨rfl, fun k => ?_⟩
  rw [State.core_setCore]
  split
  · rename_i hk
    subst hk
    exact ⟨rfl, fun e he => (List.mem_filter.1 he).1⟩
  · exact ⟨rfl, fun _ h => h⟩

theorem onlyL1Shrinks_evictL1 (core n : Nat) (s : State) : OnlyL1Shrinks s (State.evictL1 core n s) := by
  induction n generalizing s with
  | zero => exact OnlyL1Shrinks.refl s
  | succ n ih =>
    have hfresh : OnlyL1Shrinks s s.fresh.2 := ⟨rfl, fun _ => ⟨rfl, fun _ h => h⟩⟩
    exact hfresh.trans ((onlyL1Shrinks_filter _ core _).trans (ih _))

theorem onlyL1Shrinks_fitL1 (s : State) (core : Nat) : OnlyL1Shrinks s (s.fitL1 core) := by
  unfold State.fitL1
  dsimp only
  split
  · exact OnlyL1Shrinks.refl s
  · exact onlyL1Shrinks_evictL1 _ _ _

theorem onlyL1Shrinks_fitL1s (s : State) : OnlyL1Shrinks s s.fitL1s := by
  unfold State.fitL1s
  induction s.cores.map Prod.fst generalizing s with
  | nil => exact OnlyL1Shrinks.refl s
  | cons k l ih => exact (onlyL1Shrinks_fitL1 s k).trans (ih _)

end Sys2Proof.Machine

namespace Sys2Proof

open Machine

/-- Settles O1: the word that the fetch gives for the chosen group goes through the body's cases, and each move ends with
L1 giving up what no longer fits. -/
theorem stepRunsDecodedWord : Obligations.StepRunsDecodedWord := by
  unfold Obligations.StepRunsDecodedWord
  refine ⟨?_, ?_, ?_, ?_, ?_, ?_, ?_, ?_⟩
  · intro s gid w g b i k r ha hg hc hf hb hp hw hd hlt
    rw [decodeBytes_leBytes hlt] at hd
    rw [step_issues ha hg hc hf hb hp hw, runBody_full (Option.some.inj hd)]
  · intro s gid w g b h0 h1 k r ha hg hc hf hb hp hw hd hlt hpc hfit
    rw [decodeBytes_leBytes hlt] at hd
    rw [step_issues ha hg hc hf hb hp hw, runBody_pair (Option.some.inj hd) hpc hfit]
  · intro s gid w g b k r ha hg hc hf hb
    refine ⟨fun hp => ?_, fun hp hw => ?_⟩
    · rw [step_chosen ha hg hc, issueNext_outside hf hb hp, thenDo_next]
    · have hstep := step_issues ha hg hc hf hb hp hw
      refine ⟨fun reason hbad => ?_, fun h62 kind info hpc => ?_, fun h62 hpc hfit => ?_⟩
      · rw [hstep, runBody_bad hbad, thenDo_next]
      · rw [hstep, runBody_pairCheck h62 hpc, thenDo_next]
      · rw [hstep, runBody_pairRange h62 hpc hfit, thenDo_next]
  · intro s k gid h
    obtain ⟨g, hmem, hready⟩ := chosen_ready h
    obtain ⟨b, hb, hact, hwait, hnext⟩ := readyToIssue_cases hready
    exact ⟨g, b, hmem, hb, hact, hwait, hnext⟩
  · intro s i rest ha
    simp only [step, ha, move]
  · intro s k
    obtain ⟨hrest, hcore⟩ := onlyL1Shrinks_fitL1s s
    exact ⟨s.fitL1s.cores, hrest, hcore k⟩
  · intro s gid w g b h
    exact fetch_cached h
  · intro s i h hc
    exact exec_noGroup h hc

end Sys2Proof
end

section
/-! ## A release of the grid marks an ACPY .ld that is still out (R237, R238) -/

namespace Sys2Proof.Machine.ReleaseCounterexample

/-- An ACPY .ld of one lane, not yet complete, issued under the group's reservation. -/
def acpyLoad : Op := Op.make .cp (.acpy true 0 0 0 0 0 false []) [LaneReq.make 0 0] [0]

/-- A group in matrix mode that holds the grid and has issued MREL: it waits until the grid is drained, with nothing
out but the ACPY .ld. -/
def group : Group :=
  { State.reset.newGroup 0 1 0 placedNode 0 0 0 [placedRecord] [] with
    grid := true, mtx := true, wait := .modeV true, ops := [acpyLoad] }

def block : Block := newBlock 0 placedBatch placedNode 0 0 0 [[placedRecord]] []

/-- The group and its block alone on core 0, which the group has reserved. -/
def state : State :=
  { State.reset with
    cores := [(0, { Core.reset with holder := some 2 })], groups := [(2, group)], blocks := [(1, block)] }

/-- The operations of a group after a move. -/
def opsAfter (r : Res) (gid : Nat) : Option (List Op) :=
  match r with
  | .next t => (AMap.find gid t.groups).map Group.ops
  | .fault _ | .refused _ => none

theorem stands : Stands state 2 group block := ⟨rfl, rfl, by decide⟩

/-- The release has marked the operation as no longer granted. -/
theorem opsAfter_modeVDrained : opsAfter (exec (.modeVDrained 2) state) 2 = some [acpyLoad.ungrant] := by
  decide +kernel

theorem ungrant_ne : acpyLoad.ungrant ≠ acpyLoad := by decide

end Sys2Proof.Machine.ReleaseCounterexample

namespace Sys2Proof

open Machine ReleaseCounterexample

/-- Refutes O46: where MODE.V or END gives up the grid, the statement has every field of the group but those it names
as before, its operations among them; the release also marks each ACPY .ld that is out, so that what still comes for it
reaches no store (R237, log 66). The state: a group past its MREL whose grid is drained, an ACPY .ld out. -/
theorem not_waitsEnd : ¬ Obligations.WaitsEnd := by
  unfold Obligations.WaitsEnd
  intro h
  obtain ⟨-, -, -, -, -, -, -, -, modeV, -, -⟩ := h state 2 group block stands
  obtain ⟨t, k, hexec, hfind, hk, -⟩ := modeV true rfl (by decide)
  have kept : k.ops = [acpyLoad] := by rw [hk]; rfl
  have marked : some k.ops = some [acpyLoad.ungrant] := by
    rw [← opsAfter_modeVDrained, hexec]
    simp only [opsAfter, hfind, Option.map_some]
  rw [kept] at marked
  exact ungrant_ne (List.cons.inj (Option.some.inj marked)).1.symm

end Sys2Proof
end

section
/-! ## Illegal words: checks 1 and 2, and the traps (Table 2.12) -/

namespace Sys2Proof

open Machine

/-! ### A word's family and its function codes (Table 2.9) -/

section
variable {w : Nat}

theorem decodeFull_ctl (h : bits w 61 56 = 0x00) : decodeFull w = pick fnCtl (bits w 15 8) (FR.ofWord w) := by
  simp only [decodeFull, h]
theorem decodeFull_salu (h : bits w 61 56 = 0x01) : decodeFull w = pick fnSalu (bits w 15 8) (FR.ofWord w) := by
  simp only [decodeFull, h]
theorem decodeFull_salui (h : bits w 61 56 = 0x02) : decodeFull w = pick fnSalui (bits w 33 26) (FI.ofWord w) := by
  simp only [decodeFull, h]
theorem decodeFull_mask (h : bits w 61 56 = 0x03) : decodeFull w = pick fnMask (bits w 15 8) (FR.ofWord w) := by
  simp only [decodeFull, h]
theorem decodeFull_br (h : bits w 61 56 = 0x04) : decodeFull w = pick fnBr (bits w 36 32) (FB.ofWord w) := by
  simp only [decodeFull, h]
theorem decodeFull_smem (h : bits w 61 56 = 0x05) : decodeFull w = pick fnSmem (bits w 16 13) (FM.ofWord w) := by
  simp only [decodeFull, h]
theorem decodeFull_vint (h : bits w 61 56 = 0x08) : decodeFull w = pick fnVint (bits w 15 8) (FR.ofWord w) := by
  simp only [decodeFull, h]
theorem decodeFull_vinti (h : bits w 61 56 = 0x09) : decodeFull w = pick fnVinti (bits w 33 26) (FI.ofWord w) := by
  simp only [decodeFull, h]
theorem decodeFull_vadr (h : bits w 61 56 = 0x0A) : decodeFull w = pick fnVadr (bits w 15 8) (FR.ofWord w) := by
  simp only [decodeFull, h]
theorem decodeFull_vfp (h : bits w 61 56 = 0x10) : decodeFull w = pick fnVfp (bits w 15 8) (FR.ofWord w) := by
  simp only [decodeFull, h]
theorem decodeFull_vhfp (h : bits w 61 56 = 0x11) : decodeFull w = pick fnVhfp (bits w 15 8) (FR.ofWord w) := by
  simp only [decodeFull, h]
theorem decodeFull_vcvt (h : bits w 61 56 = 0x12) : decodeFull w = pick fnVcvt (bits w 15 8) (FR.ofWord w) := by
  simp only [decodeFull, h]
theorem decodeFull_xlane (h : bits w 61 56 = 0x18) : decodeFull w = pick fnXlane (bits w 15 8) (FR.ofWord w) := by
  simp only [decodeFull, h]
theorem decodeFull_vmem (h : bits w 61 56 = 0x1C) : decodeFull w = pick fnVmem (bits w 16 13) (FM.ofWord w) := by
  simp only [decodeFull, h]
theorem decodeFull_eng (h : bits w 61 56 = 0x24) : decodeFull w = pick fnEng (bits w 15 8) (FR.ofWord w) := by
  simp only [decodeFull, h]
theorem decodeFull_sync (h : bits w 61 56 = 0x28) : decodeFull w = pick fnSync (bits w 15 8) (FR.ofWord w) := by
  simp only [decodeFull, h]
theorem decodeFull_mtx (h : bits w 61 56 = 0x2C) : decodeFull w = pick fnMtx (bits w 15 8) (FR.ofWord w) := by
  simp only [decodeFull, h]
theorem decodeFull_vamo (h : bits w 61 56 = 0x20) :
    decodeFull w = pick (AOp.all.map Instr.vamo) (bits w 16 13) (FM.ofWord w) := by
  simp only [decodeFull, h]
theorem decodeFull_samo (h : bits w 61 56 = 0x21) :
    decodeFull w = pick (AOp.all.map Instr.samo) (bits w 16 13) (FM.ofWord w) := by
  simp only [decodeFull, h]
theorem decodeFull_mopa (h : bits w 61 56 = 0x2D) : decodeFull w = .full (.mopa (FX.ofWord w)) := by
  simp only [decodeFull, h]

theorem decodeBody_of_clear (h : bitAt w 62 = false) : decodeBody w = decodeFull w := by
  rw [decodeBody, h, if_neg Bool.false_ne_true]

/-- A function code past the end of its family's list is unassigned (check 2); every other decodes. -/
theorem pick_counts {α : Type} (l : List (α → Instr)) (n : Nat) (x : α) :
    (l.length ≤ n → pick l n x = .bad 0x02) ∧ (n < l.length → ∃ i, pick l n x = .full i) := by
  refine ⟨fun h => ?_, fun h => ⟨l[n] x, ?_⟩⟩
  · simp only [pick, List.getElem?_eq_none h]
  · simp only [pick, List.getElem?_eq_getElem h]

/-- A family of c function codes, at the word's code fn. -/
theorem counts_of_pick {α : Type} {m fn c : Nat} {l : List (α → Instr)} {x : α}
    (hl : bits w 61 56 = m → decodeFull w = pick l fn x) (h62 : bitAt w 62 = false) (hc : l.length = c) :
    bits w 61 56 = m →
      (c ≤ fn → decodeBody w = .bad 0x02) ∧ (fn < c → ∃ i, decodeBody w = .full i) := by
  intro hm
  rw [decodeBody_of_clear h62, hl hm, ← hc]
  exact pick_counts l fn x

/-- MOPA has no function code: every word of its MAJ decodes. -/
theorem counts_of_mopa (h62 : bitAt w 62 = false) (hm : bits w 61 56 = 0x2D) :
    (1 ≤ 0 → decodeBody w = .bad 0x02) ∧ (0 < 1 → ∃ i, decodeBody w = .full i) := by
  rw [decodeBody_of_clear h62, decodeFull_mopa hm]
  exact ⟨fun h => absurd h (by decide), fun _ => ⟨_, rfl⟩⟩

/-- MAJ outside Table 2.9 is check 1. -/
theorem decodeFull_unassigned
    (h : bits w 61 56 ∉ [0x00, 0x01, 0x02, 0x03, 0x04, 0x05, 0x08, 0x09, 0x0A, 0x10, 0x11, 0x12, 0x18, 0x1C, 0x20, 0x21,
      0x24, 0x28, 0x2C, 0x2D]) : decodeFull w = .bad 0x01 := by
  unfold decodeFull
  dsimp only
  split <;> simp_all

/-- The number of function codes of each MAJ, at the word's own function code. -/
theorem decodeBody_counts (h62 : bitAt w 62 = false) :
    ∀ e ∈ [(0x00, bits w 15 8, 11), (0x01, bits w 15 8, 22), (0x02, bits w 33 26, 10), (0x03, bits w 15 8, 7),
        (0x04, bits w 36 32, 9), (0x05, bits w 16 13, 3), (0x08, bits w 15 8, 34), (0x09, bits w 33 26, 9),
        (0x0A, bits w 15 8, 3), (0x10, bits w 15 8, 22), (0x11, bits w 15 8, 8), (0x12, bits w 15 8, 5),
        (0x18, bits w 15 8, 12), (0x1C, bits w 16 13, 7), (0x20, bits w 16 13, 14), (0x21, bits w 16 13, 14),
        (0x24, bits w 15 8, 6), (0x28, bits w 15 8, 8), (0x2C, bits w 15 8, 9), (0x2D, 0, 1)],
      bits w 61 56 = e.1 →
        (e.2.2 ≤ e.2.1 → decodeBody w = .bad 0x02) ∧ (e.2.1 < e.2.2 → ∃ i, decodeBody w = .full i) := by
  simp only [List.forall_mem_cons]
  exact ⟨counts_of_pick decodeFull_ctl h62 rfl, counts_of_pick decodeFull_salu h62 rfl,
    counts_of_pick decodeFull_salui h62 rfl, counts_of_pick decodeFull_mask h62 rfl,
    counts_of_pick decodeFull_br h62 rfl, counts_of_pick decodeFull_smem h62 rfl,
    counts_of_pick decodeFull_vint h62 rfl, counts_of_pick decodeFull_vinti h62 rfl,
    counts_of_pick decodeFull_vadr h62 rfl, counts_of_pick decodeFull_vfp h62 rfl,
    counts_of_pick decodeFull_vhfp h62 rfl, counts_of_pick decodeFull_vcvt h62 rfl,
    counts_of_pick decodeFull_xlane h62 rfl, counts_of_pick decodeFull_vmem h62 rfl,
    counts_of_pick decodeFull_vamo h62 rfl, counts_of_pick decodeFull_samo h62 rfl,
    counts_of_pick decodeFull_eng h62 rfl, counts_of_pick decodeFull_sync h62 rfl,
    counts_of_pick decodeFull_mtx h62 rfl, counts_of_mopa h62, List.forall_mem_nil _⟩

end

namespace Machine

/-! ### The traps of checks 3 to 11 and 16 -/

variable {i : Instr} {s : State} {gid : Nat} {g : Group}

/-- A word, or a half, that fails a check of its own bits takes the illegal-instruction trap, and does nothing else. -/
theorem exec_illegal {r : Nat} (h : i.form ≠ .event) (hi : Issues s gid g) (hr : i.check = some r) :
    exec i s = .next (s.enterTrap gid g 0x01 (r + (if 9 ≤ r then g.halfBit else 0)) g.pc) := by
  obtain ⟨sp, f, he⟩ := exec_eq_runWord h s
  rw [he, runWord_illegal hi.1 hi.2 hr]

/-- A word whose registers `sp` pass the allocation takes the trap of check 16. -/
theorem exec_pastAllocation {sp : List (Nat × Nat)} (hf : ∃ f, exec i s = runWord i sp s f) (hi : Issues s gid g)
    (hw : i.wf = true) (he : ∃ e ∈ sp, 16 * g.alloc < e.1 + e.2) :
    exec i s = .next (s.enterTrap gid g 0x09 0x21 g.pc) := by
  obtain ⟨f, hf⟩ := hf
  obtain ⟨e, hmem, hlt⟩ := he
  have hs : spansOk (16 * g.alloc) sp = false := by
    rw [spansOk, List.all_eq_false]
    exact ⟨e, hmem, by simpa using hlt⟩
  rw [hf, runWord_range hi.1 hi.2 (Instr.check_of_wf hw) hs]

end Machine
end Sys2Proof
end

section
/-! ## Operand kinds, read off the 9-bit code of a field (Table 2.7) -/

namespace Sys2Proof

open Machine

/-! ### Codes -/

theorem Special.index_of_all {n : Nat} {x : Special} (h : Special.all[n]? = some x) : x.index = n := by
  have hall : ∀ n < 14, Special.all[n]?.map Special.index = some n := by decide
  have hn : n < 14 := (List.getElem?_eq_some_iff.1 h).1
  exact Option.some.inj ((congrArg (Option.map Special.index) h).symm.trans (hall n hn))

/-- A code reads back from its operand, a reserved code too. -/
theorem Operand.code_ofCode {c : Nat} (h : c < 512) : (Operand.ofCode c).code = c := by
  unfold Operand.ofCode
  split
  · simp only [Operand.code, BitVec.toNat_ofNat]; omega
  split
  · simp only [Operand.code, BitVec.toNat_ofNat]; omega
  split
  · simp only [Operand.code, BitVec.toNat_ofNat]; omega
  split
  · simp only [Operand.code, BitVec.toNat_ofNat]; omega
  split
  · split
    · rename_i x hx
      have hi : x.index = c - 0x160 := Special.index_of_all hx
      simp only [Operand.code, hi]; omega
    · simp only [Operand.code, BitVec.toNat_ofNat]; omega
  · simp only [Operand.code, BitVec.toNat_ofNat]; omega

namespace Code

/-- The reserved codes. -/
def reserved (c : Nat) : Bool := decide (0x148 ≤ c ∧ c < 0x160 ∨ 0x16E ≤ c ∧ c < 0x180)

end Code

theorem Operand.isReserved_ofCode (c : Nat) : (Operand.ofCode c).isReserved = Code.reserved c := by
  unfold Operand.ofCode Code.reserved
  split
  · simp only [Operand.isReserved, eq_comm (a := false), decide_eq_false_iff_not]; omega
  split
  · simp only [Operand.isReserved, eq_comm (a := false), decide_eq_false_iff_not]; omega
  split
  · simp only [Operand.isReserved, eq_comm (a := false), decide_eq_false_iff_not]; omega
  split
  · simp only [Operand.isReserved, eq_comm (a := true), decide_eq_true_eq]; omega
  split
  · split
    · rename_i x hx
      have hlt : c - 0x160 < 14 := (List.getElem?_eq_some_iff.1 hx).1
      simp only [Operand.isReserved, eq_comm (a := false), decide_eq_false_iff_not]; omega
    · rename_i hx
      have hge : 14 ≤ c - 0x160 := List.getElem?_eq_none_iff.1 hx
      simp only [Operand.isReserved, eq_comm (a := true), decide_eq_true_eq]; omega
  · simp only [Operand.isReserved, eq_comm (a := false), decide_eq_false_iff_not]; omega

/-- The kind `k` is what `p` says of an operand's code, reserved codes aside. -/
def KindOf (k : Operand → Bool) (p : Nat → Bool) : Prop := ∀ o : Operand, o.isReserved = false → k o = p o.code

theorem KindOf.ofCode {k : Operand → Bool} {p : Nat → Bool} (h : KindOf k p) {c : Nat} (hc : c < 512)
    (hr : Code.reserved c = false) : k (.ofCode c) = p c := by
  rw [h _ ((Operand.isReserved_ofCode c).trans hr), Operand.code_ofCode hc]

/-! ### Each kind -/

namespace Code

def unused (c : Nat) : Bool := c == 0
def vec (c : Nat) : Bool := decide (c < 0x100)
def vecEven (c : Nat) : Bool := decide (c < 0x100 ∧ c % 2 = 0)
def scalTo (top c : Nat) : Bool := decide (0x100 ≤ c ∧ c ≤ 0x100 + top)
def pred (c : Nat) : Bool := decide (0x140 ≤ c ∧ c < 0x148)
def predW (c : Nat) : Bool := decide (0x140 ≤ c ∧ c < 0x147)
def inlineTo (top c : Nat) : Bool := decide (0x180 ≤ c ∧ c ≤ 0x180 + top)
def uniform (c : Nat) : Bool :=
  scalTo 63 c || decide (0x180 ≤ c) || [0x162, 0x163, 0x164, 0x165, 0x169, 0x16B, 0x16C, 0x16D].contains c
def data (c : Nat) : Bool := !pred c
def wide (c : Nat) : Bool := data c && (!vec c || vecEven c)
def base (c : Nat) : Bool := scalTo 63 c || c == 0x16B
def vbase (c : Nat) : Bool := base c || vecEven c

end Code

/-- A kind, row by row of Table 2.7. -/
theorem kindOf_of_rows {k : Operand → Bool} {p : Nat → Bool}
    (hv : ∀ n : BitVec 8, n.toNat < 0x100 → (k (.v n) = true ↔ p n.toNat = true))
    (hs : ∀ n : BitVec 6, n.toNat < 0x40 → (k (.s n) = true ↔ p (0x100 + n.toNat) = true))
    (hq : ∀ n : BitVec 3, n.toNat < 8 → (k (.q n) = true ↔ p (0x140 + n.toNat) = true))
    (hx : ∀ x : Special, x.index < 14 → (k (.sp x) = true ↔ p (0x160 + x.index) = true))
    (hi : ∀ n : BitVec 7, n.toNat < 0x80 → (k (.imm n) = true ↔ p (0x180 + n.toNat) = true)) : KindOf k p := by
  intro o h
  rw [Bool.eq_iff_iff]
  cases o with
  | v n => exact hv n n.isLt
  | s n => exact hs n n.isLt
  | q n => exact hq n n.isLt
  | sp x => exact hx x x.index_lt
  | imm n => exact hi n n.isLt
  | reserved c => cases h

theorem kindOf_unused : KindOf kUnused Code.unused := by
  apply kindOf_of_rows <;> intro n <;> simp [kUnused, Code.unused, BitVec.toNat_eq]

theorem kindOf_vec : KindOf kVec Code.vec := by
  apply kindOf_of_rows <;> intro n <;> simp [kVec, Code.vec] <;> omega

theorem kindOf_vecEven : KindOf kVecEven Code.vecEven := by
  apply kindOf_of_rows <;> intro n <;> simp [kVecEven, Code.vecEven] <;> omega

theorem kindOf_scalTo {top : Nat} (h : top < 0x40) : KindOf (kScalTo top) (Code.scalTo top) := by
  apply kindOf_of_rows <;> intro n <;> simp [kScalTo, Code.scalTo] <;> omega

theorem kindOf_scal : KindOf kScal (Code.scalTo 63) := by
  apply kindOf_of_rows <;> intro n <;> simp [kScal, Code.scalTo] <;> omega

theorem kindOf_pred : KindOf kPred Code.pred := by
  apply kindOf_of_rows <;> intro n <;> simp [kPred, Code.pred] <;> omega

theorem kindOf_predW : KindOf kPredW Code.predW := by
  apply kindOf_of_rows <;> intro n <;> simp [kPredW, Code.predW] <;> omega

theorem kindOf_inline (top : Nat) : KindOf (kInline top) (Code.inlineTo top) := by
  apply kindOf_of_rows <;> intro n <;> simp [kInline, Code.inlineTo] <;> omega

theorem kindOf_data : KindOf kData Code.data := by
  apply kindOf_of_rows <;> intro n <;> simp [kData, Code.data, Code.pred] <;> omega

theorem kindOf_wide : KindOf kWide Code.wide := by
  apply kindOf_of_rows <;> intro n <;> simp [kWide, Code.wide, Code.data, Code.pred, Code.vec, Code.vecEven] <;> omega

theorem kindOf_uniform : KindOf kUniform Code.uniform := by
  apply kindOf_of_rows
  case hx =>
    intro x
    cases x <;> simp [kUniform, Code.uniform, Code.scalTo, Special.perLane, Special.index]
  all_goals
    intro n
    simp [kUniform, Code.uniform, Code.scalTo] <;> omega

theorem kindOf_base : KindOf kBase Code.base := by
  apply kindOf_of_rows
  case hx =>
    intro x
    cases x <;> simp [kBase, Code.base, Code.scalTo, Special.index]
  all_goals
    intro n
    simp [kBase, Code.base, Code.scalTo]
    omega

theorem KindOf.or {k k' : Operand → Bool} {p p' : Nat → Bool} (h : KindOf k p) (h' : KindOf k' p') :
    KindOf (kOr k k') (fun c => p c || p' c) := by
  intro o ho
  rw [kOr, h o ho, h' o ho]

theorem kindOf_vbase : KindOf kVBase Code.vbase := kindOf_base.or kindOf_vecEven

end Sys2Proof
end

section
/-! ## Checks 3 to 8 of a full-form word, read off its bits (Table 2.12) -/

namespace Sys2Proof

open Machine

theorem bits_lt (x h l : Nat) : bits x h l < 2 ^ (h + 1 - l) := Nat.mod_lt _ (Nat.two_pow_pos _)

/-- The operand field n of a word. -/
def opField (w n : Nat) : Nat := bits w (51 - 9 * n) (43 - 9 * n)

theorem opField_lt (w : Nat) {n : Nat} (hn : n ≤ 3) : opField w n < 512 := by
  have h := bits_lt w (51 - 9 * n) (43 - 9 * n)
  rwa [show 51 - 9 * n + 1 - (43 - 9 * n) = 9 by omega] at h

/-- The first of checks 3 to 8 that fails: guard 15, a uniform word's guard, a reserved code, a kind, and the rest with
reason `last`. -/
def firstFailure (g : Nat) (uniform : Bool) (fields : List Nat) (kinds rest : Bool) (last : Nat) : Option Nat :=
  if g = 15 then some 3 else if uniform && g != 7 then some 4
  else if fields.any Code.reserved then some 5 else if !kinds then some 6 else if !rest then some last else none

/-- The kinds count only where no field holds a reserved code. -/
theorem firstFailure_congr {g : Nat} {u : Bool} {fields : List Nat} {kinds kinds' rest : Bool} {last : Nat}
    (h : (∀ c ∈ fields, Code.reserved c = false) → kinds = kinds') :
    firstFailure g u fields kinds rest last = firstFailure g u fields kinds' rest last := by
  unfold firstFailure
  cases hr : fields.any Code.reserved with
  | true => simp only [if_true]
  | false => rw [h (by simpa using hr)]

/-! ### The formats -/

theorem guard_ne (g : BitVec 4) : decide (g ≠ 7#4) = (g.toNat != 7) := by
  rw [Bool.eq_iff_iff]
  simp [BitVec.toNat_eq]

/-- An F-R word with its operand codes d, a, b, c. -/
theorem FR.check_codes (g : BitVec 4) (d a b c : Nat) (md : BitVec 8) (r : RRule) :
    FR.check ⟨g, .ofCode d, .ofCode a, .ofCode b, .ofCode c, md⟩ r
      = firstFailure g.toNat r.uniform [d, a, b, c]
          (r.d (.ofCode d) && r.a (.ofCode a) && r.b (.ofCode b) && r.c (.ofCode c)) (r.md md.toNat) 7 := by
  simp only [FR.check, firstFailure, Operand.isReserved_ofCode, List.any_cons, List.any_nil, Bool.or_false, Bool.or_assoc,
    guard_ne, BitVec.toNat_eq]
  rfl

/-- An F-I word with its operand codes d and a. -/
theorem FI.check_codes (g : BitVec 4) (d a : Nat) (md : BitVec 2) (imm : BitVec 24) (u : Bool) (kd ka : Operand → Bool)
    (p : Nat → Nat → Bool) :
    FI.check ⟨g, .ofCode d, .ofCode a, md, imm⟩ u kd ka p
      = firstFailure g.toNat u [d, a] (kd (.ofCode d) && ka (.ofCode a)) (p md.toNat imm.toNat) 7 := by
  simp only [FI.check, firstFailure, Operand.isReserved_ofCode, List.any_cons, List.any_nil, Bool.or_false,
    guard_ne, BitVec.toNat_eq]
  rfl

/-- An F-M word with its operand codes d, a and b. -/
theorem FM.check_codes (g : BitVec 4) (d a b : Nat) (sz : BitVec 3) (cl : BitVec 2) (sc : BitVec 3) (off : BitVec 13)
    (u : Bool) (kd ka kb : Operand → Bool) (p : Nat → Nat → Nat → Bool) :
    FM.check ⟨g, .ofCode d, .ofCode a, .ofCode b, sz, cl, sc, off⟩ u kd ka kb p
      = firstFailure g.toNat u [d, a, b] (kd (.ofCode d) && ka (.ofCode a) && kb (.ofCode b))
          (p sz.toNat cl.toNat sc.toNat) 8 := by
  simp only [FM.check, firstFailure, Operand.isReserved_ofCode, List.any_cons, List.any_nil, Bool.or_false, Bool.or_assoc,
    guard_ne, BitVec.toNat_eq]
  rfl

/-! ### F-R rows -/

/-- The kinds of a rule's four fields, by their codes. -/
structure RRule.Kinds (r : RRule) (d a b c : Nat → Bool) : Prop where
  d : KindOf r.d d
  a : KindOf r.a a
  b : KindOf r.b b
  c : KindOf r.c c

/-- Mnemonics of one MAJ with one rule: MAJ, function codes, uniform class, the kinds of D, A, B and C by their codes,
and the modifier byte. -/
abbrev CheckRow := Nat × List Nat × Bool × (Nat → Bool) × (Nat → Bool) × (Nat → Bool) × (Nat → Bool) × (Nat → Bool)

/-- An instruction that a word of the row's mnemonics decodes to fails its checks as the row says. -/
def CheckRow.Holds (w : Nat) (i : Instr) (r : CheckRow) : Prop :=
  bits w 61 56 = r.1 → bits w 15 8 ∈ r.2.1 → i.check = firstFailure (bits w 55 52) r.2.2.1
    [opField w 0, opField w 1, opField w 2, opField w 3]
    (r.2.2.2.1 (opField w 0) && r.2.2.2.2.1 (opField w 1) && r.2.2.2.2.2.1 (opField w 2) && r.2.2.2.2.2.2.1 (opField w 3))
    (r.2.2.2.2.2.2.2 (bits w 7 0)) 7

/-- What is picked from a list is checked as the list's entry says. -/
theorem check_of_pick {α : Type} {l : List (α → Instr)} {ns : List Nat} {n : Nat} {x : α} {i : Instr} {r : Option Nat}
    (hp : pick l n x = .full i) (hn : n ∈ ns)
    (hr : ns.map (fun k => l[k]?.map fun f => (f x).check) = ns.map (fun _ => some r)) : i.check = r := by
  have h := List.map_eq_map_iff.1 hr n hn
  unfold pick at hp
  cases hl : l[n]? with
  | none => simp [hl] at hp
  | some f =>
    simp only [hl, Body.full.injEq] at hp
    rw [← hp]
    simpa [hl] using h

section
variable {w : Nat} {i : Instr} {l : List (FR → Instr)} {m : Nat} {ns : List Nat} {r : RRule}

/-- A row from the rule `r` of its mnemonics. -/
theorem CheckRow.Holds.of_rule {u : Bool} {d a b c md : Nat → Bool} (hd : decodeFull w = .full i)
    (hl : bits w 61 56 = m → decodeFull w = pick l (bits w 15 8) (FR.ofWord w))
    (hr : ns.map (fun k => l[k]?.map fun f => (f (FR.ofWord w)).check) = ns.map (fun _ => some ((FR.ofWord w).check r)))
    (hu : r.uniform = u)
    (hk : (∀ c ∈ [opField w 0, opField w 1, opField w 2, opField w 3], Code.reserved c = false) →
      (r.d (.ofCode (opField w 0)) && r.a (.ofCode (opField w 1)) && r.b (.ofCode (opField w 2))
        && r.c (.ofCode (opField w 3)))
        = (d (opField w 0) && a (opField w 1) && b (opField w 2) && c (opField w 3)))
    (hm : r.md (bits w 7 0) = md (bits w 7 0)) :
    CheckRow.Holds w i (m, ns, u, d, a, b, c, md) := by
  intro hmaj hfn
  have hg : (BitVec.ofNat 4 (bits w 55 52)).toNat = bits w 55 52 := Nat.mod_eq_of_lt (bits_lt w 55 52)
  have hmd : (BitVec.ofNat 8 (bits w 7 0)).toNat = bits w 7 0 := Nat.mod_eq_of_lt (bits_lt w 7 0)
  rw [check_of_pick (hl hmaj ▸ hd) hfn hr]
  refine (FR.check_codes (BitVec.ofNat 4 (bits w 55 52)) (opField w 0) (opField w 1) (opField w 2) (opField w 3)
    (BitVec.ofNat 8 (bits w 7 0)) r).trans ?_
  rw [hg, hmd, hu, hm]
  exact firstFailure_congr hk

/-- A rule whose fields are judged one by one, at the word's codes. -/
theorem RRule.Kinds.judge {d a b c : Nat → Bool} (hk : r.Kinds d a b c)
    (h : ∀ c ∈ [opField w 0, opField w 1, opField w 2, opField w 3], Code.reserved c = false) :
    (r.d (.ofCode (opField w 0)) && r.a (.ofCode (opField w 1)) && r.b (.ofCode (opField w 2))
        && r.c (.ofCode (opField w 3)))
      = (d (opField w 0) && a (opField w 1) && b (opField w 2) && c (opField w 3)) := by
  simp only [List.forall_mem_cons] at h
  obtain ⟨h0, h1, h2, h3, -⟩ := h
  rw [hk.d.ofCode (opField_lt w (by decide)) h0, hk.a.ofCode (opField_lt w (by decide)) h1,
    hk.b.ofCode (opField_lt w (by decide)) h2, hk.c.ofCode (opField_lt w (by decide)) h3]

/-- A row from a rule whose fields are judged one by one. -/
theorem CheckRow.Holds.of_kinds {d a b c md : Nat → Bool} (hd : decodeFull w = .full i)
    (hl : bits w 61 56 = m → decodeFull w = pick l (bits w 15 8) (FR.ofWord w)) (hk : r.Kinds d a b c)
    (hr : ns.map (fun k => l[k]?.map fun f => (f (FR.ofWord w)).check) = ns.map (fun _ => some ((FR.ofWord w).check r)))
    (hm : ∀ m < 256, r.md m = md m) :
    CheckRow.Holds w i (m, ns, r.uniform, d, a, b, c, md) :=
  .of_rule hd hl hr rfl hk.judge (hm _ (bits_lt w 7 0))

end

/-! ### The rules' kinds -/

section
variable {kd ka kb kc : Operand → Bool} {d a b c : Nat → Bool}

theorem rU_kinds (hd : KindOf kd d) (ha : KindOf ka a) (hb : KindOf kb b) (hc : KindOf kc c) :
    (rU kd ka kb kc).Kinds d a b c := ⟨hd, ha, hb, hc⟩

theorem rUm_kinds (md : Nat → Bool) (hd : KindOf kd d) (ha : KindOf ka a) (hb : KindOf kb b) (hc : KindOf kc c) :
    (rUm kd ka kb kc md).Kinds d a b c := ⟨hd, ha, hb, hc⟩

theorem rX_kinds (md : Nat → Bool) (hd : KindOf kd d) (ha : KindOf ka a) (hb : KindOf kb b) (hc : KindOf kc c) :
    (rX kd ka kb kc md).Kinds d a b c := ⟨hd, ha, hb, hc⟩

theorem rVint_kinds (md : Nat → Bool) (ha : KindOf ka a) (hb : KindOf kb b) (hc : KindOf kc c) :
    (rVint ka kb kc md).Kinds Code.vec a b c := ⟨kindOf_vec, ha, hb, hc⟩

end

theorem rVint1_kinds (md : Nat → Bool) : (rVint1 md).Kinds Code.vec Code.data Code.unused Code.unused :=
  rVint_kinds md kindOf_data kindOf_unused kindOf_unused
theorem rVint2_kinds (md : Nat → Bool) : (rVint2 md).Kinds Code.vec Code.data Code.data Code.unused :=
  rVint_kinds md kindOf_data kindOf_data kindOf_unused
theorem rVint3_kinds (md : Nat → Bool) : (rVint3 md).Kinds Code.vec Code.data Code.data Code.data :=
  rVint_kinds md kindOf_data kindOf_data kindOf_data

theorem rVfp1_kinds (md : Nat → Bool) : (rVfp 1 md).Kinds Code.vec Code.data Code.unused Code.unused := rVint1_kinds md
theorem rVfp2_kinds (md : Nat → Bool) : (rVfp 2 md).Kinds Code.vec Code.data Code.data Code.unused := rVint2_kinds md
theorem rVfp3_kinds (md : Nat → Bool) : (rVfp 3 md).Kinds Code.vec Code.data Code.data Code.data := rVint3_kinds md

theorem rSalu1_kinds (md : Nat → Bool) : (rSalu 1 md).Kinds (Code.scalTo 63) Code.uniform Code.unused Code.unused :=
  ⟨kindOf_scal, kindOf_uniform, kindOf_unused, kindOf_unused⟩
theorem rSalu2_kinds (md : Nat → Bool) : (rSalu 2 md).Kinds (Code.scalTo 63) Code.uniform Code.uniform Code.unused :=
  ⟨kindOf_scal, kindOf_uniform, kindOf_uniform, kindOf_unused⟩
theorem rSalu3_kinds (md : Nat → Bool) : (rSalu 3 md).Kinds (Code.scalTo 63) Code.uniform Code.uniform Code.uniform :=
  ⟨kindOf_scal, kindOf_uniform, kindOf_uniform, kindOf_uniform⟩

/-! ### Modifier bytes -/

namespace Code

def upTo (n m : Nat) : Bool := decide (m ≤ n)
def among (mask m : Nat) : Bool := m &&& mask == m

end Code

theorem mdZero_eq (m : Nat) : mdZero m = Code.upTo 0 m := by
  rw [Bool.eq_iff_iff]
  simp [mdZero, Code.upTo]

/-- A mask of the low k bits admits the bytes below 2^k. -/
theorem mdIn_low (k m : Nat) : mdIn (2 ^ k - 1) m = Code.upTo (2 ^ k - 1) m := by
  have hp : 0 < 2 ^ k := Nat.two_pow_pos k
  rw [Bool.eq_iff_iff]
  simp only [mdIn, Code.upTo, Nat.and_two_pow_sub_one_eq_mod, beq_iff_eq, decide_eq_true_eq]
  constructor
  · intro h
    have := Nat.mod_lt m hp
    omega
  · intro h
    exact Nat.mod_eq_of_lt (by omega)

end Sys2Proof
end

section
/-! ### The rows of the F-R families (Table 2.9) -/

namespace Sys2Proof

open Machine Code

def ctlRows : List CheckRow :=
  [(0x00, [0, 1, 2, 4], true, unused, unused, unused, unused, upTo 0),
   (0x00, [3, 7, 8], true, unused, uniform, unused, unused, upTo 0),
   (0x00, [5], true, scalTo 63, inlineTo 13, unused, unused, upTo 0),
   (0x00, [6], true, unused, (fun c => c == 0x182 || c == 0x18C), uniform, unused, upTo 0),
   (0x00, [9], false, unused, inlineTo 7, vec, unused, upTo 0),
   (0x00, [10], true, unused, inlineTo 5, (fun c => scalTo 63 c || inlineTo 63 c), unused, upTo 0)]

def saluRows : List CheckRow :=
  [(0x01, [0, 1, 2, 6, 7, 8, 9, 10, 11, 12, 13], true, scalTo 63, uniform, uniform, unused, upTo 0),
   (0x01, [3, 4, 5, 14, 15, 20], true, scalTo 63, uniform, uniform, unused, upTo 1),
   (0x01, [16, 17], true, scalTo 63, uniform, unused, unused, upTo 0),
   (0x01, [18, 21], true, scalTo 63, uniform, uniform, uniform, upTo 0),
   (0x01, [19], true, scalTo 63, uniform, uniform, unused, fun m => among 0x1D m && decide (bits m 4 2 ≤ 5))]

def maskRows : List CheckRow :=
  [(0x03, [0], true, scalTo 56, unused, unused, unused, upTo 0),
   (0x03, [1], true, unused, scalTo 56, unused, unused, upTo 0),
   (0x03, [2, 3, 4], true, unused, pred, unused, unused, upTo 0),
   (0x03, [5, 6], true, scalTo 63, pred, unused, unused, upTo 0)]

def vintRows : List CheckRow :=
  [(0x08, [0, 1, 2, 18, 19, 20, 21], false, vec, data, data, unused, fun m => m == 0 || m == 2),
   (0x08, [3, 7, 8, 11, 12, 30, 31], false, vec, data, data, unused, upTo 3),
   (0x08, [4], false, vec, data, data, data, fun m => m == 0 || m == 2),
   (0x08, [5, 6], false, vec, data, data, predW, (· == 1)),
   (0x08, [9, 10, 22, 23, 24], false, vec, data, unused, unused, fun m => m == 0 || m == 2),
   (0x08, [13, 14, 15, 16], false, vec, data, data, unused, upTo 0),
   (0x08, [17, 29], false, vec, data, unused, unused, upTo 0),
   (0x08, [25], false, vec, data, data, unused, upTo 1),
   (0x08, [26], false, vec, data, data, data, upTo 0),
   (0x08, [27], false, vec, data, data, pred, upTo 0),
   (0x08, [28], false, predW, data, data, unused, fun m => decide (m < 24 ∧ m % 4 ≤ 1)),
   (0x08, [32], false, vec, data, data, data, upTo 15),
   (0x08, [33], false, vec, data, data, data, upTo 7)]

def vadrRows (w : Nat) : List CheckRow :=
  [(0x0A, [0], false, vecEven, wide, if bits w 1 0 = 2 then wide else data, unused,
      fun m => decide (m < 20 ∧ m % 4 ≤ 1)),
   (0x0A, [1, 2], false, vecEven, wide, if bits w 1 0 = 2 then wide else data, unused, upTo 2)]

def vfpRows : List CheckRow :=
  [(0x10, [0, 1, 2, 12], false, vec, data, data, unused, upTo 15),
   (0x10, [3, 4, 5], false, vec, data, data, data, upTo 15),
   (0x10, [6, 7], false, vec, data, data, unused, among 0x14),
   (0x10, [8, 9, 11], false, vec, data, unused, unused, upTo 0),
   (0x10, [10], false, predW, data, data, unused, among 0x74),
   (0x10, [13], false, vec, data, unused, unused, upTo 15),
   (0x10, [14, 15, 16, 17, 18, 19, 20], false, vec, data, unused, unused, among 4),
   (0x10, [21], false, vec, data, unused, unused, upTo 7)]

def vhfpRows : List CheckRow :=
  [(0x11, [0, 1, 2], false, vec, data, data, unused, upTo 31),
   (0x11, [3, 6], false, vec, data, data, data, upTo 31),
   (0x11, [4, 5], false, vec, data, data, unused, among 0x34),
   (0x11, [7], false, vec, data, data, unused, among 0xF4)]

def vcvtRows : List CheckRow :=
  [(0x12, [0], false, vec, data, unused, unused, fun m => decide (bits m 4 0 ≤ 0x13)
      && (bits m 7 6 == 0 || !([2, 3, 14, 15, 18, 19].contains (bits m 4 0)))
      && (bits m 5 5 == 0 || [0, 1, 8, 9, 16, 17].contains (bits m 4 0))),
   (0x12, [1], false, vec, data, data, unused, upTo 31),
   (0x12, [2], false, vec, data, unused, unused, among 0x34),
   (0x12, [3], false, vec, data, data, data, fun m => decide (bits m 7 4 ≤ 9 ∧ (4 < bits m 7 4 → bits m 3 3 = 0))),
   (0x12, [4], false, vec, data, data, unused, fun m => among 0xF4 m && decide (bits m 7 4 ≤ 9))]

def xlaneRows (w : Nat) : List CheckRow :=
  [(0x18, [0, 1, 2, 3], false, vec, data, data, data, upTo 4),
   (0x18, [4], false, (fun c => vec c || scalTo 60 c), data, uniform,
      (fun c => if scalTo 63 (opField w 0) then unused c else data c), upTo 0),
   (0x18, [5, 6], false, vec, data, uniform, data, upTo 0),
   (0x18, [7], false, vec, data, unused, data, fun m => decide (bits m 2 0 ≤ 4 ∧ bits m 6 3 ≤ 10)),
   (0x18, [8], false, vec, data, unused, unused, fun m => decide (bits m 2 0 ≤ 4 ∧ m / 8 ≤ 10)),
   (0x18, [9], false, scalTo 60, data, unused, unused, fun m => decide (m % 8 = 0 ∧ m / 8 ≤ 10)),
   (0x18, [10], false, (fun c => (bits w 6 3 ≠ 1 ∧ bits w 6 3 ≠ 2) && (vec c || scalTo 58 c) || bits w 6 3 ≠ 0 && predW c),
      pred, unused, unused, fun m => [0, 8, 16].contains m),
   (0x18, [11], false, vec, data, unused, unused, upTo 0)]

def engRows (w : Nat) : List CheckRow :=
  [(0x24, [0], true, scalTo 60, uniform, uniform, uniform, upTo 2),
   (0x24, [1], true, scalTo 60, uniform, uniform, scalTo 58, upTo 2),
   (0x24, [2], true, scalTo 60, uniform, unused, unused, upTo 0),
   (0x24, [3], true, unused, uniform, unused, unused, upTo 0),
   (0x24, [4], false, vec, (if bitAt w 2 then unused else uniform), data, unused, fun m => decide (m < 8 ∧ m % 4 ≤ 2)),
   (0x24, [5], true, scalTo 60, uniform, uniform, unused, upTo 2)]

def syncRows : List CheckRow :=
  [(0x28, [0], true, unused, unused, unused, unused, fun m => decide (m / 16 ≤ 5 ∧ m % 16 ≠ 0)),
   (0x28, [1], true, unused, unused, unused, unused, (· == 0x40)),
   (0x28, [2, 4], true, unused, uniform, uniform, unused, upTo 0),
   (0x28, [3], true, scalTo 60, uniform, unused, unused, upTo 0),
   (0x28, [5], true, unused, uniform, unused, unused, upTo 0),
   (0x28, [6, 7], true, unused, unused, unused, unused, upTo 0)]

def mtxRows (w : Nat) : List CheckRow :=
  [(0x2C, [0], true, scalTo 60, unused, unused, unused, upTo 0),
   (0x2C, [1, 3], true, unused, unused, unused, unused, upTo 0),
   (0x2C, [2], true, unused, unused, unused, unused, upTo 1),
   (0x2C, [4, 5], true, unused, uniform, uniform, unused, upTo 0),
   (0x2C, [6], true, unused, uniform, uniform, unused, upTo 1),
   (0x2C, [7], true, (if bitAt w 4 then vec else unused), base, uniform, uniform, fun m => decide (m < 64)
      && !(bitAt m 4 && bitAt m 2) && !(bitAt m 5 && (bitAt m 2 || m % 4 == 0))),
   (0x2C, [8], true, vec, base, uniform, scalTo 63, upTo 2)]

/-! ### Kinds and modifiers of one mnemonic -/

theorem kindOf_swr : KindOf kSwr (fun c => c == 0x182 || c == 0x18C) := by
  apply kindOf_of_rows <;> intro n <;> simp [kSwr, BitVec.toNat_eq] <;> omega

theorem kindOf_ite {P Q : Prop} [Decidable P] [Decidable Q] {k k' : Operand → Bool} {p p' : Nat → Bool} (hPQ : P ↔ Q)
    (h : KindOf k p) (h' : KindOf k' p') : KindOf (if P then k else k') (if Q then p else p') := by
  by_cases hP : P
  · rw [if_pos hP, if_pos (hPQ.1 hP)]
    exact h
  · rw [if_neg hP, if_neg (fun hQ => hP (hPQ.2 hQ))]
    exact h'

theorem FR.ofWord_md (w : Nat) : (FR.ofWord w).md.toNat = bits w 7 0 := Nat.mod_eq_of_lt (bits_lt w 7 0)

/-- A field inside the modifier byte is a field of the word. -/
theorem bits_md (w : Nat) {h l : Nat} (hh : h ≤ 7) (hl : l ≤ h) : bits (bits w 7 0) h l = bits w h l := by
  obtain ⟨q, hq⟩ : ∃ q, w = bits w 7 0 + q * 2 ^ 8 := ⟨w / 2 ^ 8, by simp only [bits]; omega⟩
  conv => rhs; rw [hq]
  rw [bits_add_high _ _ (by omega) hl]

theorem bitAt_md (w : Nat) {n : Nat} (hn : n ≤ 7) : bitAt (bits w 7 0) n = bitAt w n := by
  have h := bits_md w hn (Nat.le_refl n)
  simp only [bits, Nat.add_sub_cancel_left, Nat.pow_one] at h
  simp only [bitAt, bits, h]

variable {w : Nat} {i : Instr}

theorem mdVcmp_eq (m : Nat) : rVcmp.md m = decide (m < 24 ∧ m % 4 ≤ 1) := by
  rw [Bool.eq_iff_iff]
  simp only [rVcmp, Bool.and_eq_true, decide_eq_true_eq]
  simp only [bits]
  omega

theorem mdVlea_eq (x : FR) (m : Nat) : (rVadr true x).md m = decide (m < 20 ∧ m % 4 ≤ 1) := by
  rw [Bool.eq_iff_iff]
  simp only [rVadr, if_true, Bool.and_eq_true, decide_eq_true_eq]
  simp only [bits]
  omega

theorem mdVaddw_eq (x : FR) (m : Nat) : (rVadr false x).md m = upTo 2 m := by
  rw [Bool.eq_iff_iff]
  simp only [rVadr, Bool.false_eq_true, if_false, Bool.and_eq_true, decide_eq_true_eq, beq_iff_eq, upTo]
  simp only [bits]
  omega

/-- The paths of VCVT that admit RM are those of Table 5.6 but six. -/
theorem mdVcvt_eq (m : Nat) : mdVcvt m = (decide (bits m 4 0 ≤ 0x13)
    && (bits m 7 6 == 0 || !([2, 3, 14, 15, 18, 19].contains (bits m 4 0)))
    && (bits m 5 5 == 0 || [0, 1, 8, 9, 16, 17].contains (bits m 4 0))) := by
  have hcv := bits_lt m 4 0
  unfold mdVcvt
  generalize bits m 4 0 = cv at hcv ⊢
  generalize (bits m 7 6 == 0) = rm
  generalize (bits m 5 5 == 0) = sat
  dsimp only
  revert rm sat cv
  decide

theorem mdVpk8_eq (m : Nat) : mdVpk8 m = decide (bits m 7 4 ≤ 9 ∧ (4 < bits m 7 4 → bits m 3 3 = 0)) := by
  rw [Bool.eq_iff_iff]
  simp only [mdVpk8, Bool.and_eq_true, Bool.or_eq_true, decide_eq_true_eq, beq_iff_eq]
  omega

theorem mdFence_eq {m : Nat} (hm : m < 256) : mdFence m = decide (m / 16 ≤ 5 ∧ m % 16 ≠ 0) := by
  rw [Bool.eq_iff_iff]
  simp only [mdFence, Bool.and_eq_true, decide_eq_true_eq, bne_iff_ne]
  simp only [bits]
  omega

/-- The modifier byte of XLANE without EXCL: SEG, and OPR up to `opr`. -/
theorem mdX_iff (seg : Bool) (opr m : Nat) : mdX seg opr false m = true ↔
    (if seg then bits m 2 0 ≤ 4 else bits m 2 0 = 0) ∧ bits m 6 3 ≤ opr ∧ bits m 7 7 = 0 := by
  cases seg <;> simp [mdX, and_assoc]

theorem mdX_scan (m : Nat) : mdX true 10 true m = decide (bits m 2 0 ≤ 4 ∧ bits m 6 3 ≤ 10) := by
  simp [mdX]

section
variable {m : Nat} (hm : m < 256)
include hm

theorem mdX_seg : mdX true 0 false m = upTo 4 m := by
  rw [Bool.eq_iff_iff, mdX_iff, upTo, decide_eq_true_eq]
  simp only [if_true, bits]
  omega

theorem mdX_none : mdX false 0 false m = upTo 0 m := by
  rw [Bool.eq_iff_iff, mdX_iff, upTo, decide_eq_true_eq]
  simp only [Bool.false_eq_true, if_false, bits]
  omega

theorem mdX_red : mdX true 10 false m = decide (bits m 2 0 ≤ 4 ∧ m / 8 ≤ 10) := by
  rw [Bool.eq_iff_iff, mdX_iff, decide_eq_true_eq]
  simp only [if_true, bits]
  omega

theorem mdX_rds : mdX false 10 false m = decide (m % 8 = 0 ∧ m / 8 ≤ 10) := by
  rw [Bool.eq_iff_iff, mdX_iff, decide_eq_true_eq]
  simp only [Bool.false_eq_true, if_false, bits]
  omega

theorem mdX_vote : mdX false 2 false m = [0, 8, 16].contains m := by
  rw [Bool.eq_iff_iff, mdX_iff, List.contains_iff_mem]
  simp only [Bool.false_eq_true, if_false, List.mem_cons, List.not_mem_nil, or_false, bits]
  omega

end

/-! ### Mnemonics whose rule reads the modifier byte -/

/-- XPUT's rule (R286): bit 2 of the modifier byte tells a read from a send. -/
def rXput (x : FR) : RRule :=
  rX kVec (if bitAt x.md.toNat 2 then kUnused else kUniform) kData kUnused
    (fun m => if bitAt x.md.toNat 2 then decide (4 ≤ m) && decide (m ≤ 6) else decide (m ≤ 2))

theorem xput_check (x : FR) :
    (if bitAt x.md.toNat 2 then Instr.xputRead x else Instr.xputSend x).check = x.check (rXput x) := by
  unfold rXput
  split <;> rfl

theorem rXput_md (w : Nat) : (rXput (FR.ofWord w)).md (bits w 7 0) = decide (bits w 7 0 < 8 ∧ bits w 7 0 % 4 ≤ 2) := by
  have hbit : bitAt (bits w 7 0) 2 = true ↔ bits w 7 0 / 4 % 2 = 1 := by simp [bitAt]
  rw [Bool.eq_iff_iff, decide_eq_true_eq, rXput, rX, FR.ofWord_md]
  dsimp only
  split <;> rename_i hb
  · rw [hbit] at hb
    simp only [Bool.and_eq_true, decide_eq_true_eq]
    omega
  · rw [hbit] at hb
    rw [decide_eq_true_eq]
    omega

theorem rXput_kinds (w : Nat) :
    (rXput (FR.ofWord w)).Kinds vec (if bitAt w 2 then unused else uniform) data unused := by
  refine rX_kinds _ kindOf_vec (kindOf_ite ?_ kindOf_unused kindOf_uniform) kindOf_data kindOf_unused
  rw [FR.ofWord_md, bitAt_md w (by decide)]

/-- MODE's rule (R239, R240): bit 0 tells MODE.M from MODE.V. -/
def rMode (x : FR) : RRule :=
  rUm kUnused kUnused kUnused kUnused (fun m => if bitAt x.md.toNat 0 then m == 1 else mdZero m)

theorem mode_check (x : FR) :
    (if bitAt x.md.toNat 0 then Instr.modeM x else Instr.modeV x).check = x.check (rMode x) := by
  unfold rMode
  split <;> rfl

theorem rMode_md (w : Nat) : (rMode (FR.ofWord w)).md (bits w 7 0) = upTo 1 (bits w 7 0) := by
  have hbit : bitAt (bits w 7 0) 0 = true ↔ bits w 7 0 % 2 = 1 := by simp [bitAt]
  rw [Bool.eq_iff_iff, upTo, decide_eq_true_eq, rMode, rUm, FR.ofWord_md]
  dsimp only
  split <;> rename_i hb
  · rw [hbit] at hb
    rw [beq_iff_eq]
    omega
  · rw [hbit] at hb
    rw [mdZero, beq_iff_eq]
    omega

theorem rVadr_kinds (lea : Bool) (w : Nat) :
    (rVadr lea (FR.ofWord w)).Kinds vecEven wide (if bits w 1 0 = 2 then wide else data) unused := by
  refine ⟨kindOf_vecEven, kindOf_wide, kindOf_ite ?_ kindOf_wide kindOf_data, kindOf_unused⟩
  rw [FR.ofWord_md, bits_md w (by decide) (by decide), beq_iff_eq]

theorem rVcmp_kinds : rVcmp.Kinds predW data data unused := ⟨kindOf_predW, kindOf_data, kindOf_data, kindOf_unused⟩

theorem rVfcmp_kinds : rVfcmp.Kinds predW data data unused := ⟨kindOf_predW, kindOf_data, kindOf_data, kindOf_unused⟩

theorem KindOf.congr {k : Operand → Bool} {p q : Nat → Bool} (h : KindOf k p) (hpq : ∀ c, p c = q c) : KindOf k q :=
  fun o ho => (h o ho).trans (hpq _)

/-- VOTE's destination by OPR (R188). -/
theorem rVote_kinds (w : Nat) : (rVote (FR.ofWord w)).Kinds
    (fun c => (bits w 6 3 ≠ 1 ∧ bits w 6 3 ≠ 2) && (vec c || scalTo 58 c) || bits w 6 3 ≠ 0 && predW c)
    pred unused unused := by
  refine ⟨?_, kindOf_pred, kindOf_unused, kindOf_unused⟩
  have triple : KindOf (kOr kVec (kScalTo 58)) (fun c => vec c || scalTo 58 c) := kindOf_vec.or (kindOf_scalTo (by decide))
  simp only [rVote, rX, FR.ofWord_md, bits_md w (show 6 ≤ 7 by decide) (show 3 ≤ 6 by decide)]
  by_cases h0 : bits w 6 3 = 0
  · rw [if_pos (by simpa using h0)]
    exact triple.congr (fun c => by simp [h0])
  rw [if_neg (by simpa using h0)]
  by_cases h2 : bits w 6 3 ≤ 2
  · rw [if_pos (by simpa using h2)]
    exact kindOf_predW.congr (fun c => by simp [h0, show ¬ (¬ bits w 6 3 = 1 ∧ ¬ bits w 6 3 = 2) by omega])
  · rw [if_neg (by simpa using h2)]
    exact (triple.or kindOf_predW).congr (fun c => by
      simp [h0, show ¬ bits w 6 3 = 1 by omega, show ¬ bits w 6 3 = 2 by omega])

theorem rAcpy_kinds (w : Nat) :
    (rUm (if bitAt (FR.ofWord w).md.toNat 4 then kVec else kUnused) kBase kUniform kUniform mdAcpy).Kinds
      (if bitAt w 4 then vec else unused) base uniform uniform := by
  refine rUm_kinds _ (kindOf_ite ?_ kindOf_vec kindOf_unused) kindOf_base kindOf_uniform kindOf_uniform
  rw [FR.ofWord_md, bitAt_md w (by decide)]

theorem mdAcpy_eq (m : Nat) : mdAcpy m = (decide (m < 64) && !(bitAt m 4 && bitAt m 2)
    && !(bitAt m 5 && (bitAt m 2 || m % 4 == 0))) := by
  simp [mdAcpy, bits]

/-! ### The rows hold -/

variable {w : Nat} {i : Instr}

theorem ctlRows_hold (hd : decodeFull w = .full i) : ∀ r ∈ ctlRows, CheckRow.Holds w i r := by
  simp only [ctlRows, List.forall_mem_cons]
  exact ⟨.of_kinds hd decodeFull_ctl (rU_kinds kindOf_unused kindOf_unused kindOf_unused kindOf_unused) rfl
      fun m _ => mdZero_eq m,
    .of_kinds hd decodeFull_ctl (rU_kinds kindOf_unused kindOf_uniform kindOf_unused kindOf_unused) rfl
      fun m _ => mdZero_eq m,
    .of_kinds hd decodeFull_ctl (rU_kinds kindOf_scal (kindOf_inline 13) kindOf_unused kindOf_unused) rfl
      fun m _ => mdZero_eq m,
    .of_kinds hd decodeFull_ctl (rU_kinds kindOf_unused kindOf_swr kindOf_uniform kindOf_unused) rfl
      fun m _ => mdZero_eq m,
    .of_kinds hd decodeFull_ctl (rX_kinds mdZero kindOf_unused (kindOf_inline 7) kindOf_vec kindOf_unused) rfl
      fun m _ => mdZero_eq m,
    .of_kinds hd decodeFull_ctl (rU_kinds kindOf_unused (kindOf_inline 5) (kindOf_scal.or (kindOf_inline 63))
      kindOf_unused) rfl fun m _ => mdZero_eq m,
    List.forall_mem_nil _⟩

theorem saluRows_hold (hd : decodeFull w = .full i) : ∀ r ∈ saluRows, CheckRow.Holds w i r := by
  simp only [saluRows, List.forall_mem_cons]
  exact ⟨.of_kinds hd decodeFull_salu (rSalu2_kinds mdZero) rfl fun m _ => mdZero_eq m,
    .of_kinds hd decodeFull_salu (rSalu2_kinds (mdIn 1)) rfl fun m _ => mdIn_low 1 m,
    .of_kinds hd decodeFull_salu (rSalu1_kinds mdZero) rfl fun m _ => mdZero_eq m,
    .of_kinds hd decodeFull_salu (rSalu3_kinds mdZero) rfl fun m _ => mdZero_eq m,
    .of_kinds hd decodeFull_salu (rSalu2_kinds mdScmp) rfl fun _ _ => rfl,
    List.forall_mem_nil _⟩

theorem maskRows_hold (hd : decodeFull w = .full i) : ∀ r ∈ maskRows, CheckRow.Holds w i r := by
  have s56 : KindOf (kScalTo 56) (scalTo 56) := kindOf_scalTo (by decide)
  simp only [maskRows, List.forall_mem_cons]
  exact ⟨.of_kinds hd decodeFull_mask (rU_kinds s56 kindOf_unused kindOf_unused kindOf_unused) rfl
      fun m _ => mdZero_eq m,
    .of_kinds hd decodeFull_mask (rU_kinds kindOf_unused s56 kindOf_unused kindOf_unused) rfl fun m _ => mdZero_eq m,
    .of_kinds hd decodeFull_mask (rU_kinds kindOf_unused kindOf_pred kindOf_unused kindOf_unused) rfl
      fun m _ => mdZero_eq m,
    .of_kinds hd decodeFull_mask (rU_kinds kindOf_scal kindOf_pred kindOf_unused kindOf_unused) rfl
      fun m _ => mdZero_eq m,
    List.forall_mem_nil _⟩

theorem vintRows_hold (hd : decodeFull w = .full i) : ∀ r ∈ vintRows, CheckRow.Holds w i r := by
  simp only [vintRows, List.forall_mem_cons]
  exact ⟨.of_kinds hd decodeFull_vint (rVint2_kinds tyW) rfl fun _ _ => rfl,
    .of_kinds hd decodeFull_vint (rVint2_kinds tyAll) rfl fun _ _ => rfl,
    .of_kinds hd decodeFull_vint (rVint3_kinds tyW) rfl fun _ _ => rfl,
    .of_kinds hd decodeFull_vint (rVint_kinds tyN kindOf_data kindOf_data kindOf_predW) rfl fun _ _ => rfl,
    .of_kinds hd decodeFull_vint (rVint1_kinds tyW) rfl fun _ _ => rfl,
    .of_kinds hd decodeFull_vint (rVint2_kinds tyNone) rfl fun m _ => mdZero_eq m,
    .of_kinds hd decodeFull_vint (rVint1_kinds tyNone) rfl fun m _ => mdZero_eq m,
    .of_kinds hd decodeFull_vint (rVint2_kinds tyIN) rfl fun _ _ => rfl,
    .of_kinds hd decodeFull_vint (rVint3_kinds tyNone) rfl fun m _ => mdZero_eq m,
    .of_kinds hd decodeFull_vint (rVint_kinds tyNone kindOf_data kindOf_data kindOf_pred) rfl fun m _ => mdZero_eq m,
    .of_kinds hd decodeFull_vint rVcmp_kinds rfl fun m _ => mdVcmp_eq m,
    .of_kinds hd decodeFull_vint (rVint3_kinds (mdIn 0x0F)) rfl fun m _ => mdIn_low 4 m,
    .of_kinds hd decodeFull_vint (rVint3_kinds (mdIn 0x07)) rfl fun m _ => mdIn_low 3 m,
    List.forall_mem_nil _⟩

theorem vadrRows_hold (hd : decodeFull w = .full i) : ∀ r ∈ vadrRows w, CheckRow.Holds w i r := by
  simp only [vadrRows, List.forall_mem_cons]
  exact ⟨.of_kinds hd decodeFull_vadr (rVadr_kinds true w) rfl fun m _ => mdVlea_eq _ m,
    .of_kinds hd decodeFull_vadr (rVadr_kinds false w) rfl fun m _ => mdVaddw_eq _ m,
    List.forall_mem_nil _⟩

theorem vfpRows_hold (hd : decodeFull w = .full i) : ∀ r ∈ vfpRows, CheckRow.Holds w i r := by
  simp only [vfpRows, List.forall_mem_cons]
  exact ⟨.of_kinds hd decodeFull_vfp (rVfp2_kinds (mdIn 0x0F)) rfl fun m _ => mdIn_low 4 m,
    .of_kinds hd decodeFull_vfp (rVfp3_kinds (mdIn 0x0F)) rfl fun m _ => mdIn_low 4 m,
    .of_kinds hd decodeFull_vfp (rVfp2_kinds (mdIn 0x14)) rfl fun _ _ => rfl,
    .of_kinds hd decodeFull_vfp (rVfp1_kinds mdZero) rfl fun m _ => mdZero_eq m,
    .of_kinds hd decodeFull_vfp rVfcmp_kinds rfl fun _ _ => rfl,
    .of_kinds hd decodeFull_vfp (rVfp1_kinds (mdIn 0x0F)) rfl fun m _ => mdIn_low 4 m,
    .of_kinds hd decodeFull_vfp (rVfp1_kinds (mdIn 0x04)) rfl fun _ _ => rfl,
    .of_kinds hd decodeFull_vfp (rVfp1_kinds (mdIn 0x07)) rfl fun m _ => mdIn_low 3 m,
    List.forall_mem_nil _⟩

theorem vhfpRows_hold (hd : decodeFull w = .full i) : ∀ r ∈ vhfpRows, CheckRow.Holds w i r := by
  simp only [vhfpRows, List.forall_mem_cons]
  exact ⟨.of_kinds hd decodeFull_vhfp (rVfp2_kinds (mdIn 0x1F)) rfl fun m _ => mdIn_low 5 m,
    .of_kinds hd decodeFull_vhfp (rVfp3_kinds (mdIn 0x1F)) rfl fun m _ => mdIn_low 5 m,
    .of_kinds hd decodeFull_vhfp (rVfp2_kinds (mdIn 0x34)) rfl fun _ _ => rfl,
    .of_kinds hd decodeFull_vhfp (rVfp2_kinds (mdIn 0xF4)) rfl fun _ _ => rfl,
    List.forall_mem_nil _⟩

theorem vcvtRows_hold (hd : decodeFull w = .full i) : ∀ r ∈ vcvtRows, CheckRow.Holds w i r := by
  simp only [vcvtRows, List.forall_mem_cons]
  exact ⟨.of_kinds hd decodeFull_vcvt (rVfp1_kinds mdVcvt) rfl fun m _ => mdVcvt_eq m,
    .of_kinds hd decodeFull_vcvt (rVfp2_kinds (mdIn 0x1F)) rfl fun m _ => mdIn_low 5 m,
    .of_kinds hd decodeFull_vcvt (rVfp1_kinds (mdIn 0x34)) rfl fun _ _ => rfl,
    .of_kinds hd decodeFull_vcvt (rVfp3_kinds mdVpk8) rfl fun m _ => mdVpk8_eq m,
    .of_kinds hd decodeFull_vcvt (rVfp2_kinds mdVupk8) rfl fun m _ => Bool.and_comm _ _,
    List.forall_mem_nil _⟩

/-- VBCAST: C is data beside a vector destination, and unused beside a scalar one. -/
theorem vbcastRow_holds (hd : decodeFull w = .full i) :
    CheckRow.Holds w i (0x18, [4], false, (fun c => vec c || scalTo 60 c), data, uniform,
      (fun c => if scalTo 63 (opField w 0) then unused c else data c), upTo 0) := by
  refine .of_rule (r := rVbcast (FR.ofWord w)) hd decodeFull_xlane rfl rfl (fun h => ?_) (mdX_none (bits_lt w 7 0))
  simp only [List.forall_mem_cons] at h
  obtain ⟨h0, h1, h2, h3, -⟩ := h
  have d60 : KindOf (kOr kVec (kScalTo 60)) (fun c => vec c || scalTo 60 c) := kindOf_vec.or (kindOf_scalTo (by decide))
  have hs : kScal (FR.ofWord w).d = scalTo 63 (opField w 0) := kindOf_scal.ofCode (opField_lt w (n := 0) (by decide)) h0
  simp only [rVbcast, rX, hs, d60.ofCode (opField_lt w (by decide)) h0,
    kindOf_data.ofCode (opField_lt w (by decide)) h1, kindOf_uniform.ofCode (opField_lt w (by decide)) h2]
  split
  · rw [kindOf_unused.ofCode (opField_lt w (by decide)) h3]
  · rw [kindOf_data.ofCode (opField_lt w (by decide)) h3]

theorem xlaneRows_hold (hd : decodeFull w = .full i) : ∀ r ∈ xlaneRows w, CheckRow.Holds w i r := by
  simp only [xlaneRows, List.forall_mem_cons]
  exact ⟨.of_kinds hd decodeFull_xlane (rX_kinds (mdX true 0 false) kindOf_vec kindOf_data kindOf_data kindOf_data) rfl
      fun _ => mdX_seg,
    vbcastRow_holds hd,
    .of_kinds hd decodeFull_xlane (rX_kinds (mdX false 0 false) kindOf_vec kindOf_data kindOf_uniform kindOf_data) rfl
      fun _ => mdX_none,
    .of_kinds hd decodeFull_xlane (rX_kinds (mdX true 10 true) kindOf_vec kindOf_data kindOf_unused kindOf_data) rfl
      fun m _ => mdX_scan m,
    .of_kinds hd decodeFull_xlane (rX_kinds (mdX true 10 false) kindOf_vec kindOf_data kindOf_unused kindOf_unused) rfl
      fun _ => mdX_red,
    .of_kinds hd decodeFull_xlane (rX_kinds (mdX false 10 false) (kindOf_scalTo (by decide)) kindOf_data kindOf_unused
      kindOf_unused) rfl fun _ => mdX_rds,
    .of_kinds hd decodeFull_xlane (rVote_kinds w) rfl fun _ => mdX_vote,
    .of_kinds hd decodeFull_xlane (rX_kinds mdZero kindOf_vec kindOf_data kindOf_unused kindOf_unused) rfl
      fun m _ => mdZero_eq m,
    List.forall_mem_nil _⟩

end Sys2Proof
end

section
/-! ### The engine, synchronisation and matrix rows, and the other formats (Table 2.9) -/

namespace Sys2Proof

open Machine Code

variable {w : Nat} {i : Instr}

theorem engRows_hold (hd : decodeFull w = .full i) : ∀ r ∈ engRows w, CheckRow.Holds w i r := by
  have s60 : KindOf (kScalTo 60) (scalTo 60) := kindOf_scalTo (by decide)
  simp only [engRows, List.forall_mem_cons]
  refine ⟨.of_kinds hd decodeFull_eng (rUm_kinds mdClass s60 kindOf_uniform kindOf_uniform kindOf_uniform) rfl fun _ _ => rfl,
    .of_kinds hd decodeFull_eng (rUm_kinds mdClass s60 kindOf_uniform kindOf_uniform (kindOf_scalTo (by decide))) rfl
      fun _ _ => rfl,
    .of_kinds hd decodeFull_eng (rU_kinds s60 kindOf_uniform kindOf_unused kindOf_unused) rfl fun m _ => mdZero_eq m,
    .of_kinds hd decodeFull_eng (rU_kinds kindOf_unused kindOf_uniform kindOf_unused kindOf_unused) rfl
      fun m _ => mdZero_eq m,
    ?xput,
    .of_kinds hd decodeFull_eng (rUm_kinds mdClass s60 kindOf_uniform kindOf_uniform kindOf_unused) rfl fun _ _ => rfl,
    List.forall_mem_nil _⟩
  exact .of_rule hd decodeFull_eng (by simp [fnEng, xput_check]) rfl (rXput_kinds w).judge (rXput_md w)

theorem syncRows_hold (hd : decodeFull w = .full i) : ∀ r ∈ syncRows, CheckRow.Holds w i r := by
  simp only [syncRows, List.forall_mem_cons]
  exact ⟨.of_kinds hd decodeFull_sync (rUm_kinds mdFence kindOf_unused kindOf_unused kindOf_unused kindOf_unused) rfl
      fun _ => mdFence_eq,
    .of_kinds hd decodeFull_sync (rUm_kinds (· == 0x40) kindOf_unused kindOf_unused kindOf_unused kindOf_unused) rfl
      fun _ _ => rfl,
    .of_kinds hd decodeFull_sync (rU_kinds kindOf_unused kindOf_uniform kindOf_uniform kindOf_unused) rfl
      fun m _ => mdZero_eq m,
    .of_kinds hd decodeFull_sync (rU_kinds (kindOf_scalTo (by decide)) kindOf_uniform kindOf_unused kindOf_unused) rfl
      fun m _ => mdZero_eq m,
    .of_kinds hd decodeFull_sync (rU_kinds kindOf_unused kindOf_uniform kindOf_unused kindOf_unused) rfl
      fun m _ => mdZero_eq m,
    .of_kinds hd decodeFull_sync (rU_kinds kindOf_unused kindOf_unused kindOf_unused kindOf_unused) rfl
      fun m _ => mdZero_eq m,
    List.forall_mem_nil _⟩

theorem mtxRows_hold (hd : decodeFull w = .full i) : ∀ r ∈ mtxRows w, CheckRow.Holds w i r := by
  simp only [mtxRows, List.forall_mem_cons]
  refine ⟨.of_kinds hd decodeFull_mtx (rU_kinds (kindOf_scalTo (by decide)) kindOf_unused kindOf_unused kindOf_unused) rfl
      fun m _ => mdZero_eq m,
    .of_kinds hd decodeFull_mtx (rU_kinds kindOf_unused kindOf_unused kindOf_unused kindOf_unused) rfl
      fun m _ => mdZero_eq m,
    ?mode,
    .of_kinds hd decodeFull_mtx (rU_kinds kindOf_unused kindOf_uniform kindOf_uniform kindOf_unused) rfl
      fun m _ => mdZero_eq m,
    .of_kinds hd decodeFull_mtx (rUm_kinds (mdIn 1) kindOf_unused kindOf_uniform kindOf_uniform kindOf_unused) rfl
      fun m _ => mdIn_low 1 m,
    .of_kinds hd decodeFull_mtx (rAcpy_kinds w) rfl fun m _ => mdAcpy_eq m,
    .of_kinds hd decodeFull_mtx (rUm_kinds mdClass kindOf_vec kindOf_base kindOf_uniform kindOf_scal) rfl
      fun _ _ => rfl,
    List.forall_mem_nil _⟩
  exact .of_rule (r := rMode (FR.ofWord w)) hd decodeFull_mtx (by simp [fnMtx, mode_check]) rfl
    (rUm_kinds _ kindOf_unused kindOf_unused kindOf_unused kindOf_unused).judge (rMode_md w)

/-! ### F-I rows -/

/-- Mnemonics of the F-I format: MAJ, function codes, uniform class, the kinds of D and A, and MD with IMM24. -/
abbrev ImmRow := Nat × List Nat × Bool × (Nat → Bool) × (Nat → Bool) × (Nat → Nat → Bool)

/-- An instruction that a word of the row's mnemonics decodes to fails its checks as the row says. -/
def ImmRow.Holds (w : Nat) (i : Instr) (r : ImmRow) : Prop :=
  bits w 61 56 = r.1 → bits w 33 26 ∈ r.2.1 → i.check = firstFailure (bits w 55 52) r.2.2.1 [opField w 0, opField w 1]
    (r.2.2.2.1 (opField w 0) && r.2.2.2.2.1 (opField w 1)) (r.2.2.2.2.2 (bits w 25 24) (bits w 23 0)) 7

theorem ImmRow.Holds.of_kinds {m : Nat} {ns : List Nat} {l : List (FI → Instr)} {u : Bool} {kd ka : Operand → Bool}
    {d a : Nat → Bool} {p q : Nat → Nat → Bool} (hd : decodeFull w = .full i)
    (hl : bits w 61 56 = m → decodeFull w = pick l (bits w 33 26) (FI.ofWord w)) (hkd : KindOf kd d) (hka : KindOf ka a)
    (hr : ns.map (fun k => l[k]?.map fun f => (f (FI.ofWord w)).check)
      = ns.map (fun _ => some ((FI.ofWord w).check u kd ka p))) (hm : ∀ m n, p m n = q m n) :
    ImmRow.Holds w i (m, ns, u, d, a, q) := by
  intro hmaj hfn
  have hg : (BitVec.ofNat 4 (bits w 55 52)).toNat = bits w 55 52 := Nat.mod_eq_of_lt (bits_lt w 55 52)
  have hmd : (BitVec.ofNat 2 (bits w 25 24)).toNat = bits w 25 24 := Nat.mod_eq_of_lt (bits_lt w 25 24)
  have himm : (BitVec.ofNat 24 (bits w 23 0)).toNat = bits w 23 0 := Nat.mod_eq_of_lt (bits_lt w 23 0)
  rw [check_of_pick (hl hmaj ▸ hd) hfn hr]
  refine (FI.check_codes (BitVec.ofNat 4 (bits w 55 52)) (opField w 0) (opField w 1) (BitVec.ofNat 2 (bits w 25 24))
    (BitVec.ofNat 24 (bits w 23 0)) u kd ka p).trans ?_
  rw [hg, hmd, himm, hm]
  refine firstFailure_congr fun h => ?_
  simp only [List.forall_mem_cons] at h
  obtain ⟨h0, h1, -⟩ := h
  rw [hkd.ofCode (opField_lt w (by decide)) h0, hka.ofCode (opField_lt w (by decide)) h1]

def immRows : List ImmRow :=
  [(0x02, [0, 1, 2, 3], true, scalTo 63, uniform, fun m _ => upTo 2 m),
   (0x02, [4, 5, 6], true, scalTo 63, uniform, fun m i => m == 0 && decide (i < 64)),
   (0x02, [7], true, scalTo 63, uniform, fun m i => decide (m ≤ 1 ∧ bits i 23 21 ≤ 5)),
   (0x02, [8], true, scalTo 63, unused, fun m _ => upTo 2 m),
   (0x02, [9], true, scalTo 63, uniform, fun m i => m == 0 && decide (i < 2 ^ 16)),
   (0x09, [0, 1, 2, 3], false, vec, data, fun m _ => upTo 2 m),
   (0x09, [4, 5, 6], false, vec, data, fun m i => m == 0 && decide (i < 32) || m == 2 && decide (i < 16)),
   (0x09, [7], false, predW, data, fun m i => decide (m ≤ 1 ∧ bits i 23 21 ≤ 5)),
   (0x09, [8], false, vec, unused, fun m _ => upTo 2 m)]

theorem immVcmp_eq (m n : Nat) : immVcmp m n = decide (m ≤ 1 ∧ bits n 23 21 ≤ 5) := (Bool.decide_and _ _).symm

theorem immRows_hold (hd : decodeFull w = .full i) : ∀ r ∈ immRows, ImmRow.Holds w i r := by
  simp only [immRows, List.forall_mem_cons]
  exact ⟨.of_kinds (p := immV) hd decodeFull_salui kindOf_scal kindOf_uniform rfl fun _ _ => rfl,
    .of_kinds (p := immSsh) hd decodeFull_salui kindOf_scal kindOf_uniform rfl fun _ _ => rfl,
    .of_kinds (p := immVcmp) hd decodeFull_salui kindOf_scal kindOf_uniform rfl immVcmp_eq,
    .of_kinds (p := immV) hd decodeFull_salui kindOf_scal kindOf_unused rfl fun _ _ => rfl,
    .of_kinds (p := immSmovhi) hd decodeFull_salui kindOf_scal kindOf_uniform rfl fun _ _ => rfl,
    .of_kinds (p := immV) hd decodeFull_vinti kindOf_vec kindOf_data rfl fun _ _ => rfl,
    .of_kinds (p := immVsh) hd decodeFull_vinti kindOf_vec kindOf_data rfl fun _ _ => rfl,
    .of_kinds (p := immVcmp) hd decodeFull_vinti kindOf_predW kindOf_data rfl immVcmp_eq,
    .of_kinds (p := immV) hd decodeFull_vinti kindOf_vec kindOf_unused rfl fun _ _ => rfl,
    List.forall_mem_nil _⟩

/-! ### F-M rows -/

/-- An F-M word's check, from its bits and the kinds of its fields. -/
theorem FM.check_ofWord {u : Bool} {kd ka kb : Operand → Bool} {d a b : Nat → Bool} {p : Nat → Nat → Nat → Bool} {q : Bool}
    (hkd : KindOf kd d) (hka : KindOf ka a) (hkb : KindOf kb b)
    (hm : p (bits w 24 22) (bits w 21 20) (bits w 19 17) = q) :
    (FM.ofWord w).check u kd ka kb p = firstFailure (bits w 55 52) u [opField w 0, opField w 1, opField w 2]
      (d (opField w 0) && a (opField w 1) && b (opField w 2)) q 8 := by
  have hg : (BitVec.ofNat 4 (bits w 55 52)).toNat = bits w 55 52 := Nat.mod_eq_of_lt (bits_lt w 55 52)
  have hsz : (BitVec.ofNat 3 (bits w 24 22)).toNat = bits w 24 22 := Nat.mod_eq_of_lt (bits_lt w 24 22)
  have hcl : (BitVec.ofNat 2 (bits w 21 20)).toNat = bits w 21 20 := Nat.mod_eq_of_lt (bits_lt w 21 20)
  have hsc : (BitVec.ofNat 3 (bits w 19 17)).toNat = bits w 19 17 := Nat.mod_eq_of_lt (bits_lt w 19 17)
  refine (FM.check_codes (BitVec.ofNat 4 (bits w 55 52)) (opField w 0) (opField w 1) (opField w 2)
    (BitVec.ofNat 3 (bits w 24 22)) (BitVec.ofNat 2 (bits w 21 20)) (BitVec.ofNat 3 (bits w 19 17))
    (BitVec.ofNat 13 (bits w 12 0)) u kd ka kb p).trans ?_
  rw [hg, hsz, hcl, hsc, hm]
  refine firstFailure_congr fun h => ?_
  simp only [List.forall_mem_cons] at h
  obtain ⟨h0, h1, h2, -⟩ := h
  rw [hkd.ofCode (opField_lt w (by decide)) h0, hka.ofCode (opField_lt w (by decide)) h1,
    hkb.ofCode (opField_lt w (by decide)) h2]

/-- Mnemonics of the F-M format: MAJ, function codes, uniform class, the kinds of D, A and B, and of the access the
least and greatest SZ and the greatest CL and SC. -/
abbrev MemRow := Nat × List Nat × Bool × (Nat → Bool) × (Nat → Bool) × (Nat → Bool) × (Nat × Nat × Nat × Nat)

/-- The access fields of a word lie within the row's bounds. -/
def accessWithin (w : Nat) (a : Nat × Nat × Nat × Nat) : Bool :=
  decide (a.1 ≤ bits w 24 22 ∧ bits w 24 22 ≤ a.2.1 ∧ bits w 21 20 ≤ a.2.2.1 ∧ bits w 19 17 ≤ a.2.2.2)

/-- An instruction that a word of the row's mnemonics decodes to fails its checks as the row says. -/
def MemRow.Holds (w : Nat) (i : Instr) (r : MemRow) : Prop :=
  bits w 61 56 = r.1 → bits w 16 13 ∈ r.2.1 → i.check = firstFailure (bits w 55 52) r.2.2.1
    [opField w 0, opField w 1, opField w 2]
    (r.2.2.2.1 (opField w 0) && r.2.2.2.2.1 (opField w 1) && r.2.2.2.2.2.1 (opField w 2))
    (accessWithin w r.2.2.2.2.2.2) 8

theorem accM_eq (lo hi : Nat) (anyCl anySc : Bool) : accM lo hi anyCl anySc (bits w 24 22) (bits w 21 20) (bits w 19 17)
    = accessWithin w (lo, hi, if anyCl then 2 else 0, if anySc then 5 else 0) := by
  rw [Bool.eq_iff_iff]
  cases anyCl <;> cases anySc <;> simp [accM, accessWithin, and_assoc]

theorem MemRow.Holds.of_kinds {m lo hi : Nat} {ns : List Nat} {l : List (FM → Instr)} {u anyCl anySc : Bool}
    {kd ka kb : Operand → Bool} {d a b : Nat → Bool} (hd : decodeFull w = .full i)
    (hl : bits w 61 56 = m → decodeFull w = pick l (bits w 16 13) (FM.ofWord w))
    (hkd : KindOf kd d) (hka : KindOf ka a) (hkb : KindOf kb b)
    (hr : ns.map (fun k => l[k]?.map fun f => (f (FM.ofWord w)).check)
      = ns.map (fun _ => some ((FM.ofWord w).check u kd ka kb (accM lo hi anyCl anySc)))) :
    MemRow.Holds w i (m, ns, u, d, a, b, (lo, hi, if anyCl then 2 else 0, if anySc then 5 else 0)) := by
  intro hmaj hfn
  rw [check_of_pick (hl hmaj ▸ hd) hfn hr]
  exact FM.check_ofWord hkd hka hkb (accM_eq lo hi anyCl anySc)

def memRows : List MemRow :=
  [(0x05, [0, 1], true, scalTo 63, base, uniform, (0, 3, 2, 5)), (0x05, [2], true, scalTo 63, base, uniform, (0, 3, 0, 0)),
   (0x1C, [0, 1], false, vec, vbase, data, (0, 4, 2, 5)), (0x1C, [2, 3], false, vec, data, data, (0, 4, 0, 0)),
   (0x1C, [4, 5], false, vec, data, data, (2, 4, 0, 0)), (0x1C, [6], false, unused, vbase, data, (0, 4, 2, 0))]

theorem memRows_hold (hd : decodeFull w = .full i) : ∀ r ∈ memRows, MemRow.Holds w i r := by
  simp only [memRows, List.forall_mem_cons]
  exact ⟨.of_kinds (anyCl := true) (anySc := true) hd decodeFull_smem kindOf_scal kindOf_base kindOf_uniform rfl,
    .of_kinds (anyCl := false) (anySc := false) hd decodeFull_smem kindOf_scal kindOf_base kindOf_uniform rfl,
    .of_kinds (anyCl := true) (anySc := true) hd decodeFull_vmem kindOf_vec kindOf_vbase kindOf_data rfl,
    .of_kinds (anyCl := false) (anySc := false) hd decodeFull_vmem kindOf_vec kindOf_data kindOf_data rfl,
    .of_kinds (anyCl := false) (anySc := false) hd decodeFull_vmem kindOf_vec kindOf_data kindOf_data rfl,
    .of_kinds (anyCl := true) (anySc := false) hd decodeFull_vmem kindOf_unused kindOf_vbase kindOf_data rfl,
    List.forall_mem_nil _⟩

end Sys2Proof
end

section
/-! ### Atomics, MOPA and branches -/

namespace Sys2Proof

open Machine Code

variable {w : Nat} {i : Instr}

/-! #### Atomics (Table 6.4) -/

theorem AOp.index_of_all {n : Nat} {op : AOp} (h : AOp.all[n]? = some op) : op.index = n := by
  have hall : ∀ n < 14, AOp.all[n]?.map AOp.index = some n := by decide
  have hn : n < 14 := (List.getElem?_eq_some_iff.1 h).1
  exact Option.some.inj ((congrArg (Option.map AOp.index) h).symm.trans (hall n hn))

/-- The instruction of an atomic family's word is of the operation of its OP. -/
theorem atomic_of_pick {f : AOp → FM → Instr} {n : Nat} {x : FM} (hp : pick (AOp.all.map f) n x = .full i) :
    ∃ op : AOp, op.index = n ∧ i = f op x := by
  rw [pick, List.getElem?_map] at hp
  cases hn : AOp.all[n]? with
  | none => simp [hn] at hp
  | some op =>
    simp only [hn, Option.map_some, Body.full.injEq] at hp
    exact ⟨op, AOp.index_of_all hn, hp.symm⟩

theorem AOp.has64_iff (op : AOp) : op.has64 = true ↔ op.index ∉ [10, 11, 12] := by
  cases op <;> decide

theorem AOp.eq_cas_iff (op : AOp) : op = .cas ↔ op.index = 9 := by
  cases op <;> decide

theorem FM.ofWord_off (w : Nat) : (FM.ofWord w).off.toNat = bits w 12 0 := Nat.mod_eq_of_lt (bits_lt w 12 0)

theorem FM.ofWord_ord (w : Nat) : (FM.ofWord w).ord = bits w 12 11 := by
  rw [FM.ord, FM.ofWord_off]
  simp only [bits]
  omega

theorem FM.ofWord_aack (w : Nat) : (FM.ofWord w).aack = bitAt w 10 := by
  rw [FM.aack, FM.ofWord_off, Bool.eq_iff_iff]
  simp only [bitAt, bits, beq_iff_eq]
  omega

theorem FM.ofWord_sz_eq (w : Nat) : (FM.ofWord w).sz = 3#3 ↔ bits w 24 22 = 3 := by
  have h : (FM.ofWord w).sz.toNat = bits w 24 22 := Nat.mod_eq_of_lt (bits_lt w 24 22)
  rw [BitVec.toNat_eq, h]
  rfl

/-- The access fields that an atomic word admits (R146, R148). -/
def atomicAccess (w : Nat) : Bool :=
  decide ((bits w 24 22 = 2 ∨ bits w 24 22 = 3 ∧ bits w 16 13 ∉ [10, 11, 12]) ∧ bits w 21 20 ≤ 2 ∧ bits w 19 17 ≤ 5
    ∧ (bits w 12 11 = 0 ↔ bits w 19 17 = 0))

theorem accA_eq {op : AOp} (h : op.index = bits w 16 13) :
    accA op (FM.ofWord w).ord (bits w 24 22) (bits w 21 20) (bits w 19 17) = atomicAccess w := by
  have h64 := op.has64_iff
  rw [h] at h64
  rw [Bool.eq_iff_iff, accA, atomicAccess, FM.ofWord_ord]
  simp only [Bool.and_eq_true, Bool.or_eq_true, beq_iff_eq, decide_eq_true_eq, h64, and_assoc]
  refine and_congr_right fun _ => and_congr_right fun _ => and_congr_right fun _ => ?_
  by_cases ho : bits w 12 11 = 0 <;> simp [ho]

theorem check_vamo (hd : decodeFull w = .full i) (hm : bits w 61 56 = 0x20) :
    i.check = firstFailure (bits w 55 52) false [opField w 0, opField w 1, opField w 2]
      ((if bits w 24 22 = 3 then vecEven (opField w 0) else vec (opField w 0)) && vbase (opField w 1)
        && data (opField w 2)) (atomicAccess w) 8 := by
  obtain ⟨op, hop, rfl⟩ := atomic_of_pick (decodeFull_vamo hm ▸ hd)
  have hk := kindOf_ite (FM.ofWord_sz_eq w) kindOf_vecEven kindOf_vec
  refine (FM.check_ofWord (w := w) (u := false) hk kindOf_vbase kindOf_data (accA_eq hop)).trans ?_
  split <;> rfl

theorem check_samo (hd : decodeFull w = .full i) (hm : bits w 61 56 = 0x21) :
    i.check = firstFailure (bits w 55 52) true [opField w 0, opField w 1, opField w 2]
      (scalTo (64 - ((if bits w 16 13 = 9 then 2 else 1) + (if bitAt w 10 then 1 else 0))) (opField w 0)
        && base (opField w 1) && uniform (opField w 2)) (atomicAccess w) 8 := by
  obtain ⟨op, hop, rfl⟩ := atomic_of_pick (decodeFull_samo hm ▸ hd)
  have hspan : samoSpan op (FM.ofWord w).aack
      = (if bits w 16 13 = 9 then 2 else 1) + (if bitAt w 10 then 1 else 0) := by
    simp only [samoSpan, FM.ofWord_aack, op.eq_cas_iff, hop]
  have hk := kindOf_scalTo (top := 64 - samoSpan op (FM.ofWord w).aack) (by unfold samoSpan; split <;> omega)
  rw [← hspan]
  exact FM.check_ofWord (u := true) hk kindOf_base kindOf_uniform (accA_eq hop)

/-! #### MOPA (R247) -/

theorem FX.check_codes (g : BitVec 4) (f a b sa sb : Nat) (rsv : BitVec 3) (acc np ge gs : Bool) :
    FX.check ⟨g, .ofCode f, .ofCode a, .ofCode b, .ofCode sa, .ofCode sb, rsv, acc, np, ge, gs⟩
      = firstFailure g.toNat true [f, a, b, sa, sb]
          (kOr kVec kScal (.ofCode f) && kVec (.ofCode a) && kVec (.ofCode b) && kVec (.ofCode sa) && kVec (.ofCode sb))
          (rsv.toNat == 0) 7 := by
  have hrsv : rsv ≠ 0#3 ↔ (!(rsv.toNat == 0)) = true := by simp [BitVec.toNat_eq]
  simp only [FX.check, firstFailure, Operand.isReserved_ofCode, List.any_cons, List.any_nil, Bool.or_false, Bool.or_assoc,
    ← guard_ne, BitVec.toNat_eq, Bool.true_and, hrsv, decide_eq_true_eq]
  rfl

theorem check_mopa (hd : decodeFull w = .full i) (hm : bits w 61 56 = 0x2D) :
    i.check = firstFailure (bits w 55 52) true [opField w 0, opField w 1, opField w 2, opField w 3, bits w 15 7]
      ((vec (opField w 0) || scalTo 63 (opField w 0)) && vec (opField w 1) && vec (opField w 2) && vec (opField w 3)
        && vec (bits w 15 7)) (bits w 6 4 == 0) 7 := by
  obtain rfl : Instr.mopa (FX.ofWord w) = i := by simpa using (decodeFull_mopa hm).symm.trans hd
  have hg : (BitVec.ofNat 4 (bits w 55 52)).toNat = bits w 55 52 := Nat.mod_eq_of_lt (bits_lt w 55 52)
  have hrsv : (BitVec.ofNat 3 (bits w 6 4)).toNat = bits w 6 4 := Nat.mod_eq_of_lt (bits_lt w 6 4)
  refine (FX.check_codes (BitVec.ofNat 4 (bits w 55 52)) (opField w 0) (opField w 1) (opField w 2) (opField w 3)
    (bits w 15 7) (BitVec.ofNat 3 (bits w 6 4)) (bitAt w 3) (bitAt w 2) (bitAt w 1) (bitAt w 0)).trans ?_
  rw [hg, hrsv]
  refine firstFailure_congr fun h => ?_
  simp only [List.forall_mem_cons] at h
  obtain ⟨h0, h1, h2, h3, h4, -⟩ := h
  have hsb : bits w 15 7 < 512 := bits_lt w 15 7
  rw [(kindOf_vec.or kindOf_scal).ofCode (opField_lt w (by decide)) h0, kindOf_vec.ofCode (opField_lt w (by decide)) h1,
    kindOf_vec.ofCode (opField_lt w (by decide)) h2, kindOf_vec.ofCode (opField_lt w (by decide)) h3,
    kindOf_vec.ofCode hsb h4]

/-! #### Branches (R40) -/

/-- An F-B word's check, by the fields it uses; `ok` judges SA. -/
theorem FB.check_ofWord (w : Nat) (sa sb cnd off : Bool) (ok : Nat → Bool) :
    (FB.ofWord w).check sa sb cnd off ok = firstFailure (bits w 55 52) true [] (ok (bits w 51 46))
      ((sa || bits w 51 46 == 0) && (sb || bits w 45 40 == 0) && (cnd || bits w 39 37 == 0) && (off || bits w 31 0 == 0))
      7 := by
  have hg : (FB.ofWord w).g.toNat = bits w 55 52 := Nat.mod_eq_of_lt (bits_lt w 55 52)
  have hsa : (FB.ofWord w).sa.toNat = bits w 51 46 := Nat.mod_eq_of_lt (bits_lt w 51 46)
  have hsb : (FB.ofWord w).sb.toNat = bits w 45 40 := Nat.mod_eq_of_lt (bits_lt w 45 40)
  have hcnd : (FB.ofWord w).cnd.toNat = bits w 39 37 := Nat.mod_eq_of_lt (bits_lt w 39 37)
  have hoff : (FB.ofWord w).off.toNat = bits w 31 0 := Nat.mod_eq_of_lt (bits_lt w 31 0)
  have unused_ne {n m : Nat} (x : BitVec n) (hx : x.toNat = m) : decide (x ≠ 0#n) = !(m == 0) := by
    rw [← hx, Bool.eq_iff_iff]
    simp [BitVec.toNat_eq]
  simp only [FB.check, firstFailure, unused_ne _ hsa, unused_ne _ hsb, unused_ne _ hcnd, unused_ne _ hoff, ← Bool.not_or,
    ← Bool.not_and]
  have hg7 : (FB.ofWord w).g ≠ 7#4 ↔ (bits w 55 52 != 7) = true := by
    rw [← hg, ← guard_ne, decide_eq_true_eq]
  simp only [hg7, BitVec.toNat_eq, hg, hsa]
  rfl

/-- The fields of an F-B word that its function code uses. -/
theorem check_of_br (hd : decodeFull w = .full i) (hm : bits w 61 56 = 0x04) :
    i.check = (FB.ofWord w).check (bits w 36 32 ∈ [1, 2, 3, 4, 5]) (bits w 36 32 ∈ [1, 2]) (bits w 36 32 ∈ [1, 2, 6, 7, 8])
      (bits w 36 32 ∈ [0, 1, 2, 3, 6, 7, 8]) (fun n => bits w 36 32 = 3 → n ≤ 60) := by
  have hp : pick fnBr (bits w 36 32) (FB.ofWord w) = .full i := decodeFull_br hm ▸ hd
  have hlt : bits w 36 32 < 9 := by
    refine Decidable.byContradiction fun hge => ?_
    rw [(pick_counts fnBr _ _).1 (by simpa [fnBr] using hge)] at hp
    cases hp
  generalize bits w 36 32 = fn at hp hlt ⊢
  obtain rfl | rfl | rfl | rfl | rfl | rfl | rfl | rfl | rfl :
      fn = 0 ∨ fn = 1 ∨ fn = 2 ∨ fn = 3 ∨ fn = 4 ∨ fn = 5 ∨ fn = 6 ∨ fn = 7 ∨ fn = 8 := by omega
  all_goals
    obtain rfl := Body.full.inj hp
    simp [Instr.check]

theorem check_br (hd : decodeFull w = .full i) (hm : bits w 61 56 = 0x04) :
    i.check = firstFailure (bits w 55 52) true [] (decide (bits w 36 32 = 3 → bits w 51 46 ≤ 60))
      ((decide (bits w 36 32 ∈ [1, 2, 3, 4, 5]) || bits w 51 46 == 0) && (decide (bits w 36 32 ∈ [1, 2]) || bits w 45 40 == 0)
        && (decide (bits w 36 32 ∈ [1, 2, 6, 7, 8]) || bits w 39 37 == 0)
        && (decide (bits w 36 32 ∈ [0, 1, 2, 3, 6, 7, 8]) || bits w 31 0 == 0)) 7 :=
  (check_of_br hd hm).trans (FB.check_ofWord w _ _ _ _ _)

end Sys2Proof
end

section
/-! ## A half's own checks (9 to 11 of Table 2.12), read off its bits -/

namespace Sys2Proof

open Machine

/-! ### The operand codes of a half (Table 2.10) -/

namespace HOperand

/-- A code reads back from its operand, a reserved code too. -/
theorem code_ofCode {c : Nat} (h : c < 256) : (HOperand.ofCode c).code = c := by
  unfold HOperand.ofCode
  split
  · simp only [HOperand.code, BitVec.toNat_ofNat]; omega
  split
  · simp only [HOperand.code, BitVec.toNat_ofNat]; omega
  split
  · simp only [HOperand.code, BitVec.toNat_ofNat]; omega
  split
  · rename_i x hx
    have hi : x.index = c - 0xE0 := Special.index_of_all hx
    simp only [HOperand.code, hi]; omega
  · simp only [HOperand.code, BitVec.toNat_ofNat]; omega

/-- Operands of 8-bit codes are equal just where the codes are. -/
theorem ofCode_beq {c d : Nat} (hc : c < 256) (hd : d < 256) : (HOperand.ofCode c == HOperand.ofCode d) = (c == d) := by
  rw [Bool.eq_iff_iff, beq_iff_eq, beq_iff_eq]
  exact ⟨fun h => by rw [← code_ofCode hc, h, code_ofCode hd], fun h => h ▸ rfl⟩

theorem isReserved_ofCode (c : Nat) : (HOperand.ofCode c).isReserved = decide (0xEE ≤ c) := by
  unfold HOperand.ofCode
  split
  · simp only [HOperand.isReserved, eq_comm (a := false), decide_eq_false_iff_not]; omega
  split
  · simp only [HOperand.isReserved, eq_comm (a := false), decide_eq_false_iff_not]; omega
  split
  · simp only [HOperand.isReserved, eq_comm (a := false), decide_eq_false_iff_not]; omega
  split
  · rename_i x hx
    have hlt : c - 0xE0 < 14 := (List.getElem?_eq_some_iff.1 hx).1
    simp only [HOperand.isReserved, eq_comm (a := false), decide_eq_false_iff_not]; omega
  · rename_i hx
    have hge : 14 ≤ c - 0xE0 := List.getElem?_eq_none_iff.1 hx
    simp only [HOperand.isReserved, eq_comm (a := true), decide_eq_true_eq]; omega

theorem isReserved_full (o : HOperand) : o.full.isReserved = o.isReserved := by
  cases o <;> rfl

/-- What `k` says of a half's operand is what `p` says of its code, row by row of Table 2.10; reserved codes aside. -/
theorem eq_of_rows {k : HOperand → Bool} {p : Nat → Bool}
    (hv : ∀ n : BitVec 7, n.toNat < 0x80 → (k (.v n) = true ↔ p n.toNat = true))
    (hs : ∀ n : BitVec 6, n.toNat < 0x40 → (k (.s n) = true ↔ p (0x80 + n.toNat) = true))
    (hi : ∀ n : BitVec 5, n.toNat < 0x20 → (k (.imm n) = true ↔ p (0xC0 + n.toNat) = true))
    (hx : ∀ x : Special, x.index < 14 → (k (.sp x) = true ↔ p (0xE0 + x.index) = true))
    {o : HOperand} (h : o.isReserved = false) : k o = p o.code := by
  rw [Bool.eq_iff_iff]
  cases o with
  | v n => exact hv n n.isLt
  | s n => exact hs n n.isLt
  | imm n => exact hi n n.isLt
  | sp x => exact hx x x.index_lt
  | reserved c => cases h

end HOperand

namespace Code

/-- A half's codes of what differs between lanes: vector registers and the lane-wise special registers. -/
def halfLane (c : Nat) : Bool := decide (c < 0x80) || [0xE0, 0xE1, 0xE6, 0xE7, 0xE8, 0xEA].contains c

def halfScalar (c : Nat) : Bool := decide (0x80 ≤ c ∧ c < 0xC0)

end Code

namespace HOperand

variable {o : HOperand}

theorem isReg_eq (h : o.isReserved = false) : o.isReg = decide (o.code < 0xC0) := by
  refine eq_of_rows (p := fun c => decide (c < 0xC0)) ?_ ?_ ?_ ?_ h <;> intro n <;> simp [isReg] <;> omega

theorem kVec_full (h : o.isReserved = false) : kVec o.full = decide (o.code < 0x80) := by
  refine eq_of_rows (k := fun o => kVec o.full) (p := fun c => decide (c < 0x80)) ?_ ?_ ?_ ?_ h <;> intro n <;>
    simp [kVec, full] <;> omega

theorem kScal_full (h : o.isReserved = false) : kScal o.full = Code.halfScalar o.code := by
  refine eq_of_rows (k := fun o => kScal o.full) ?_ ?_ ?_ ?_ h <;> intro n <;>
    simp [kScal, full, Code.halfScalar] <;> omega

theorem kUniform_full (h : o.isReserved = false) : kUniform o.full = !Code.halfLane o.code := by
  refine eq_of_rows (k := fun o => kUniform o.full) (p := fun c => !Code.halfLane c) ?_ ?_ ?_ ?_ h
  case refine_4 =>
    intro x
    cases x <;> simp [kUniform, full, Code.halfLane, Special.perLane, Special.index]
  all_goals
    intro n
    simp [kUniform, full, Code.halfLane]
    omega

theorem kData_full (h : o.isReserved = false) : kData o.full = true := by
  cases o with
  | reserved c => cases h
  | _ => rfl

theorem halfVec_ofCode (c : Nat) : halfVec (.ofCode c) = if c < 0x80 then some c else none := by
  unfold HOperand.ofCode
  by_cases h : c < 0x80
  · rw [if_pos h, if_pos h, halfVec, BitVec.toNat_ofNat, Nat.mod_eq_of_lt h]
  · rw [if_neg h, if_neg h]
    repeat' split
    all_goals rfl

end HOperand

/-! ### Checks 10 and 11 of an operand half -/

/-- Checks 10 and 11: a wrong operand, then a modifier that is not admitted. -/
def halfResult (wrong admits : Bool) : Option Nat := if wrong then some 0x0A else if !admits then some 0x0B else none

/-- A half by its full form: no field is reserved unless the half's own operands are, and `k` is what the rule says of
the fields' kinds. -/
theorem Half.check_eq {x : Half} {f : FR} {r : RRule} {k : Bool}
    (hf : x.d.isReserved = false → x.s.isReserved = false →
      (f.d.isReserved || f.a.isReserved || f.b.isReserved || f.c.isReserved) = false
      ∧ (r.d f.d && r.a f.a && r.b f.b && r.c f.c) = k) :
    x.check f r = halfResult (x.d.isReserved || x.s.isReserved || !x.d.isReg || !k) (r.md f.md.toNat) := by
  unfold Half.check halfResult
  cases hd : x.d.isReserved with
  | true => rfl
  | false =>
    cases hs : x.s.isReserved with
    | true => rfl
    | false =>
      obtain ⟨hr, hk⟩ := hf hd hs
      cases x.d.isReg with
      | false => rfl
      | true =>
        simp only [FR.check, hr, hk, ne_eq, not_true_eq_false, decide_false, Bool.and_false]
        cases k <;> cases r.md f.md.toNat <;> rfl

/-- What is wrong of a vector half's operands (check 10). -/
def vectorWrong (d s : Nat) : Bool := decide (0x80 ≤ d ∨ 0xEE ≤ s)

/-- What is wrong of a scalar half's operands (check 10). -/
def scalarWrong (d s : Nat) : Bool := !Code.halfScalar d || (Code.halfLane s || decide (0xEE ≤ s))

section
variable {h : Nat} (md : Nat → Bool)

theorem Half.m5_ofBits (h : Nat) : (((Half.ofBits h).m5).zeroExtend 8).toNat = bits h 4 0 := by
  have hm := bits_lt h 4 0
  simp only [Half.ofBits, BitVec.truncate_eq_setWidth, BitVec.toNat_setWidth, BitVec.toNat_ofNat]
  omega

/-- Check 10 of a vector half, whose sources may be any data. -/
theorem Half.vectorWrong_eq (h : Nat) :
    ((Half.ofBits h).d.isReserved || (Half.ofBits h).s.isReserved || !(Half.ofBits h).d.isReg || !kVec (Half.ofBits h).d.full)
      = vectorWrong (bits h 23 16) (bits h 15 8) := by
  have hdlt : bits h 23 16 < 256 := bits_lt h 23 16
  simp only [Half.ofBits, vectorWrong, HOperand.isReserved_ofCode (bits h 15 8)]
  cases hd : (HOperand.ofCode (bits h 23 16)).isReserved with
  | true =>
    rw [HOperand.isReserved_ofCode, decide_eq_true_eq] at hd
    simp
    omega
  | false =>
    rw [HOperand.isReg_eq hd, HOperand.kVec_full hd, HOperand.code_ofCode hdlt, Bool.eq_iff_iff]
    simp
    omega

/-- Check 10 of a scalar half, whose source is uniform. -/
theorem Half.scalarWrong_eq (h : Nat) :
    ((Half.ofBits h).d.isReserved || (Half.ofBits h).s.isReserved || !(Half.ofBits h).d.isReg
        || !(kScal (Half.ofBits h).d.full && kUniform (Half.ofBits h).s.full))
      = scalarWrong (bits h 23 16) (bits h 15 8) := by
  have hdlt : bits h 23 16 < 256 := bits_lt h 23 16
  have hslt : bits h 15 8 < 256 := bits_lt h 15 8
  simp only [Half.ofBits, scalarWrong]
  cases hd : (HOperand.ofCode (bits h 23 16)).isReserved with
  | true =>
    rw [HOperand.isReserved_ofCode, decide_eq_true_eq] at hd
    simp [Code.halfScalar]
    omega
  | false =>
    rw [HOperand.isReg_eq hd, HOperand.kScal_full hd, HOperand.code_ofCode hdlt]
    cases hs : (HOperand.ofCode (bits h 15 8)).isReserved with
    | true =>
      rw [HOperand.isReserved_ofCode] at hs
      simp [hs]
    | false =>
      rw [HOperand.kUniform_full hs, HOperand.code_ofCode hslt, ← HOperand.isReserved_ofCode, hs, Bool.eq_iff_iff]
      simp [Code.halfScalar]
      omega

/-- D := D op S of a vector half. -/
theorem Half.check_vectorBin (h : Nat) :
    (Half.ofBits h).check (Half.ofBits h).bin (rVint2 md)
      = halfResult (vectorWrong (bits h 23 16) (bits h 15 8)) (md (bits h 4 0)) := by
  rw [← Half.vectorWrong_eq, ← Half.m5_ofBits]
  refine Half.check_eq fun hd hs => ⟨?_, ?_⟩
  · simp only [Half.bin, HOperand.isReserved_full, hd, hs]
    rfl
  · simp [rVint2, rVint, Half.bin, HOperand.kData_full hd, HOperand.kData_full hs, kUnused]

/-- D := op S of a vector half. -/
theorem Half.check_vectorUn (h : Nat) :
    (Half.ofBits h).check (Half.ofBits h).un (rVint1 md)
      = halfResult (vectorWrong (bits h 23 16) (bits h 15 8)) (md (bits h 4 0)) := by
  rw [← Half.vectorWrong_eq, ← Half.m5_ofBits]
  refine Half.check_eq fun hd hs => ⟨?_, ?_⟩
  · simp only [Half.un, HOperand.isReserved_full, hd, hs]
    rfl
  · simp [rVint1, rVint, Half.un, HOperand.kData_full hs, kUnused]

/-- A scalar register is a uniform operand too. -/
theorem HOperand.kUniform_of_kScal {o : HOperand} (h : kScal o.full = true) : kUniform o.full = true := by
  cases o with
  | s n => rfl
  | _ => simp [kScal, HOperand.full] at h

/-- D := D op S of a scalar half. -/
theorem Half.check_scalarBin (h : Nat) :
    (Half.ofBits h).check (Half.ofBits h).bin (rSalu 2 md)
      = halfResult (scalarWrong (bits h 23 16) (bits h 15 8)) (md (bits h 4 0)) := by
  rw [← Half.scalarWrong_eq, ← Half.m5_ofBits]
  refine Half.check_eq fun hd hs => ⟨?_, ?_⟩
  · simp only [Half.bin, HOperand.isReserved_full, hd, hs]
    rfl
  · cases hk : kScal (Half.ofBits h).d.full with
    | false => simp [rSalu, Half.bin, hk]
    | true => simp [rSalu, Half.bin, hk, HOperand.kUniform_of_kScal hk, kUnused]

/-- SMOV. -/
theorem Half.check_smov (h : Nat) :
    (Half.ofBits h).check (Half.ofBits h).smov (rSalu 2 md)
      = halfResult (scalarWrong (bits h 23 16) (bits h 15 8)) (md (bits h 4 0)) := by
  rw [← Half.scalarWrong_eq, ← Half.m5_ofBits]
  refine Half.check_eq fun hd hs => ⟨?_, ?_⟩
  · simp only [Half.smov, HOperand.isReserved_full, hd, hs]
    rfl
  · simp [rSalu, Half.smov, kUnused, kUniform, Special.perLane]

end

/-- SADDI8 and SMOVI8, whose S8 is an immediate: A is D itself, or unused. -/
theorem HalfI.check_fi (h : Nat) {own : Bool} {ka : Operand → Bool}
    (ha : ∀ n, ka (if own then .s n else .v 0#8) = true) :
    (HalfI.ofBits h).check ((HalfI.ofBits h).fi own) ka
      = halfResult (!Code.halfScalar (bits h 23 16)) (decide (bits h 4 0 ≤ 2)) := by
  have hdlt : bits h 23 16 < 256 := bits_lt h 23 16
  have hd : (HalfI.ofBits h).d = .ofCode (bits h 23 16) := rfl
  have hm5 : (HalfI.ofBits h).m5.toNat = bits h 4 0 := Nat.mod_eq_of_lt (bits_lt h 4 0)
  have hmd : immV ((HalfI.ofBits h).m5.truncate 2).toNat = fun _ => decide (bits h 4 0 % 4 ≤ 2) := by
    simp only [BitVec.truncate_eq_setWidth, BitVec.toNat_setWidth, hm5]
    rfl
  have hscal : (HalfI.ofBits h).d.isReserved = false → kScal (HalfI.ofBits h).d.full = Code.halfScalar (bits h 23 16) :=
    fun hr => by rw [HOperand.kScal_full hr, hd, HOperand.code_ofCode hdlt]
  unfold HalfI.check halfResult
  simp only [HalfI.fi, FI.check, hmd, hm5]
  cases hr : (HalfI.ofBits h).d.isReserved with
  | true =>
    rw [hd, HOperand.isReserved_ofCode, decide_eq_true_eq] at hr
    simp [Code.halfScalar]
    omega
  | false =>
    rw [← hscal hr]
    cases ho : (HalfI.ofBits h).d with
    | s n =>
      have hfields : ((HOperand.s n).full.isReserved || (if own = true then (HOperand.s n).full else .v 0#8).isReserved)
          = false := by cases own <;> rfl
      have hkinds : (kScal (HOperand.s n).full && ka (if own = true then (HOperand.s n).full else .v 0#8)) = true := ha n
      have hk : kScal (HOperand.s n).full = true := rfl
      rw [hfields, hkinds, hk]
      by_cases hlo : bits h 4 0 % 4 ≤ 2
      · have hhi : 4 ≤ bits h 4 0 ↔ ¬ bits h 4 0 ≤ 2 := by omega
        simp only [hlo, halfReason, HOperand.isReg, ge_iff_le, hhi]
        simp
      · have hhi : ¬ bits h 4 0 ≤ 2 := by omega
        simp [hlo, hhi, halfReason, HOperand.isReg]
    | reserved c => rw [ho] at hr; cases hr
    | _ => cases own <;> simp [kScal, HOperand.full, HOperand.isReg, halfReason, Operand.isReserved]

/-! ### A half's own checks by OP7 (Table 2.11) -/

/-- What is wrong of the operands of a half with the code op (check 10). -/
def halfWrong (op d s : Nat) : Bool :=
  if decide (op ≤ 0x19) then decide (0x80 ≤ d ∨ 0xEE ≤ s)
  else !Code.halfScalar d || decide (op < 0x26) && (Code.halfLane s || decide (0xEE ≤ s))

/-- The modifiers that a half with the code op admits (check 11). -/
def halfAdmits (op m : Nat) : Bool :=
  decide (if op ∈ [0, 1, 2, 7, 8, 9, 13, 15] then m = 0 ∨ m = 2 else if op ∈ [10, 11] then m ≤ 3
    else if op ∈ [16, 17, 18] then m ≤ 15 else if op ∈ [19, 20] then m ∈ [0, 4, 16, 20] else if op ∈ [23, 24] then True
    else if op = 25 then m ≤ 0x13 else if op ∈ [35, 36] then m ≤ 1 else if op ∈ [0x26, 0x27] then m ≤ 2 else m = 0)

theorem halfWrong_vector {op : Nat} (h : op ≤ 0x19) (d s : Nat) : halfWrong op d s = vectorWrong d s :=
  if_pos (decide_eq_true h)

theorem halfWrong_scalar {op : Nat} (h : 0x1A ≤ op) (h' : op < 0x26) (d s : Nat) : halfWrong op d s = scalarWrong d s := by
  rw [halfWrong, if_neg (by simp; omega), decide_eq_true h', Bool.true_and]
  rfl

/-- The check of a half whose OP7 names `f` applied to its bits. -/
def HalfRow (ns : List Nat) : Prop := ∀ op ∈ ns, ∀ h : Nat, (fnHalf[op]?.map fun f => (f (Half.ofBits h)).check)
  = some (halfResult (halfWrong op (bits h 23 16) (bits h 15 8)) (halfAdmits op (bits h 4 0)))

theorem HalfRow.of_rule {ns : List Nat} {full : Half → FR} {r : RRule} {wrong : Nat → Nat → Bool}
    (hr : ∀ x : Half, ns.map (fun k => fnHalf[k]?.map fun f => (f x).check) = ns.map fun _ => some (x.check (full x) r))
    (hc : ∀ h : Nat, (Half.ofBits h).check (full (Half.ofBits h)) r
      = halfResult (wrong (bits h 23 16) (bits h 15 8)) (r.md (bits h 4 0)))
    (hw : ∀ op ∈ ns, ∀ d s, halfWrong op d s = wrong d s) (hm : ∀ op ∈ ns, ∀ m < 32, r.md m = halfAdmits op m) :
    HalfRow ns := by
  intro op hop h
  rw [List.map_eq_map_iff.1 (hr (Half.ofBits h)) op hop, hc, hw op hop, hm op hop _ (bits_lt h 4 0)]

section
variable {ns : List Nat} {md : Nat → Bool} (hm : ∀ op ∈ ns, ∀ m < 32, md m = halfAdmits op m)
include hm

theorem HalfRow.of_vectorBin (hv : ∀ op ∈ ns, op ≤ 0x19)
    (hr : ∀ x : Half, ns.map (fun k => fnHalf[k]?.map fun f => (f x).check)
      = ns.map fun _ => some (x.check x.bin (rVint2 md))) : HalfRow ns :=
  .of_rule hr (Half.check_vectorBin md) (fun op h => halfWrong_vector (hv op h)) hm

theorem HalfRow.of_vectorUn (hv : ∀ op ∈ ns, op ≤ 0x19)
    (hr : ∀ x : Half, ns.map (fun k => fnHalf[k]?.map fun f => (f x).check)
      = ns.map fun _ => some (x.check x.un (rVint1 md))) : HalfRow ns :=
  .of_rule hr (Half.check_vectorUn md) (fun op h => halfWrong_vector (hv op h)) hm

theorem HalfRow.of_scalarBin (hs : ∀ op ∈ ns, 0x1A ≤ op ∧ op < 0x26)
    (hr : ∀ x : Half, ns.map (fun k => fnHalf[k]?.map fun f => (f x).check)
      = ns.map fun _ => some (x.check x.bin (rSalu 2 md))) : HalfRow ns :=
  .of_rule hr (Half.check_scalarBin md) (fun op h => halfWrong_scalar (hs op h).1 (hs op h).2) hm

end

theorem halfRow_smov : HalfRow [34] :=
  .of_rule (fun _ => rfl) (Half.check_smov mdZero) (by simpa using halfWrong_scalar (by decide) (by decide)) (by decide)

/-- The OP7s whose half's S8 is an operand, by the rule of their mnemonics. -/
def halfGroups : List (List Nat) :=
  [[0, 1, 2, 7, 8, 9], [13, 15], [3, 4, 5, 6], [12, 14], [10, 11], [16, 17, 18], [19, 20], [21, 22],
    [23, 24], [25], [26, 27, 28, 29, 30, 31, 32, 33, 37], [34], [35, 36]]

theorem halfGroups_hold : ∀ ns ∈ halfGroups, HalfRow ns := by
  simp only [halfGroups, List.forall_mem_cons]
  exact ⟨.of_vectorBin (md := tyW) (by decide) (by decide) (fun _ => rfl),
    .of_vectorUn (md := tyW) (by decide) (by decide) (fun _ => rfl),
    .of_vectorBin (md := tyNone) (by decide) (by decide) (fun _ => rfl),
    .of_vectorUn (md := tyNone) (by decide) (by decide) (fun _ => rfl),
    .of_vectorBin (md := tyAll) (by decide) (by decide) (fun _ => rfl),
    .of_vectorBin (md := mdIn 0x0F) (by decide) (by decide) (fun _ => rfl),
    .of_vectorBin (md := mdIn 0x14) (by decide) (by decide) (fun _ => rfl),
    .of_vectorUn (md := mdZero) (by decide) (by decide) (fun _ => rfl),
    .of_vectorBin (md := mdIn 0x1F) (by decide) (by decide) (fun _ => rfl),
    .of_vectorUn (md := mdVcvt) (by decide) (by decide) (fun _ => rfl),
    .of_scalarBin (md := mdZero) (by decide) (by decide) (fun _ => rfl),
    halfRow_smov,
    .of_scalarBin (md := mdIn 1) (by decide) (by decide) (fun _ => rfl), List.forall_mem_nil _⟩

/-- The own checks of a half whose S8 is an operand. -/
theorem check_fnHalf {op : Nat} (hop : op < 38) (h : Nat) : (fnHalf[op]?.map fun f => (f (Half.ofBits h)).check)
    = some (halfResult (halfWrong op (bits h 23 16) (bits h 15 8)) (halfAdmits op (bits h 4 0))) := by
  obtain ⟨ns, hns, hmem⟩ : ∃ ns ∈ halfGroups, op ∈ ns := by
    revert op
    decide
  exact halfGroups_hold ns hns op hmem h

/-! ### Checks 9 to 11 of any half -/

/-- The own checks of a half whose S8 is an immediate. -/
theorem halfResult_imm {op : Nat} (hop : op ∈ [0x26, 0x27]) (d s m : Nat) :
    halfResult (halfWrong op d s) (halfAdmits op m) = halfResult (!Code.halfScalar d) (decide (m ≤ 2)) := by
  simp only [List.mem_cons, List.not_mem_nil, or_false] at hop
  obtain rfl | rfl := hop <;> simp [halfWrong, halfAdmits]

/-- The reason of the first of checks 9 to 11 that a half of these bits fails, and 0 where it passes all three. -/
def halfOwn (h : Nat) : Nat :=
  if decide (bits h 30 24 = 0x7F) then (if bits h 23 0 = 0 then 0 else 9) else if 0x28 ≤ bits h 30 24 then 9
  else if halfWrong (bits h 30 24) (bits h 23 16) (bits h 15 8) then 0x0A
  else if !halfAdmits (bits h 30 24) (bits h 4 0) then 0x0B else 0

theorem halfOwn_nop {h : Nat} (hop : bits h 30 24 = 0x7F) : halfOwn h = if bits h 23 0 = 0 then 0 else 9 :=
  if_pos (decide_eq_true hop)

theorem halfOwn_unassigned {h : Nat} (hop : 0x28 ≤ bits h 30 24) (hnop : bits h 30 24 ≠ 0x7F) : halfOwn h = 9 :=
  (if_neg (by simpa using hnop)).trans (if_pos hop)

theorem halfOwn_operands {h : Nat} (hop : bits h 30 24 < 0x28) :
    halfOwn h = if halfWrong (bits h 30 24) (bits h 23 16) (bits h 15 8) then 0x0A
      else if !halfAdmits (bits h 30 24) (bits h 4 0) then 0x0B else 0 :=
  (if_neg (by simp; omega)).trans (if_neg (by omega))

/-- A half other than a NOP half of assigned OP7 fails checks 10 and 11 as its operands and its modifier say. -/
theorem halfOwn_of_lt {h : Nat} (hop : bits h 30 24 < 0x28) : (if halfOwn h = 0 then none else some (halfOwn h))
    = halfResult (halfWrong (bits h 30 24) (bits h 23 16) (bits h 15 8)) (halfAdmits (bits h 30 24) (bits h 4 0)) := by
  rw [halfOwn_operands hop, halfResult]
  generalize halfWrong (bits h 30 24) (bits h 23 16) (bits h 15 8) = wrong
  generalize halfAdmits (bits h 30 24) (bits h 4 0) = admits
  cases wrong <;> cases admits <;> rfl

section
variable {h : Nat}

theorem decodeHalf_operand (hop : bits h 30 24 < 38) :
    decodeHalf h = fnHalf[bits h 30 24]?.map fun f => f (Half.ofBits h) := by
  rw [decodeHalf]
  cases hf : fnHalf[bits h 30 24]? with
  | none => exact absurd (List.getElem?_eq_none_iff.1 hf) (by simpa [fnHalf] using hop)
  | some f => rfl

theorem decodeHalf_saddi8 (hop : bits h 30 24 = 0x26) : decodeHalf h = some (.saddi8Half (HalfI.ofBits h)) := by
  rw [decodeHalf, hop]
  rfl

theorem decodeHalf_smovi8 (hop : bits h 30 24 = 0x27) : decodeHalf h = some (.smovi8Half (HalfI.ofBits h)) := by
  rw [decodeHalf, hop]
  rfl

theorem decodeHalf_nop (hop : bits h 30 24 = 0x7F) : decodeHalf h = some (.nopHalf (BitVec.ofNat 24 (bits h 23 0))) := by
  rw [decodeHalf, hop]
  rfl

theorem decodeHalf_unassigned (hop : 0x28 ≤ bits h 30 24) (hnop : bits h 30 24 ≠ 0x7F) : decodeHalf h = none := by
  have hnone : fnHalf[bits h 30 24]? = none := List.getElem?_eq_none (by simp [fnHalf]; omega)
  simp only [decodeHalf, hnone]
  rw [if_neg (by omega), if_neg (by omega), if_neg hnop]

theorem check_decodeHalf (hop : bits h 30 24 < 0x28) : ((decodeHalf h).map Instr.check)
    = some (halfResult (halfWrong (bits h 30 24) (bits h 23 16) (bits h 15 8)) (halfAdmits (bits h 30 24) (bits h 4 0))) := by
  by_cases hlt : bits h 30 24 < 38
  · rw [← check_fnHalf hlt h, decodeHalf_operand hlt, Option.map_map]
    rfl
  obtain h6 | h7 : bits h 30 24 = 0x26 ∨ bits h 30 24 = 0x27 := by omega
  · rw [halfResult_imm (by simp [h6]), ← HalfI.check_fi h (own := true) (ka := kUniform) fun _ => rfl,
      decodeHalf_saddi8 h6]
    rfl
  · rw [halfResult_imm (by simp [h7]), ← HalfI.check_fi h (own := false) (ka := kUnused) fun _ => rfl,
      decodeHalf_smovi8 h7]
    rfl

end

/-- A half's own checks, as TRAPINFO. -/
theorem halfCheck_eq (n h : Nat) :
    halfCheck n (decodeHalf h) = if halfOwn h = 0 then none else some (halfOwn h + 256 * n) := by
  by_cases hop : bits h 30 24 < 0x28
  · have hc := check_decodeHalf hop
    rw [← halfOwn_of_lt hop] at hc
    obtain ⟨i, hi, hck⟩ := Option.map_eq_some_iff.1 hc
    simp only [hi, halfCheck, hck]
    split <;> rfl
  by_cases hnop : bits h 30 24 = 0x7F
  · have hrest : BitVec.ofNat 24 (bits h 23 0) = 0#24 ↔ bits h 23 0 = 0 := by
      rw [BitVec.toNat_eq, BitVec.toNat_ofNat, Nat.mod_eq_of_lt (bits_lt h 23 0)]
      rfl
    have hcheck : (Instr.nopHalf (BitVec.ofNat 24 (bits h 23 0))).check = if bits h 23 0 = 0 then none else some 0x09 :=
      ite_congr (propext hrest) (fun _ => rfl) (fun _ => rfl)
    rw [decodeHalf_nop hnop, halfCheck, hcheck, halfOwn_nop hnop]
    by_cases h0 : bits h 23 0 = 0
    · simp only [if_pos h0, Option.map_none, if_true]
    · simp only [if_neg h0, Option.map_some]
      rfl
  · rw [decodeHalf_unassigned (by omega) hnop, halfOwn_unassigned (by omega) hnop]
    rfl

end Sys2Proof
end

section
/-! ## The checks of a pair word (9 to 15 of Table 2.12), and the statement -/

namespace Sys2Proof

open Machine

/-- The vector registers of two codes, where both name one, lie in one bank. -/
theorem sameBank_ofCode (c d : Nat) :
    (halfVec (.ofCode c)).any (fun a => (halfVec (.ofCode d)).any fun b => a % 4 == b % 4)
      = (decide (c < 0x80 ∧ d < 0x80) && c % 4 == d % 4) := by
  rw [HOperand.halfVec_ofCode, HOperand.halfVec_ofCode]
  by_cases hc : c < 0x80 <;> by_cases hd : d < 0x80 <;> simp [hc, hd]

/-- A vector half that passes its own checks writes a vector register. -/
theorem vectorHalf_writes {h : Nat} (hv : vectorHalf h = true) (h0 : halfOwn h = 0) : bits h 23 16 < 0x80 := by
  rw [vectorHalf, decide_eq_true_eq] at hv
  refine Decidable.byContradiction fun hd => ?_
  have hw : halfWrong (bits h 30 24) (bits h 23 16) (bits h 15 8) = true := by
    rw [halfWrong_vector hv, vectorWrong, decide_eq_true_eq]
    omega
  rw [halfOwn_operands (by omega), if_pos hw] at h0
  cases h0

/-- Of two vector halves that pass their own checks, both destinations are vector registers. -/
theorem vectorHalves_write {h k : Nat} (hh : halfOwn h = 0) (hk : halfOwn k = 0) :
    (vectorHalf h && vectorHalf k && decide (bits h 23 16 < 0x80 ∧ bits k 23 16 < 0x80)) = (vectorHalf h && vectorHalf k) := by
  cases hv : vectorHalf h with
  | false => rfl
  | true =>
    cases kv : vectorHalf k with
    | false => rfl
    | true => exact decide_eq_true ⟨vectorHalf_writes hv hh, vectorHalf_writes kv hk⟩

/-- The refusal of two halves of bits b 0 and b 1: their own checks, then those of the two together (R51). -/
def pairRefusal (b : Nat → Nat) : Option (Nat × Nat) :=
  if halfOwn (b 0) ≠ 0 then some (0x01, halfOwn (b 0)) else if halfOwn (b 1) ≠ 0 then some (0x01, halfOwn (b 1) + 256)
  else if !decide (bits (b 0) 30 24 = 0x7F) && !decide (bits (b 1) 30 24 = 0x7F) && bits (b 0) 23 16 == bits (b 1) 23 16 then
    some (0x02, 0x11)
  else if vectorHalf (b 0) && vectorHalf (b 1) && bits (b 0) 23 16 % 4 == bits (b 1) 23 16 % 4 then some (0x02, 0x12)
  else if vectorHalf (b 0) && vectorHalf (b 1) && decide (bits (b 0) 15 8 < 0x80 ∧ bits (b 1) 15 8 < 0x80)
      && bits (b 0) 15 8 % 4 == bits (b 1) 15 8 % 4 then some (0x02, 0x13)
  else if !decide (bits (b 0) 30 24 = 0x7F) && !vectorHalf (b 0) && bits (b 0) 7 5 != 7 then some (0x02, 0x14)
  else if !decide (bits (b 1) 30 24 = 0x7F) && !vectorHalf (b 1) && bits (b 1) 7 5 != 7 then some (0x02, 0x114)
  else none

theorem nopHalfBits_eq (h : Nat) : nopHalfBits h = decide (bits h 30 24 = 0x7F) := by
  rw [Bool.eq_iff_iff, nopHalfBits, beq_iff_eq, decide_eq_true_eq]

theorem Half.g3_ofBits (h : Nat) : ((Half.ofBits h).g3 != 7#3) = (bits h 7 5 != 7) := by
  have hg : (Half.ofBits h).g3.toNat = bits h 7 5 := Nat.mod_eq_of_lt (bits_lt h 7 5)
  rw [Bool.eq_iff_iff, bne_iff_ne, bne_iff_ne, Ne, BitVec.toNat_eq, hg]
  rfl

theorem pairCheck_eq {w : Nat} {b : Nat → Nat} (hb0 : b 0 = bits w 61 31) (hb1 : b 1 = bits w 30 0) :
    pairCheck w = pairRefusal b := by
  unfold pairRefusal
  rw [hb0, hb1]
  by_cases h0 : halfOwn (bits w 61 31) = 0
  · by_cases h1 : halfOwn (bits w 30 0) = 0
    · rw [if_neg (not_not_intro h0), if_neg (not_not_intro h1)]
      have p0 : halfCheck 0 (decodeHalf (bits w 61 31)) = none := (halfCheck_eq 0 _).trans (if_pos h0)
      have p1 : halfCheck 1 (decodeHalf (bits w 30 0)) = none := (halfCheck_eq 1 _).trans (if_pos h1)
      have hd0 : bits (bits w 61 31) 23 16 < 256 := bits_lt _ 23 16
      have hd1 : bits (bits w 30 0) 23 16 < 256 := bits_lt _ 23 16
      simp only [pairCheck, p0, p1, nopHalfBits_eq, Half.g3_ofBits, Bool.not_or]
      simp only [Half.ofBits, HOperand.ofCode_beq hd0 hd1, sameBank_ofCode]
      simp only [← Bool.and_assoc, vectorHalves_write h0 h1]
    · rw [if_neg (not_not_intro h0), if_pos h1]
      exact pairCheck_second ((halfCheck_eq 0 _).trans (if_pos h0)) ((halfCheck_eq 1 _).trans (if_neg h1))
  · rw [if_pos h0]
    exact pairCheck_first ((halfCheck_eq 0 _).trans (if_neg h0))

variable {w : Nat} {i : Instr}

theorem checkRows_hold (hd : decodeFull w = .full i) : ∀ r ∈ ctlRows ++ saluRows ++ maskRows ++ vintRows ++ vadrRows w
    ++ vfpRows ++ vhfpRows ++ vcvtRows ++ xlaneRows w ++ engRows w ++ syncRows ++ mtxRows w, CheckRow.Holds w i r := by
  simp only [List.forall_mem_append, and_assoc]
  exact ⟨ctlRows_hold hd, saluRows_hold hd, maskRows_hold hd, vintRows_hold hd, vadrRows_hold hd, vfpRows_hold hd,
    vhfpRows_hold hd, vcvtRows_hold hd, xlaneRows_hold hd, engRows_hold hd, syncRows_hold hd, mtxRows_hold hd⟩

/-- Settles O4: MAJ and function code choose the family's list; each mnemonic's rule is read off the codes of its fields;
and a word that fails a check, or passes the allocation, runs as its trap alone. -/
theorem illegalWords : Obligations.IllegalWords := by
  unfold Obligations.IllegalWords
  refine ⟨?counts, ?rows, ?pair, ?illegal, ?range⟩
  case counts =>
    intro w h62
    exact ⟨fun h => (decodeBody_of_clear h62).trans (decodeFull_unassigned h), decodeBody_counts h62⟩
  case rows =>
    intro w i h62 hb
    have hd : decodeFull w = .full i := (decodeBody_of_clear h62).symm.trans hb
    exact ⟨checkRows_hold hd, immRows_hold hd, memRows_hold hd, ⟨check_vamo hd, check_samo hd⟩, check_mopa hd, check_br hd⟩
  case pair =>
    intro w
    exact pairCheck_eq (w := w) (b := fun n => if n = 0 then bits w 61 31 else bits w 30 0) rfl rfl
  case illegal => exact fun i s gid r g hf hi hr => exec_illegal hf hi hr
  case range =>
    intro x y z s gid g p hp hi hw he
    have hf : ∃ f, exec p.1 s = runWord p.1 p.2 s f := by
      clear hw he
      revert p
      simp only [List.forall_mem_cons]
      exact ⟨⟨_, rfl⟩, ⟨_, rfl⟩, ⟨_, rfl⟩, ⟨_, rfl⟩, ⟨_, rfl⟩, ⟨_, rfl⟩, ⟨_, rfl⟩, ⟨_, rfl⟩, ⟨_, rfl⟩, ⟨_, rfl⟩,
        ⟨_, rfl⟩, ⟨_, rfl⟩, ⟨_, rfl⟩, ⟨_, rfl⟩, ⟨_, rfl⟩, ⟨_, rfl⟩, ⟨_, rfl⟩, ⟨_, rfl⟩, ⟨_, rfl⟩, ⟨_, rfl⟩, ⟨_, rfl⟩,
        ⟨_, rfl⟩, ⟨_, rfl⟩, List.forall_mem_nil _⟩
    exact exec_pastAllocation hf hi hw he

end Sys2Proof
end
